-- ==== Sys2Proof/Word.lean ====
section
/-! DEFINITION. The words the Shuane S9 works on, and their plainest arithmetic (R11, R76, R123, R103). -/

namespace Sys2Proof

/-- A 64-bit scalar register value (R123). -/
abbrev Word := BitVec 64

/-- One byte of storage. -/
abbrev Byte := BitVec 8

/-- A five-bit register field of a syllable (R86 to R88). -/
abbrev Reg := BitVec 5

/-- A four-bit stream register field of a T-op (R96). -/
abbrev TReg := BitVec 4

/-- The bit of a Boolean, as a Nat. -/
def bit (b : Bool) : Nat := if b then 1 else 0

/-- The 64-bit value 1 or 0 of a test, as the compares write it. -/
def ofBool64 (b : Bool) : Word := if b then 1#64 else 0#64

end Sys2Proof
end

