-- ==== Sys2Proof/Formats.lean ====
section
/-! DEFINITION. The operand fields of the syllable, T-op and near-memory formats (R86 to R99), one structure each. -/

namespace Sys2Proof

/-- VR, scalar-capable (R87, R92): `s` is fn[0], making b a scalar register; x and y are chain a and chain b. -/
structure VSc where
  d : Reg
  a : Reg
  b : Reg
  x : Bool
  y : Bool
  m : BitVec 4
  s : Bool
  deriving DecidableEq, Repr

/-- VR with two vector sources (R87). -/
structure VV where
  d : Reg
  a : Reg
  b : Reg
  x : Bool
  y : Bool
  m : BitVec 4
  deriving DecidableEq, Repr

/-- VR with one vector source (R87). -/
structure V1 where
  d : Reg
  a : Reg
  x : Bool
  m : BitVec 4
  deriving DecidableEq, Repr

/-- VR with one vector source and a scalar or code in [12:8] (R92: vslide, vfcvt). -/
structure VS where
  d : Reg
  a : Reg
  b : Reg
  x : Bool
  m : BitVec 4
  deriving DecidableEq, Repr

/-- VR with masks only (R230). -/
structure VK where
  d : Reg
  a : Reg
  b : Reg
  m : BitVec 4
  deriving DecidableEq, Repr

/-- VM, a load (R87, R246): b names the stride scalar, index or shape vector; o ordered, c space code, v overtake. -/
structure VLd where
  d : Reg
  a : Reg
  b : Reg
  o : Bool
  c : BitVec 3
  v : Bool
  m : BitVec 3
  deriving DecidableEq, Repr

/-- VM, a store (R87, R246): y chain, c space code, n ntf. -/
structure VSt where
  d : Reg
  a : Reg
  b : Reg
  y : Bool
  c : BitVec 3
  n : Bool
  m : BitVec 3
  deriving DecidableEq, Repr

/-- VA (R87): vamo, c the two-bit space field. -/
structure VAm where
  d : Reg
  a : Reg
  b : Reg
  c : BitVec 2
  m : BitVec 3
  deriving DecidableEq, Repr

/-- M (R88), every field: f the matrix format, u and v unsigned A and B, s saturate, c accumulate. -/
structure MF where
  t : Reg
  a : Reg
  b : Reg
  f : BitVec 4
  u : Bool
  v : Bool
  s : Bool
  c : Bool
  deriving DecidableEq, Repr

/-- C (R88): y sync, e scope, g tag. -/
structure CF where
  d : Reg
  a : Reg
  l : Reg
  y : BitVec 2
  e : BitVec 2
  g : BitVec 4
  deriving DecidableEq, Repr

/-- The header fields of tlaunch (R97). -/
structure LaunchHdr where
  a   : TReg
  gsz : BitVec 3
  lm  : BitVec 6
  gc  : BitVec 14
  ker : BitVec 16
  deriving DecidableEq, Repr

/-- An operand word of tlaunch (R97). -/
inductive LaunchOp where
  | inp (lb : BitVec 8)
  | out (lb : BitVec 8)
  | sreg (t : TReg)
  | simm (i : BitVec 60)
  | raw (t : TReg) (len : BitVec 40)
  | after (t : TReg)
  deriving DecidableEq, Repr

/-- The fields of a near-memory command but for its opcode (R99). -/
structure NmCmd where
  w     : BitVec 5
  g     : BitVec 5
  rm    : BitVec 3
  count : BitVec 32
  dst   : Word
  src   : Word
  aux1  : Word
  aux2  : Word
  k0    : BitVec 32
  k1    : BitVec 32
  k2    : BitVec 32
  k3    : BitVec 32
  k4    : BitVec 32
  deriving DecidableEq, Repr

/-! ### What a queued syllable does: the operation a VIQ, matrix-queue or copy-queue entry holds (R20, R22) -/

/-- The two-operand integer functions of R223. -/
inductive VInt where
  | add | sub | mul | mulh | mulhU | min | minU | max | maxU | and | or | xor | sll | srl | sra
  | sadd | saddU | ssub | ssubU
  deriving DecidableEq, Repr

/-- The two-operand floating-point functions of R224 and R226. -/
inductive VFp2 where
  | add | sub | mul | div | min | max
  deriving DecidableEq, Repr

/-- The one-operand functions of R225. -/
inductive VFp1 where
  | sqrt | rcp | rsq | exp2 | log2
  deriving DecidableEq, Repr

/-- The compares of R229. -/
inductive VCmp where
  | ltu | geu | eq | ne | lt | ge | feq | flt | fle | funord
  deriving DecidableEq, Repr

/-- The mask operations of R230. -/
inductive KOp where
  | and | or | xor | inv
  deriving DecidableEq, Repr

/-- The mask queries of R231. -/
inductive KQuery where
  | count | any | first
  deriving DecidableEq, Repr

/-- R237: what a reduction combines with. -/
inductive RedOp where
  | sum | fsum | max | min
  deriving DecidableEq, Repr

/-- R237: the three reduction shapes. -/
inductive RedKind where
  | red | fold | scan
  deriving DecidableEq, Repr

/-- R255: the vector atomics. -/
inductive VAmoOp where
  | add | min | max | swap
  deriving DecidableEq, Repr

/-- R246: how a memory syllable reaches its elements. -/
inductive VShape where
  | strided | indexed | tensor
  deriving DecidableEq, Repr

/-- The memory syllables of R246. -/
inductive VMem where
  | load (sh : VShape) (o : VLd)
  | store (sh : VShape) (o : VSt)
  | gl (o : VLd)
  | sc (o : VSt)
  | amo (op : VAmoOp) (o : VAm)
  deriving DecidableEq, Repr

/-- What a V syllable does in the vector queue. -/
inductive VOp where
  | int (f : VInt) (o : VSc)
  | cmp (f : VCmp) (o : VSc)
  | merge (o : VSc)
  | fp2 (f : VFp2) (o : VSc)
  | fma (negP negC : Bool) (o : VV)
  | fp1 (f : VFp1) (o : V1)
  | cvt (o : VS)
  | cls (o : V1)
  | kop (f : KOp) (o : VK)
  | kq (f : KQuery) (d a : Reg)
  | ppinit (norm : Bool) (d : Reg)
  | ppmul (pb : Bool) (o : VV)
  | ppdiv (d : Reg)
  | ppmvV (d a : Reg) (m : BitVec 4)
  | ppmvP (d a : Reg) (m : BitVec 4)
  | slide (up : Bool) (o : VS)
  | gath (o : VV)
  | scat (o : VV)
  | compress (o : V1)
  | expand (o : V1)
  | bcast (d : Reg) (m : BitVec 4)
  | ext (d a : Reg)
  | ins (d : Reg) (m : BitVec 4)
  | vid (d : Reg) (m : BitVec 4)
  | mv (o : V1)
  | red (k : RedKind) (f : RedOp) (o : V1)
  | tocb (d a : Reg)
  | mem (o : VMem)
  /-- The head of a repeat frame (R243): count, stride, and the passes R captured. -/
  | rep (count stride r : Nat)
  /-- A grant or width point travelling in queue order (R201, R206): vector bytes and mask bits that stay live.
  It takes no queue entry. -/
  | trunc (vbits : Nat) (kbits : Option Nat)
  /-- A write to PDEGn, PSn, PNn or PFLAGS, by its register number, behind its bundle's own V syllable (R78, R263). It takes no
  queue entry. -/
  | setp (n : Nat) (v : Word)
  deriving DecidableEq, Repr

/-- What an M syllable does in the matrix queue. -/
inductive MOp where
  | mma (g : Bool) (o : MF)
  | zero
  | ld
  | st
  | drain (kind : Nat) (q : Reg) (clr : Bool)
  | add (col isInt sat : Bool)
  | sum (i4 u sat : Bool)
  deriving DecidableEq, Repr

/-- The copy commands of R302. -/
inductive CKind where
  | cpy | cpyt | cfill | cgath | cnm | cnmAll | cpf | cfence
  deriving DecidableEq, Repr

/-- What a C syllable does in a copy queue: vector register fields only matter to cpyt. -/
structure COp where
  kind  : CKind
  d     : Reg
  a     : Reg
  sync  : BitVec 2
  scope : BitVec 2
  tag   : BitVec 4
  deriving DecidableEq, Repr

/-- A queued operation of any class. -/
inductive QOp where
  | v (o : VOp)
  | m (o : MOp)
  | c (o : COp)
  deriving DecidableEq, Repr

/-! ### Signatures (R10) -/

/-- A P-384 public key: the coordinates of its point. -/
structure PubKey where
  x : Nat
  y : Nat
  deriving DecidableEq, Repr

/-- An ECDSA signature. -/
structure Sig where
  r : Nat
  s : Nat
  deriving DecidableEq, Repr

/-- A signed request of the operator (R402): its bytes and their signature. -/
structure Signed where
  bytes : List Byte
  sig   : Sig
  deriving DecidableEq, Repr

/-- What the operator asks for, with the signed request that asks for it (R402). -/
structure Request (α : Type) where
  what : α
  auth : Signed
  deriving DecidableEq, Repr

/-! ### What an event brings from outside the step (R362 to R406): plain data carried by the event constructors -/

/-- Which engine command an event names: an entry of a slot's copy queue, by engine and place, or a stream's task. -/
inductive EngineRef where
  | team (tk eng idx : Nat)
  | task (k id : Nat)
  deriving DecidableEq, Repr

/-- Who posted a system call: a team slot's handler, or a stream slot (R157, R353). -/
inductive Caller where
  | team (tk : Nat)
  | stream (k : Nat)
  deriving DecidableEq, Repr

/-- Where the firmware places one team of a gang (R362): core, slot and first local-memory unit. -/
structure Placement where
  core : Nat
  slot : Nat
  lmb  : Nat
  deriving DecidableEq, Repr

/-- What the resident OS writes to map memory: 8-byte page-table words by physical address (R175). -/
structure PteWrite where
  pa  : Nat
  val : Nat
  deriving DecidableEq, Repr

/-- A page the resident OS backs with zeros (R360): its table writes and the physical page. -/
structure Backing where
  writes : List PteWrite
  page   : Nat
  deriving DecidableEq, Repr

/-- A section of a code object (R184): its type, its signed offset from the object base, the log2 of its alignment, its
bytes. -/
structure Section where
  kind   : Nat
  offset : Int
  align  : Nat
  bytes  : List Byte
  deriving DecidableEq, Repr

/-- A kernel-table entry (R185). -/
structure Kernel where
  entry : Nat
  gsz   : Nat
  pure  : Bool
  lmu   : Nat
  kinds : List Nat
  deriving DecidableEq, Repr

/-- A code object as its header, section descriptors and kernel table give it (R184, R185), with its digest. -/
structure CodeObj where
  sv       : Nat
  sched    : Bool
  gen      : Nat
  size     : Nat
  ltOff    : Int
  imports  : Nat
  exports  : Nat
  sections : List Section
  kernels  : List Kernel
  digest   : Nat
  deriving DecidableEq, Repr

/-- An application image (R186), as bytes: the manifest, its signature, the code objects. -/
structure AppImage where
  manifest : List Byte
  sig      : Sig
  objs     : List (List Byte)
  deriving DecidableEq, Repr

/-- Where the resident OS maps an image (R187 step 6): each object's base, the address of its resolver stub, and the table
writes; none when no base or memory could be found. Log 89 (DESIGN CHOICE, unsafe). -/
structure MapPlan where
  bases  : List Nat
  stubs  : List Nat
  writes : List PteWrite
  deriving DecidableEq, Repr

/-- Storage an error strikes (R393): memory block, local-memory block of a core, a line of an L1, the 32-bit word of a
vector register of a slot that a row holds in a physical lane (R198, R394), a block of an accumulator row, or refetchable
storage (clean lines, instruction cache, TLBs). Log 22 (DEDUCED, unsafe). -/
inductive EccSite where
  | memory (block : Nat)
  | lm (core block : Nat)
  | l1 (core line : Nat)
  | vreg (tk reg row lane : Nat)
  | acc (tk row block : Nat)
  | icache (core line : Nat)
  | tlb (asn va : Nat)
  deriving DecidableEq, Repr

/-- A request from a host or a peer to one aligned run of bytes: a write carries its value. -/
structure BusAccess where
  addr  : Nat
  size  : Nat
  write : Option Nat
  deriving DecidableEq, Repr

/-- A request of a host (R397): to a BAR of a function, its address counted from the BAR's start, or to the host's own memory,
whose home the hub die is, its address counted from the start of region 0x02. -/
structure HostAccess where
  fn  : Nat
  bar : Nat
  own : Bool
  acc : BusAccess
  deriving DecidableEq, Repr

/-- A cached translation of a serial object: its tags, its code and the signature over them (R188, R189). -/
structure Translation where
  digest : Nat
  sv     : Nat
  gen    : Nat
  code   : List Byte
  sig    : Sig
  deriving DecidableEq, Repr

/-- Why the firmware asks a team to halt (R362, R377, R29): to place a waiting gang of class 0, for a drain, or to move the
gang. -/
inductive PreemptWhy where
  | room | drain | migrate
  deriving DecidableEq, Repr

/-- A request to halt a team: its slot, and why (R167). -/
structure PreemptReq where
  tk  : Nat
  why : PreemptWhy
  deriving DecidableEq, Repr

/-- The private copy of a code page (R171): the address space the context moves to, the writes that map it, and the physical
page that holds the copy. -/
structure DebugCopy where
  asn    : Nat
  root   : Nat
  writes : List PteWrite
  page   : Nat
  deriving DecidableEq, Repr

/-- What an attached debugger asks of a team it holds (R171, R190, R419): to go on, to end its task, a `trap.brk` planted in
the context's own copy of a page, a breakpoint register. -/
inductive DebugReq where
  | resume
  | finish
  | plant (va : Nat) (code : BitVec 12) (copy : DebugCopy)
  | breakpoint (n : Nat) (v : Word)
  deriving DecidableEq, Repr

/-- A firmware slot of the flash (R403): the image, its key and signature, its version. -/
structure FwImage where
  bytes : List Byte
  key   : PubKey
  sig   : Sig
  ver   : Nat
  deriving DecidableEq, Repr

/-- One partition of a partitioning request (R41, R378, R402): its pairs, stream slots, address space with root and dirty map,
further address spaces of its own (number, root, dirty map), default watchdog, whether debug launches are allowed, and, for a
new one, what the resident OS has mapped for its descriptors (R334): base, log2 of the capacity and placement of each. -/
structure PartReq where
  pairs : List Nat
  slots : List Nat
  asn   : Nat
  root  : Nat
  dmap  : Nat
  more  : List (Nat × Nat × Nat)
  wdper : BitVec 32
  debugOk : Bool
  descs : List (Nat × Nat × Nat)
  deriving DecidableEq, Repr

/-- What bring-up found (R403): the supply, the cores that fail, the links and CXL ports that train, and the firmware's
physical map (R173) as base and size. Log 68 (DESIGN CHOICE, safe). -/
structure BootReport where
  supplyOk : Bool
  deadCores : List Nat
  links    : List Nat
  cxl      : List Nat
  physMap  : List (Nat × Nat)
  deriving DecidableEq, Repr

end Sys2Proof
end

