-- ==== Sys2Proof/Syntax.lean ====
section
/-! DEFINITION. The one instruction type: the syllables of R90 to R94, the T-ops of R96, the near-memory commands of
R99, and the events of the table of operations and events, each with the plain data it brings. -/

namespace Sys2Proof

/-- One constructor per row of spec/opcode_table.json: 210 syllables, 31 T-ops, 9 near-memory commands, 78 events. -/
inductive Instr where
  /-- ADD (R132). -/
  | add (d a b : Reg)
  /-- SUB (R132). -/
  | sub (d a b : Reg)
  /-- AND (R132). -/
  | and (d a b : Reg)
  /-- OR (R132). -/
  | or (d a b : Reg)
  /-- XOR (R132). -/
  | xor (d a b : Reg)
  /-- SLL (R132). -/
  | sll (d a b : Reg)
  /-- SRL (R132). -/
  | srl (d a b : Reg)
  /-- SRA (R132). -/
  | sra (d a b : Reg)
  /-- SLT (R132). -/
  | slt (d a b : Reg)
  /-- SLTU (R132). -/
  | sltu (d a b : Reg)
  /-- MIN (R132). -/
  | min (d a b : Reg)
  /-- MAX (R132). -/
  | max (d a b : Reg)
  /-- MINU (R132). -/
  | minu (d a b : Reg)
  /-- MAXU (R132). -/
  | maxu (d a b : Reg)
  /-- CLZ (R132). -/
  | clz (d a : Reg)
  /-- CTZ (R132). -/
  | ctz (d a : Reg)
  /-- POPC (R132). -/
  | popc (d a : Reg)
  /-- SEXT_B (R132). -/
  | sextB (d a : Reg)
  /-- SEXT_H (R132). -/
  | sextH (d a : Reg)
  /-- SEXT_W (R132). -/
  | sextW (d a : Reg)
  /-- ZEXT_B (R132). -/
  | zextB (d a : Reg)
  /-- ZEXT_H (R132). -/
  | zextH (d a : Reg)
  /-- ZEXT_W (R132). -/
  | zextW (d a : Reg)
  /-- ANDN (R132). -/
  | andn (d a b : Reg)
  /-- ORN (R132). -/
  | orn (d a b : Reg)
  /-- ROL (R132). -/
  | rol (d a b : Reg)
  /-- ROR (R132). -/
  | ror (d a b : Reg)
  /-- MUL (R133). -/
  | mul (d a b : Reg)
  /-- MULH (R133). -/
  | mulh (d a b : Reg)
  /-- MULHU (R133). -/
  | mulhu (d a b : Reg)
  /-- MULHSU (R133). -/
  | mulhsu (d a b : Reg)
  /-- DIV (R133). -/
  | div (d a b : Reg)
  /-- DIVU (R133). -/
  | divu (d a b : Reg)
  /-- REM (R133). -/
  | rem (d a b : Reg)
  /-- REMU (R133). -/
  | remu (d a b : Reg)
  /-- ADDI (R134). -/
  | addi (d a : Reg) (i : BitVec 13)
  /-- ANDI (R134). -/
  | andi (d a : Reg) (i : BitVec 13)
  /-- ORI (R134). -/
  | ori (d a : Reg) (i : BitVec 13)
  /-- XORI (R134). -/
  | xori (d a : Reg) (i : BitVec 13)
  /-- SLTI (R134). -/
  | slti (d a : Reg) (i : BitVec 13)
  /-- SLTIU (R134). -/
  | sltiu (d a : Reg) (i : BitVec 13)
  /-- SLLI (R134). -/
  | slli (d a : Reg) (n : BitVec 6)
  /-- SRLI (R134). -/
  | srli (d a : Reg) (n : BitVec 6)
  /-- SRAI (R134). -/
  | srai (d a : Reg) (n : BitVec 6)
  /-- LHI (R135). -/
  | lhi (d : Reg) (i : BitVec 18)
  /-- LPC (R135). -/
  | lpc (d : Reg) (o : BitVec 18)
  /-- BEQ (R136). -/
  | beq (a b : Reg) (o : BitVec 13)
  /-- BNE (R136). -/
  | bne (a b : Reg) (o : BitVec 13)
  /-- BLT (R136). -/
  | blt (a b : Reg) (o : BitVec 13)
  /-- BGE (R136). -/
  | bge (a b : Reg) (o : BitVec 13)
  /-- BLTU (R136). -/
  | bltu (a b : Reg) (o : BitVec 13)
  /-- BGEU (R136). -/
  | bgeu (a b : Reg) (o : BitVec 13)
  /-- JAL (R137). -/
  | jal (d : Reg) (o : BitVec 18)
  /-- JALR (R137). -/
  | jalr (d a : Reg) (i : BitVec 13)
  /-- LD (R139). -/
  | ld (d a : Reg) (c : BitVec 3) (z : BitVec 2) (x : Bool) (o : BitVec 7)
  /-- ST (R139). -/
  | st (d a : Reg) (c : BitVec 3) (z : BitVec 2) (o : BitVec 7)
  /-- LD_ACQ (R140). -/
  | ldAcq (d a : Reg) (e z : BitVec 2) (x : Bool) (o : BitVec 7)
  /-- ST_REL (R140). -/
  | stRel (d a : Reg) (e z : BitVec 2) (o : BitVec 7)
  /-- AMO_ADD (R141). -/
  | amoAdd (d a b : Reg) (z c : Bool)
  /-- AMO_AND (R141). -/
  | amoAnd (d a b : Reg) (z c : Bool)
  /-- AMO_OR (R141). -/
  | amoOr (d a b : Reg) (z c : Bool)
  /-- AMO_XOR (R141). -/
  | amoXor (d a b : Reg) (z c : Bool)
  /-- AMO_MIN (R141). -/
  | amoMin (d a b : Reg) (z c : Bool)
  /-- AMO_MAX (R141). -/
  | amoMax (d a b : Reg) (z c : Bool)
  /-- AMO_MINU (R141). -/
  | amoMinu (d a b : Reg) (z c : Bool)
  /-- AMO_MAXU (R141). -/
  | amoMaxu (d a b : Reg) (z c : Bool)
  /-- AMO_SWAP (R141). -/
  | amoSwap (d a b : Reg) (z c : Bool)
  /-- AMO_CAS (R141). -/
  | amoCas (d a b : Reg) (z c : Bool)
  /-- FENCE (R65). -/
  | fence (e : BitVec 2)
  /-- KBIND (R61). -/
  | kbind (d a b : Reg)
  /-- KACQ (R63). -/
  | kacq (a b : Reg) (e : BitVec 2)
  /-- KREL (R62). -/
  | krel (a b : Reg) (e : BitVec 2)
  /-- KTRY (R64). -/
  | ktry (d a b : Reg) (e : BitVec 2)
  /-- GBAR_WAIT (R144). -/
  | gbarWait (u : BitVec 5)
  /-- SETGL (R146). -/
  | setgl (d a : Reg)
  /-- SETGL_H (R146). -/
  | setglH (d a b : Reg)
  /-- STB (R147). -/
  | stb (a : Reg)
  /-- STB_W (R147). -/
  | stbW (a b : Reg)
  /-- STE (R148). -/
  | ste (o : BitVec 18)
  /-- ADDGL (R149). -/
  | addgl (d a : Reg) (h : BitVec 6)
  /-- CRR (R125). -/
  | crr (d : Reg) (n : BitVec 12)
  /-- CRW (R125). -/
  | crw (a : Reg) (n : BitVec 12)
  /-- CRS (R125). -/
  | crs (d a : Reg) (n : BitVec 12)
  /-- CRC (R125). -/
  | crc (d a : Reg) (n : BitVec 12)
  /-- TRAP_SYS (R161). -/
  | trapSys (c : BitVec 12)
  /-- TRAP_BRK (R161). -/
  | trapBrk (c : BitVec 12)
  /-- VADD (R223). -/
  | vadd (o : VSc)
  /-- VSUB (R223). -/
  | vsub (o : VSc)
  /-- VMUL (R223). -/
  | vmul (o : VSc)
  /-- VMULH (R223). -/
  | vmulh (o : VSc)
  /-- VMULH_U (R223). -/
  | vmulhU (o : VSc)
  /-- VMIN (R223). -/
  | vmin (o : VSc)
  /-- VMIN_U (R223). -/
  | vminU (o : VSc)
  /-- VMAX (R223). -/
  | vmax (o : VSc)
  /-- VMAX_U (R223). -/
  | vmaxU (o : VSc)
  /-- VAND (R223). -/
  | vand (o : VSc)
  /-- VOR (R223). -/
  | vor (o : VSc)
  /-- VXOR (R223). -/
  | vxor (o : VSc)
  /-- VSLL (R223). -/
  | vsll (o : VSc)
  /-- VSRL (R223). -/
  | vsrl (o : VSc)
  /-- VSRA (R223). -/
  | vsra (o : VSc)
  /-- VSADD (R223). -/
  | vsadd (o : VSc)
  /-- VSADD_U (R223). -/
  | vsaddU (o : VSc)
  /-- VSSUB (R223). -/
  | vssub (o : VSc)
  /-- VSSUB_U (R223). -/
  | vssubU (o : VSc)
  /-- VCMPU_LTU (R229). -/
  | vcmpuLtu (o : VSc)
  /-- VCMPU_GEU (R229). -/
  | vcmpuGeu (o : VSc)
  /-- VMERGE (R232). -/
  | vmerge (o : VSc)
  /-- VFADD (R224). -/
  | vfadd (o : VSc)
  /-- VFSUB (R224). -/
  | vfsub (o : VSc)
  /-- VFMUL (R224). -/
  | vfmul (o : VSc)
  /-- VFMA (R224). -/
  | vfma (o : VV)
  /-- VFMA_FMS (R224). -/
  | vfmaFms (o : VV)
  /-- VFMA_FNMA (R224). -/
  | vfmaFnma (o : VV)
  /-- VFMA_FNMS (R224). -/
  | vfmaFnms (o : VV)
  /-- VFDIV (R224). -/
  | vfdiv (o : VSc)
  /-- VFSQRT (R225). -/
  | vfsqrt (o : V1)
  /-- VFRCP (R225). -/
  | vfrcp (o : V1)
  /-- VFRSQ (R225). -/
  | vfrsq (o : V1)
  /-- VFMIN (R226). -/
  | vfmin (o : VSc)
  /-- VFMAX (R226). -/
  | vfmax (o : VSc)
  /-- VFEXP2 (R225). -/
  | vfexp2 (o : V1)
  /-- VFLOG2 (R225). -/
  | vflog2 (o : V1)
  /-- VFCVT (R228). -/
  | vfcvt (o : VS)
  /-- VFCLASS (R227). -/
  | vfclass (o : V1)
  /-- VCMP_EQ (R229). -/
  | vcmpEq (o : VV)
  /-- VCMP_NE (R229). -/
  | vcmpNe (o : VV)
  /-- VCMP_LT (R229). -/
  | vcmpLt (o : VV)
  /-- VCMP_GE (R229). -/
  | vcmpGe (o : VV)
  /-- VFCMP_EQ (R229). -/
  | vfcmpEq (o : VV)
  /-- VFCMP_LT (R229). -/
  | vfcmpLt (o : VV)
  /-- VFCMP_LE (R229). -/
  | vfcmpLe (o : VV)
  /-- VFCMP_UNORD (R229). -/
  | vfcmpUnord (o : VV)
  /-- KAND (R230). -/
  | kand (o : VK)
  /-- KOR (R230). -/
  | kor (o : VK)
  /-- KXOR (R230). -/
  | kxor (o : VK)
  /-- KINV (R230). -/
  | kinv (d a : Reg) (m : BitVec 4)
  /-- KCOUNT (R231). -/
  | kcount (d a : Reg)
  /-- KANY (R231). -/
  | kany (d a : Reg)
  /-- KFIRST (R231). -/
  | kfirst (d a : Reg)
  /-- PPINIT (R268). -/
  | ppinit (d : Reg)
  /-- PPINIT_NORM (R268). -/
  | ppinitNorm (d : Reg)
  /-- PPMUL (R269). -/
  | ppmul (o : VV)
  /-- PPMUL_PB (R269). -/
  | ppmulPb (o : V1)
  /-- PPDIV (R270). -/
  | ppdiv (d a b : Reg)
  /-- PPMV_TO_VECTOR (R271). -/
  | ppmvToVector (d a : Reg) (m : BitVec 4)
  /-- PPMV_TO_POLY (R271). -/
  | ppmvToPoly (o : V1)
  /-- VSLIDE_UP (R234). -/
  | vslideUp (o : VS)
  /-- VSLIDE_DOWN (R234). -/
  | vslideDown (o : VS)
  /-- VGATH_R (R235). -/
  | vgathR (o : VV)
  /-- VSCAT_R (R235). -/
  | vscatR (o : VV)
  /-- VCOMPRESS (R236). -/
  | vcompress (o : V1)
  /-- VEXPAND (R236). -/
  | vexpand (o : V1)
  /-- VBCAST (R232). -/
  | vbcast (d b : Reg) (m : BitVec 4)
  /-- VEXT (R233). -/
  | vext (d a b : Reg) (x : Bool)
  /-- VINS (R233). -/
  | vins (o : VK)
  /-- VID (R232). -/
  | vid (d : Reg) (m : BitVec 4)
  /-- VMV (R232). -/
  | vmv (o : V1)
  /-- VRED_SUM (R238). -/
  | vredSum (o : V1)
  /-- VRED_FSUM (R238). -/
  | vredFsum (o : V1)
  /-- VRED_MAX (R238). -/
  | vredMax (o : V1)
  /-- VRED_MIN (R238). -/
  | vredMin (o : V1)
  /-- VFOLD_SUM (R239). -/
  | vfoldSum (o : V1)
  /-- VFOLD_FSUM (R239). -/
  | vfoldFsum (o : V1)
  /-- VFOLD_MAX (R239). -/
  | vfoldMax (o : V1)
  /-- VFOLD_MIN (R239). -/
  | vfoldMin (o : V1)
  /-- VSCAN_SUM (R240). -/
  | vscanSum (o : V1)
  /-- VSCAN_FSUM (R240). -/
  | vscanFsum (o : V1)
  /-- VSCAN_MAX (R240). -/
  | vscanMax (o : V1)
  /-- VSCAN_MIN (R240). -/
  | vscanMin (o : V1)
  /-- VAMO_ADD (R255). -/
  | vamoAdd (o : VAm)
  /-- VAMO_MIN (R255). -/
  | vamoMin (o : VAm)
  /-- VAMO_MAX (R255). -/
  | vamoMax (o : VAm)
  /-- VAMO_SWAP (R255). -/
  | vamoSwap (o : VAm)
  /-- VTOCB (R241). -/
  | vtocb (d a : Reg) (x : Bool)
  /-- VREP (R243). -/
  | vrep (c : BitVec 4) (a : Reg) (t : BitVec 5)
  /-- VLD (R249). -/
  | vld (o : VLd)
  /-- VST (R249). -/
  | vst (o : VSt)
  /-- VLDX (R249). -/
  | vldx (o : VLd)
  /-- VSTX (R249). -/
  | vstx (o : VSt)
  /-- TENSOR_LOAD (R254). -/
  | tensorLoad (o : VLd)
  /-- TENSOR_STORE (R254). -/
  | tensorStore (o : VSt)
  /-- VGL (R257). -/
  | vgl (d a b : Reg) (o v : Bool) (m : BitVec 3)
  /-- VSC (R257). -/
  | vsc (d a b : Reg) (y : Bool) (m : BitVec 3)
  /-- MMA (R285). -/
  | mma (o : MF)
  /-- MMA_G (R285). -/
  | mmaG (o : MF)
  /-- MZERO (R287). -/
  | mzero (t : Reg)
  /-- MLD (R287). -/
  | mld (t a : Reg)
  /-- MST (R287). -/
  | mst (t a : Reg)
  /-- MDRAIN_F32 (R288). -/
  | mdrainF32 (t d : Reg) (c : Bool)
  /-- MDRAIN_BF16 (R288). -/
  | mdrainBf16 (t d : Reg) (c : Bool)
  /-- MDRAIN_I8 (R289). -/
  | mdrainI8 (t d q : Reg) (c : Bool)
  /-- MADD_ROW (R290). -/
  | maddRow (t a : Reg) (f s : Bool)
  /-- MADD_COL (R290). -/
  | maddCol (t a : Reg) (f s : Bool)
  /-- MSUM (R291). -/
  | msum (t a b : Reg) (f u s : Bool)
  /-- CPY (R303). -/
  | cpy (o : CF)
  /-- CPYT (R307). -/
  | cpyt (o : CF)
  /-- CFILL (R305). -/
  | cfill (o : CF)
  /-- CGATH (R308). -/
  | cgath (o : CF)
  /-- CNM (R315). -/
  | cnm (d a : Reg) (y e : BitVec 2) (g : BitVec 4)
  /-- CNM_ALL (R315). -/
  | cnmAll (d a : Reg) (y e : BitVec 2) (g : BitVec 4)
  /-- CWAIT (R312). -/
  | cwait (g : BitVec 4)
  /-- CPF (R306). -/
  | cpf (a l : Reg) (e : BitVec 2) (g : BitVec 4)
  /-- CFENCE (R313). -/
  | cfence (g : BitVec 4)
  /-- TLI (R330). -/
  | tli (d : TReg) (i : BitVec 44)
  /-- TADD (R330). -/
  | tadd (d a b : TReg)
  /-- TADDI (R330). -/
  | taddi (d a : TReg) (i : BitVec 44)
  /-- TSUB (R330). -/
  | tsub (d a b : TReg)
  /-- TMUL (R330). -/
  | tmul (d a b : TReg)
  /-- TAND (R330). -/
  | tand (d a b : TReg)
  /-- TOR (R330). -/
  | tor (d a b : TReg)
  /-- TSHL (R330). -/
  | tshl (d a b : TReg)
  /-- TSHR (R330). -/
  | tshr (d a b : TReg)
  /-- TLD (R331). -/
  | tld (d a : TReg) (o : BitVec 44)
  /-- TST (R331). -/
  | tst (a b : TReg) (o : BitVec 44)
  /-- TBEQ (R332). -/
  | tbeq (a b : TReg) (o : BitVec 44)
  /-- TBNE (R332). -/
  | tbne (a b : TReg) (o : BitVec 44)
  /-- TBLT (R332). -/
  | tblt (a b : TReg) (o : BitVec 44)
  /-- TBGE (R332). -/
  | tbge (a b : TReg) (o : BitVec 44)
  /-- TJ (R332). -/
  | tj (o : BitVec 44)
  /-- TJAL (R332). -/
  | tjal (d : TReg) (o : BitVec 44)
  /-- TJR (R332). -/
  | tjr (a : TReg)
  /-- TBUF (R335). -/
  | tbuf (lb : BitVec 8) (s : BitVec 6) (f : BitVec 5) (pl : BitVec 2)
  /-- TBIND (R336). -/
  | tbind (lb : BitVec 8) (a : TReg)
  /-- TFREE (R337). -/
  | tfree (lb : BitVec 8)
  /-- TLAUNCH (R341). -/
  | tlaunch (h : LaunchHdr) (ops : List LaunchOp)
  /-- TCOPY (R343). -/
  | tcopy (dst src : BitVec 8)
  /-- TNM (R344). -/
  | tnm (a : TReg)
  /-- TNM_ALL (R344). -/
  | tnmAll (a : TReg)
  /-- TREAD (R350). -/
  | tread (d : TReg) (lb : BitVec 8) (off : BitVec 36)
  /-- TSIG (R351). -/
  | tsig (a b : TReg)
  /-- TWAIT (R352). -/
  | twait (a b : TReg)
  /-- TSYS (R353). -/
  | tsys (c : BitVec 16)
  /-- NM_FILL (R319). -/
  | nmFill (c : NmCmd)
  /-- NM_COPY (R319). -/
  | nmCopy (c : NmCmd)
  /-- NM_SCALE (R319). -/
  | nmScale (c : NmCmd)
  /-- NM_AXPY (R319). -/
  | nmAxpy (c : NmCmd)
  /-- NM_SGDWD (R319). -/
  | nmSgdwd (c : NmCmd)
  /-- NM_MOMENTUM (R319). -/
  | nmMomentum (c : NmCmd)
  /-- NM_ADAMW (R319). -/
  | nmAdamw (c : NmCmd)
  /-- NM_SUMSQ (R319). -/
  | nmSumsq (c : NmCmd)
  /-- NM_CAST (R319). -/
  | nmCast (c : NmCmd)
  /-- GBAR_ARR (R144). -/
  | gbarArr
  /-- TRET (R163). -/
  | tret
  /-- TEXIT (R164). -/
  | texit
  /-- WFE (R165). -/
  | wfe
  /-- NOP (R138). -/
  | nop
  /-- MWAIT (R292). -/
  | mwait
  /-- TFENCE (R352). -/
  | tfence
  /-- THALT (R354). -/
  | thalt
  /-- CNM_COMPLETE (R315): Once all shares of an NMU command finish, its record is written and its release phase performed. -/
  | cnmComplete (j : Nat)
  /-- NMU_RUN (R316): The copy engine hands the next run of elements in one 4 KiB block to its NMU after the previous run finishes. -/
  | nmuRun (j stack : Nat)
  /-- ACQUIRE_PHASE (R72): An engine command's acquire phase writes back the team's L1 and waits for its knot threshold before the first read. -/
  | acquirePhase (e : EngineRef)
  /-- COPY_UNIT (R303): A copy engine performs the next unit of up to 256 bytes of a command. -/
  | copyUnit (e : EngineRef)
  /-- VIQ_ISSUE (R209): A VIQ entry issues to its pipe once its sources and pipe are available and performs its element groups. -/
  | viqIssue (tk n : Nat)
  /-- MATRIX_STEP (R277): The shared array performs the next K group or row of a slot's matrix entry. -/
  | matrixStep (tk : Nat)
  /-- UE_REPLAY (R172): An uncorrectable error consumed in a vector pipe squashes and replays VIQ entries, trapping if it recurs. -/
  | ueReplay (tk el : Nat) (mirror : Bool)
  /-- SCALAR_RESULT_READY (R82): A late scalar result arrives and releases the bundle held for it. -/
  | scalarResultReady (tk i : Nat)
  /-- HELD_BUNDLE_RELEASE (R151): The condition of a held bundle is met or its queue gains room, and the bundle commits. -/
  | heldBundleRelease (tk : Nat)
  /-- KNOT_RELEASE_PERFORMED (R62): A committed krel's earlier stores are performed and its increment is added to the knot at the home. -/
  | knotReleasePerformed (tk : Nat)
  /-- WFE_TIMEOUT (R165): 4,096 cycles pass and a wfe hold ends. -/
  | wfeTimeout (tk : Nat)
  /-- LANDING_SLOT_LAND (R160): A landing slot's count of committed bundles runs out and its value is written to its register. -/
  | landingSlotLand (tk : Nat)
  /-- ESCALATE_TRAP (R158): After the handler's queued syllables complete, the trap context is handed to the resident OS, which resumes the team or ends the task. -/
  | escalateTrap (tk : Nat)
  /-- INSTRUCTION_FILL (R17): An instruction-cache line fill completes and is delivered to every merged requester. -/
  | instructionFill (cluster line : Nat)
  /-- L1_EVICTION (R54): A line is evicted from an L1, writing back a dirty line to its home. -/
  | l1Eviction (core line : Nat)
  /-- PREEMPTION_REQUEST (R167): A pre-emption request halts the team at a bundle boundary within 340 cycles and captures its state. -/
  | preemptionRequest (req : PreemptReq)
  /-- CONTEXT_SAVE (R168): Once every sent element and atomic is performed, the firmware completes the team's context save. -/
  | contextSave (tk : Nat)
  /-- GANG_RESUME (R29): A pre-empted gang is resumed whole, possibly on another cluster. -/
  | gangResume (k id gidx : Nat) (places : List Placement)
  /-- GANG_BIND (R362): The firmware places a waiting gang and writes its bind records. -/
  | gangBind (k id gidx : Nat) (places : List Placement)
  /-- GANG_ARM (R365): A write of the cluster's arm register arms every record of a gang in one cycle. -/
  | gangArm (cluster : Nat) (mask : BitVec 16)
  /-- TEAM_START (R365): At the cluster's start-phase cycle every team of an armed gang starts in its start state. -/
  | teamStart (k id gidx : Nat)
  /-- START_PHASE_TABLE_WRITE (R366): The firmware rewrites a start-phase entry, applying to later arms. -/
  | startPhaseTableWrite (cluster v : Nat)
  /-- TASK_ISSUE (R346): A waiting task whose inputs are produced and conflicts cleared issues to the firmware. -/
  | taskIssue (k id : Nat)
  /-- TASK_COMPLETE (R43): A task becomes complete once every gang has ended and its queued work has completed. -/
  | taskComplete (k id : Nat)
  /-- ENTRY_RETIRE (R349): The complete head entry of the window retires, updating the retired map and freeing descriptors. -/
  | entryRetire (k : Nat)
  /-- TWAIT_COMPLETE (R352): A twait's knot reaches its threshold and the entry becomes complete. -/
  | twaitComplete (k id : Nat)
  /-- TASK_FAULT_TAKEN (R356): A faulted entry at the window head squashes younger entries, restores the stream state and writes the fault record. -/
  | taskFaultTaken (k : Nat)
  /-- STREAM_RESTART (R358): The resident OS restarts decode at the faulting T-op or ends the stream with TASK_FAULT. -/
  | streamRestart (k : Nat) (restart : Bool) (back : Option Backing)
  /-- STREAM_END (R372): A stream ends, its writes reach system scope, its completion record and interrupt are sent and the next record is taken. -/
  | streamEnd (k : Nat)
  /-- KICK (R369): A host write to KICK makes records available and starts fetching the next record by its SEQTAG. -/
  | kick (k : Nat) (v : Word)
  /-- SEQTAG_RETRY (R369): A SEQTAG re-read timer expires and the slot re-reads the tag, parking after the last retry. -/
  | seqtagRetry (k : Nat)
  /-- QCTL_EN (R368): A write of QCTL.EN enables the host queue, resetting HEAD and TAIL, or disables it. -/
  | qctlEn (k : Nat) (en : Bool)
  /-- ABORT (R376): Writing 1 to QCTL.ABORT tears down the running context and discards its queued launches. -/
  | abort (k : Nat)
  /-- LEASE_REQUEST (R382): A legal write to LEASE requests a power lease for the slot's running stream. -/
  | leaseRequest (k : Nat) (v : Word)
  /-- REGISTER_WRITE (R368): A write to a register with no behaviour of its own, such as QBASE or QSIZE, under its access codes. -/
  | registerWrite (k off : Nat) (v : Word)
  /-- LOAD_APPLICATION (R374): A launch record with LOAD set has the resident OS verify and map an application image. -/
  | loadApplication (k : Nat) (image : Option AppImage) (plan : Option MapPlan)
  /-- RESOLVE (R191): The RESOLVE system call binds a linkage-table entry to its export. -/
  | resolve (c : Caller)
  /-- LAUNCH (R375): The LAUNCH system call queues a device-side launch in a slot's device queue. -/
  | launch (c : Caller)
  /-- CAPSCRIPT (R261): The CAPSCRIPT system call loads the slot's capacity script on a debug launch. -/
  | capscript (c : Caller)
  /-- TLB_INVALIDATE (R183): The resident OS invalidates translations of a range, completing when no access uses them. -/
  | tlbInvalidate (asn lo hi : Nat)
  /-- TRANSLATE_OBJECT (R188): The translator builds and signs a scheduled-form translation of a serial object. -/
  | translateObject (part base : Nat) (t : Translation)
  /-- TRANSLATION_SWAP (R190): At a safe point the resident OS swaps an object's code pages between source and translation. -/
  | translationSwap (part base : Nat) (toTrans : Bool)
  /-- PARTITION_CHANGE (R40): An operator partitioning request is applied or refused. -/
  | partitionChange (req : Request (List PartReq))
  /-- FUSE_ADVANCE (R187): The operator advances the SV fuse count, effective for loads at once. -/
  | fuseAdvance (n : Request Nat)
  /-- KEY_ENROLL (R402): The operator enrols a key through a signed management session. -/
  | keyEnroll (part : Nat) (key : Request PubKey)
  /-- CHECKPOINT_ROUND (R396): A checkpoint round snapshots and clears the dirty map and copies marked granules out. -/
  | checkpointRound (asn target : Nat)
  /-- DEVICE_REMOVAL (R399): A request to remove a far-tier device is refused while any partition maps it. -/
  | deviceRemoval (port : Nat)
  /-- POWER_EPOCH (R379): Every 10 µs the power manager recomputes every slot's capacity and ballast. -/
  | powerEpoch
  /-- LEASE_EXPIRY (R383): A lease's remaining time reaches 0 and its watts return to the pool. -/
  | leaseExpiry (k : Nat)
  /-- OVER_CURRENT_EVENT (R385): A pair or input over-current starts power kills of contexts. -/
  | overCurrentEvent (pair : Option Nat)
  /-- NEXT_CONTEXT_KILL (R385): 2 µs after a kill, another context is killed if the limit is still exceeded. -/
  | nextContextKill (pair : Option Nat)
  /-- THERMAL_SAMPLE (R387): Every 10 µs each cluster's hottest sensor is read and its thermal level may change. -/
  | thermalSample (cluster : Nat) (reading : Int)
  /-- WEAR_SAMPLE (R389): Every 10 ms the ageing monitors are sampled and wear units charged to teams. -/
  | wearSample (core bias migration : Nat) (act : List Nat)
  /-- WEAR_RECORD_WRITE (R389): Every 60 s the lifetime wear record is written to flash. -/
  | wearRecordWrite
  /-- WATCHDOG_EXPIRY (R377): A stream's watchdog reaches 0 and the firmware drains its partition. -/
  | watchdogExpiry (k : Nat)
  /-- DRAIN_KILL_TIMEOUT (R377): 10 µs after a drain's pre-emption request, every team not yet halted is killed. -/
  | drainKillTimeout (part : Nat)
  /-- ECC_CORRECTABLE_ERROR (R393): A correctable storage error is corrected and written back or refetched. -/
  | eccCorrectableError (site : EccSite)
  /-- ECC_UNCORRECTABLE_ERROR (R393): An uncorrectable storage error poisons its 64-byte block. -/
  | eccUncorrectableError (site : EccSite)
  /-- PATROL_SCRUB (R395): The HBM4E patrol scrub reads and corrects a further part of memory. -/
  | patrolScrub
  /-- SRAM_SCRUB (R395): The on-chip SRAM scrub visits a further part of each array. -/
  | sramScrub
  /-- HBM_CALIBRATION (R395): Each stack is recalibrated every 100 ms. -/
  | hbmCalibration
  /-- LINK_CALIBRATION (R395): Lacet and CXL links are recalibrated continuously. -/
  | linkCalibration
  /-- HOST_HDM_ACCESS (R397): A host access through BAR4 reads or writes HBM4E as device memory. -/
  | hostHdmAccess (x : HostAccess)
  /-- FLIT_REPLAY (R400): A lacet flit whose CRC fails is replayed. -/
  | flitReplay (link : Nat)
  /-- LINK_DOWN (R401): A lacet link that fails one flit's replay eight times goes down. -/
  | linkDown (link : Nat)
  /-- LINK_CREDIT_TIMEOUT (R405): No credit return for 1 ms makes a peer treat the link as down. -/
  | linkCreditTimeout (link : Nat)
  /-- LINK_RETRAIN (R401): The firmware retrains a downed link while no partition maps its region. -/
  | linkRetrain (link : Nat)
  /-- BOOT (R403): At power-on the module verifies firmware, trains memory and links and reports READY. -/
  | boot (r : BootReport)
  /-- FREEZE (R404): A debug freeze from the pin or BAR0 stops every clock within four cycles. -/
  | freeze
  /-- FREEZE_RESUME (R405): A frozen module's clocks restart together, unless the freeze was too long or a link went down. -/
  | freezeResume (tooLong : Bool)
  /-- MODULE_RESET (R405): A frozen module is reset. -/
  | moduleReset
  /-- POWER_LOSS (R389): The module's 48 V supply is lost without an orderly shutdown, and everything not yet in flash is lost. -/
  | powerLoss
  /-- ORDERLY_SHUTDOWN (R389): At orderly shutdown the firmware writes the lifetime wear record to flash before power goes. -/
  | orderlyShutdown
  /-- CHECKPOINT_CONTROL (R396): The operator enables or disables checkpointing for an address space, changing when the MMU sets dirty-map bits. -/
  | checkpointControl (asn : Nat) (en : Request Bool)
  /-- APPLICATION_UNLOAD (R374): The operator unloads an application, so its handle is no longer valid in the partition. -/
  | applicationUnload (part : Nat) (handle : Request Word)
  /-- POWER_POLICY_CHANGE (R380): The operator changes the policy that divides the partition's power share among its pairs, which applies once the resident floors allow it. -/
  | powerPolicyChange (part : Nat) (shares : Request (List (Nat × Nat)))
  /-- DEBUGGER_REQUEST (R419): An attached debugger resumes a team held at a breakpoint as tret would, or ends its task with TASK_FAULT. -/
  | debuggerRequest (tk : Nat) (req : DebugReq)
  /-- PEER_ACCESS (R58): A peer module reads or writes this module's g: memory over a lacet link, which among other things breaks links of the link set. -/
  | peerAccess (link : Nat) (x : BusAccess)
  deriving DecidableEq, Repr

end Sys2Proof
end

