-- ==== Sys2Proof/WellFormed.lean ====
section
/-! DEFINITION. The checks an instruction's own fields must pass: for a syllable, what raises ILLEGAL whatever the
state (R89, R95, R221, R228, R247, R284, R288, R290, R291); for a T-op, what makes it malformed (R97, R98, R335,
R350); for a near-memory command, what makes it malformed (R99, R100). -/

namespace Sys2Proof

/-- A scalar-capable syllable: chain b is zero where b names a scalar register (R87). -/
def VSc.wf (o : VSc) : Bool := !(o.s && o.y)

/-- A destination that names a mask: k1 to k15 (R89). -/
def maskDest (d : Reg) : Bool := decide (1 ≤ d.toNat) && decide (d.toNat ≤ 15)

/-- A source that names a mask (R89). -/
def maskSrc (a : Reg) : Bool := decide (a.toNat ≤ 15)

/-- A field that names a polynomial register or a codebook (R89). -/
def isP (d : Reg) : Bool := decide (d.toNat ≤ 7)

/-- Space code of a load (R45). -/
def loadSpace (c : BitVec 3) : Bool := decide (c.toNat ≤ 4)

/-- Space code of a store (R45). -/
def storeSpace (c : BitVec 3) : Bool := decide (c.toNat ≤ 2) || decide (c = 5#3)

/-- R45, R247. -/
def VLd.wf (o : VLd) : Bool := loadSpace o.c

/-- R45, R247: the ntf bit only with space code 000. -/
def VSt.wf (o : VSt) : Bool := storeSpace o.c && (!o.n || decide (o.c = 0#3))

/-- R87, R247. -/
def VAm.wf (o : VAm) : Bool := decide (o.c ≠ 3#2)

/-- R88, R284: a listed format, with the signedness and saturation bits zero where the table gives zero. -/
def MF.wf (o : MF) : Bool :=
  decide (o.f.toNat ≤ 8) && (decide (o.f = 4#4) || (!o.u && !o.v)) && (decide (o.f = 4#4) || decide (o.f = 5#4) || !o.s)

/-- R86: the sign bit of a load is zero with a doubleword. -/
def signOk (z : BitVec 2) (x : Bool) : Bool := !(x && decide (z = 3#2))

/-- R97: the header's ranges. -/
def LaunchHdr.wf (h : LaunchHdr) : Bool :=
  decide (1 ≤ h.lm.toNat) && decide (h.lm.toNat ≤ 48) && (if h.a = 0#4 then decide (1 ≤ h.gc.toNat) else decide (h.gc = 0#14))

/-- R97: at most eight operand words and at most one `after`. -/
def launchOpsOk (ops : List LaunchOp) : Bool :=
  decide (ops.length ≤ 8) && decide ((ops.filter (fun o => match o with | .after _ => true | _ => false)).length ≤ 1)

/-- R335: a size class from 6 to 40, a register format or raw, a listed placement, and a pinned class no larger
than 2^24 bytes. -/
def tbufOk (s : BitVec 6) (f : BitVec 5) (pl : BitVec 2) : Bool :=
  decide (6 ≤ s.toNat) && decide (s.toNat ≤ 40) && (decide (f.toNat ≤ 12) || decide (f = 14#5)) && decide (pl ≠ 3#2) &&
  (decide (pl ≠ 2#2) || decide (s.toNat ≤ 24))

/-- R99: the scalars and auxiliary addresses an opcode does not use are zero. -/
def NmCmd.unused (c : NmCmd) (k0 k1 k2 k3 k4 a1 a2 : Bool) : Bool :=
  (k0 || decide (c.k0 = 0)) && (k1 || decide (c.k1 = 0)) && (k2 || decide (c.k2 = 0)) && (k3 || decide (c.k3 = 0)) &&
  (k4 || decide (c.k4 = 0)) && (a1 || decide (c.aux1 = 0)) && (a2 || decide (c.aux2 = 0))

def Instr.wf : Instr → Bool
  | .ld _ _ c z x _ => loadSpace c && signOk z x
  | .st _ _ c _ _ => storeSpace c
  | .ldAcq _ _ _ z x _ => signOk z x
  | .vadd o | .vsub o | .vmul o | .vmulh o | .vmulhU o | .vmin o | .vminU o | .vmax o | .vmaxU o | .vand o | .vor o
  | .vxor o | .vsll o | .vsrl o | .vsra o | .vsadd o | .vsaddU o | .vssub o | .vssubU o | .vmerge o | .vfadd o
  | .vfsub o | .vfmul o | .vfdiv o | .vfmin o | .vfmax o => o.wf
  | .vcmpuLtu o | .vcmpuGeu o => o.wf && maskDest o.d
  | .vcmpEq o | .vcmpNe o | .vcmpLt o | .vcmpGe o | .vfcmpEq o | .vfcmpLt o | .vfcmpLe o | .vfcmpUnord o => maskDest o.d
  | .vfcvt o => (decide (1 ≤ o.b.toNat) && decide (o.b.toNat ≤ 12)) || decide (o.b = 14#5)
  | .kand o | .kor o | .kxor o => maskDest o.d && maskSrc o.a && maskSrc o.b
  | .kinv d a _ => maskDest d && maskSrc a
  | .kcount _ a | .kany _ a | .kfirst _ a => maskSrc a
  | .ppinit d | .ppinitNorm d | .ppdiv d _ _ => isP d
  | .ppmul o => isP o.d
  | .ppmulPb o => isP o.d
  | .ppmvToVector _ a _ => isP a
  | .ppmvToPoly o => isP o.d
  | .vslideUp o | .vslideDown o => decide (o.d ≠ o.a)
  | .vgathR o | .vscatR o => decide (o.d ≠ o.a) && decide (o.d ≠ o.b)
  | .vcompress o | .vexpand o => decide (o.d ≠ o.a)
  | .vamoAdd o | .vamoMin o | .vamoMax o | .vamoSwap o => o.wf
  | .vtocb d _ _ => isP d
  | .vld o | .vldx o => o.wf
  | .vst o | .vstx o => o.wf
  | .tensorLoad o => o.wf && decide (o.d ≠ o.b)
  | .tensorStore o => o.wf && decide (o.d ≠ o.b)
  | .vsc _ _ _ _ m => decide (m ≠ 0#3)
  | .mma o | .mmaG o => o.wf
  | .maddRow _ _ f s | .maddCol _ _ f s => !s || f
  | .msum _ _ _ f u _ => !(f && u)
  | .tbuf _ s f pl => tbufOk s f pl
  | .tlaunch h ops => h.wf && launchOpsOk ops
  | .tread _ _ off => decide (off.toNat % 8 = 0)
  | .nmFill c => c.unused true false false false false false false
  | .nmCopy c => c.unused false false false false false false false
  | .nmScale c => c.unused true false false false false false false
  | .nmAxpy c => c.unused true false false false false false false
  | .nmSgdwd c => c.unused true true false false false false false
  | .nmMomentum c => c.unused true true false false false true false
  | .nmAdamw c => c.unused true true true true true true true
  | .nmSumsq c => c.unused false false false false false true false
  | .nmCast c => c.unused true false false false false false false
  | _ => true

end Sys2Proof
end

