-- ==== Sys2Proof/Decode.lean ====
section
/-! DEFINITION. The decoder, total on any word, and the encoder, both from the encoding tables (R76, R86 to R100). -/

namespace Sys2Proof

/-- Why a word is no instruction (R95, R98, R100). -/
inductive DecodeError where
  /-- The OP, the T-op's op or the opcode is not listed. -/
  | opNotListed
  /-- A variant that is not listed, or a field required to be zero that is not. -/
  | fieldNotAllowed
  /-- A well-placed instruction whose own fields are refused (`Instr.wf`). -/
  | illFormed
  /-- Fewer words than the header asks for. -/
  | truncated
  deriving DecidableEq, Repr

/-- The fields common to the syllable formats (R76, R86 to R88). -/
structure Fields where
  cls : BitVec 2
  op  : BitVec 6
  d   : Reg
  a   : Reg
  b   : Reg
  lo  : BitVec 8
  deriving DecidableEq, Repr

/-- The fields of a syllable (R76). -/
def fieldsOf (w : BitVec 32) : Fields :=
  { cls := w.extractLsb' 29 2, op := w.extractLsb' 23 6, d := w.extractLsb' 18 5, a := w.extractLsb' 13 5,
    b := w.extractLsb' 8 5, lo := w.extractLsb' 0 8 }

/-- The syllable with these fields and P bit (R76). -/
def Fields.word (f : Fields) (p : Bool) : BitVec 32 := BitVec.ofBool p ++ f.cls ++ f.op ++ f.d ++ f.a ++ f.b ++ f.lo

/-- P: the next syllable in memory belongs to the same bundle (R76). -/
def sylP (w : BitVec 32) : Bool := w.getLsbD 31

/-- CLASS (R76). -/
def sylClass (w : BitVec 32) : BitVec 2 := w.extractLsb' 29 2

/-- The S-class map (R90, R91); every other OP or field value is no syllable (R95). -/
def decodeS (f : Fields) : Except DecodeError Instr :=
  match f.op.toNat with
  | 0 =>
    if f.lo = 0#8 then .ok (.add f.d f.a f.b)
    else if f.lo = 1#8 then .ok (.sub f.d f.a f.b)
    else if f.lo = 2#8 then .ok (.and f.d f.a f.b)
    else if f.lo = 3#8 then .ok (.or f.d f.a f.b)
    else if f.lo = 4#8 then .ok (.xor f.d f.a f.b)
    else if f.lo = 5#8 then .ok (.sll f.d f.a f.b)
    else if f.lo = 6#8 then .ok (.srl f.d f.a f.b)
    else if f.lo = 7#8 then .ok (.sra f.d f.a f.b)
    else if f.lo = 8#8 then .ok (.slt f.d f.a f.b)
    else if f.lo = 9#8 then .ok (.sltu f.d f.a f.b)
    else if f.lo = 10#8 then .ok (.min f.d f.a f.b)
    else if f.lo = 11#8 then .ok (.max f.d f.a f.b)
    else if f.lo = 12#8 then .ok (.minu f.d f.a f.b)
    else if f.lo = 13#8 then .ok (.maxu f.d f.a f.b)
    else if f.b = 0#5 ∧ f.lo = 14#8 then .ok (.clz f.d f.a)
    else if f.b = 0#5 ∧ f.lo = 15#8 then .ok (.ctz f.d f.a)
    else if f.b = 0#5 ∧ f.lo = 16#8 then .ok (.popc f.d f.a)
    else if f.b = 0#5 ∧ f.lo = 17#8 then .ok (.sextB f.d f.a)
    else if f.b = 0#5 ∧ f.lo = 18#8 then .ok (.sextH f.d f.a)
    else if f.b = 0#5 ∧ f.lo = 19#8 then .ok (.sextW f.d f.a)
    else if f.b = 0#5 ∧ f.lo = 20#8 then .ok (.zextB f.d f.a)
    else if f.b = 0#5 ∧ f.lo = 21#8 then .ok (.zextH f.d f.a)
    else if f.b = 0#5 ∧ f.lo = 22#8 then .ok (.zextW f.d f.a)
    else if f.lo = 23#8 then .ok (.andn f.d f.a f.b)
    else if f.lo = 24#8 then .ok (.orn f.d f.a f.b)
    else if f.lo = 25#8 then .ok (.rol f.d f.a f.b)
    else if f.lo = 26#8 then .ok (.ror f.d f.a f.b)
    else .error .fieldNotAllowed
  | 1 =>
    if f.lo = 0#8 then .ok (.mul f.d f.a f.b)
    else if f.lo = 1#8 then .ok (.mulh f.d f.a f.b)
    else if f.lo = 2#8 then .ok (.mulhu f.d f.a f.b)
    else if f.lo = 3#8 then .ok (.mulhsu f.d f.a f.b)
    else if f.lo = 4#8 then .ok (.div f.d f.a f.b)
    else if f.lo = 5#8 then .ok (.divu f.d f.a f.b)
    else if f.lo = 6#8 then .ok (.rem f.d f.a f.b)
    else if f.lo = 7#8 then .ok (.remu f.d f.a f.b)
    else .error .fieldNotAllowed
  | 2 =>
    .ok (.addi f.d f.a ((f.b ++ f.lo)))
  | 3 =>
    .ok (.andi f.d f.a ((f.b ++ f.lo)))
  | 4 =>
    .ok (.ori f.d f.a ((f.b ++ f.lo)))
  | 5 =>
    .ok (.xori f.d f.a ((f.b ++ f.lo)))
  | 6 =>
    .ok (.slti f.d f.a ((f.b ++ f.lo)))
  | 7 =>
    .ok (.sltiu f.d f.a ((f.b ++ f.lo)))
  | 8 =>
    if f.b = 0#5 ∧ f.lo.extractLsb' 6 2 = 0#2 then .ok (.slli f.d f.a (f.lo.extractLsb' 0 6))
    else if f.b = 0#5 ∧ f.lo.extractLsb' 6 2 = 1#2 then .ok (.srli f.d f.a (f.lo.extractLsb' 0 6))
    else if f.b = 0#5 ∧ f.lo.extractLsb' 6 2 = 2#2 then .ok (.srai f.d f.a (f.lo.extractLsb' 0 6))
    else .error .fieldNotAllowed
  | 9 =>
    .ok (.lhi f.d ((f.a ++ f.b ++ f.lo)))
  | 10 =>
    .ok (.lpc f.d ((f.a ++ f.b ++ f.lo)))
  | 16 =>
    .ok (.beq f.d f.a ((f.b ++ f.lo)))
  | 17 =>
    .ok (.bne f.d f.a ((f.b ++ f.lo)))
  | 18 =>
    .ok (.blt f.d f.a ((f.b ++ f.lo)))
  | 19 =>
    .ok (.bge f.d f.a ((f.b ++ f.lo)))
  | 20 =>
    .ok (.bltu f.d f.a ((f.b ++ f.lo)))
  | 21 =>
    .ok (.bgeu f.d f.a ((f.b ++ f.lo)))
  | 22 =>
    .ok (.jal f.d ((f.a ++ f.b ++ f.lo)))
  | 23 =>
    .ok (.jalr f.d f.a ((f.b ++ f.lo)))
  | 24 =>
    .ok (.ld f.d f.a (f.b.extractLsb' 2 3) (f.b.extractLsb' 0 2) (f.lo.getLsbD 7) (f.lo.extractLsb' 0 7))
  | 25 =>
    if f.lo.extractLsb' 7 1 = 0#1 then .ok (.st f.d f.a (f.b.extractLsb' 2 3) (f.b.extractLsb' 0 2) (f.lo.extractLsb' 0 7))
    else .error .fieldNotAllowed
  | 26 =>
    if f.b.extractLsb' 2 1 = 0#1 then .ok (.ldAcq f.d f.a (f.b.extractLsb' 3 2) (f.b.extractLsb' 0 2) (f.lo.getLsbD 7) (f.lo.extractLsb' 0 7))
    else .error .fieldNotAllowed
  | 27 =>
    if f.b.extractLsb' 2 1 = 0#1 ∧ f.lo.extractLsb' 7 1 = 0#1 then .ok (.stRel f.d f.a (f.b.extractLsb' 3 2) (f.b.extractLsb' 0 2) (f.lo.extractLsb' 0 7))
    else .error .fieldNotAllowed
  | 28 =>
    if f.lo.extractLsb' 3 5 = 1#5 ∧ f.lo.extractLsb' 0 1 = 0#1 then .ok (.amoAdd f.d f.a f.b (f.lo.getLsbD 2) (f.lo.getLsbD 1))
    else if f.lo.extractLsb' 3 5 = 3#5 ∧ f.lo.extractLsb' 0 1 = 0#1 then .ok (.amoAnd f.d f.a f.b (f.lo.getLsbD 2) (f.lo.getLsbD 1))
    else if f.lo.extractLsb' 3 5 = 5#5 ∧ f.lo.extractLsb' 0 1 = 0#1 then .ok (.amoOr f.d f.a f.b (f.lo.getLsbD 2) (f.lo.getLsbD 1))
    else if f.lo.extractLsb' 3 5 = 7#5 ∧ f.lo.extractLsb' 0 1 = 0#1 then .ok (.amoXor f.d f.a f.b (f.lo.getLsbD 2) (f.lo.getLsbD 1))
    else if f.lo.extractLsb' 3 5 = 9#5 ∧ f.lo.extractLsb' 0 1 = 0#1 then .ok (.amoMin f.d f.a f.b (f.lo.getLsbD 2) (f.lo.getLsbD 1))
    else if f.lo.extractLsb' 3 5 = 11#5 ∧ f.lo.extractLsb' 0 1 = 0#1 then .ok (.amoMax f.d f.a f.b (f.lo.getLsbD 2) (f.lo.getLsbD 1))
    else if f.lo.extractLsb' 3 5 = 13#5 ∧ f.lo.extractLsb' 0 1 = 0#1 then .ok (.amoMinu f.d f.a f.b (f.lo.getLsbD 2) (f.lo.getLsbD 1))
    else if f.lo.extractLsb' 3 5 = 15#5 ∧ f.lo.extractLsb' 0 1 = 0#1 then .ok (.amoMaxu f.d f.a f.b (f.lo.getLsbD 2) (f.lo.getLsbD 1))
    else if f.lo.extractLsb' 3 5 = 17#5 ∧ f.lo.extractLsb' 0 1 = 0#1 then .ok (.amoSwap f.d f.a f.b (f.lo.getLsbD 2) (f.lo.getLsbD 1))
    else if f.lo.extractLsb' 3 5 = 19#5 ∧ f.lo.extractLsb' 0 1 = 0#1 then .ok (.amoCas f.d f.a f.b (f.lo.getLsbD 2) (f.lo.getLsbD 1))
    else .error .fieldNotAllowed
  | 29 =>
    if f.d = 0#5 ∧ f.a = 0#5 ∧ f.b = 0#5 ∧ f.lo.extractLsb' 2 6 = 0#6 then .ok (.fence (f.lo.extractLsb' 0 2))
    else .error .fieldNotAllowed
  | 32 =>
    if f.lo = 0#8 then .ok (.kbind f.d f.a f.b)
    else .error .fieldNotAllowed
  | 33 =>
    if f.d = 0#5 ∧ f.lo.extractLsb' 2 6 = 0#6 then .ok (.kacq f.a f.b (f.lo.extractLsb' 0 2))
    else .error .fieldNotAllowed
  | 34 =>
    if f.d = 0#5 ∧ f.lo.extractLsb' 2 6 = 0#6 then .ok (.krel f.a f.b (f.lo.extractLsb' 0 2))
    else .error .fieldNotAllowed
  | 35 =>
    if f.lo.extractLsb' 2 6 = 0#6 then .ok (.ktry f.d f.a f.b (f.lo.extractLsb' 0 2))
    else .error .fieldNotAllowed
  | 36 =>
    if f.d = 0#5 ∧ f.a = 0#5 ∧ f.b = 0#5 ∧ f.lo = 0#8 then .ok (.gbarArr)
    else if f.d = 0#5 ∧ f.a = 0#5 ∧ f.lo = 1#8 then .ok (.gbarWait f.b)
    else .error .fieldNotAllowed
  | 40 =>
    if f.b = 0#5 ∧ f.lo = 0#8 then .ok (.setgl f.d f.a)
    else if f.lo = 1#8 then .ok (.setglH f.d f.a f.b)
    else .error .fieldNotAllowed
  | 41 =>
    if f.d = 0#5 ∧ f.b = 0#5 ∧ f.lo = 0#8 then .ok (.stb f.a)
    else if f.d = 0#5 ∧ f.lo = 1#8 then .ok (.stbW f.a f.b)
    else .error .fieldNotAllowed
  | 42 =>
    if f.d = 0#5 then .ok (.ste ((f.a ++ f.b ++ f.lo)))
    else .error .fieldNotAllowed
  | 43 =>
    if f.b = 0#5 ∧ f.lo.extractLsb' 6 2 = 0#2 then .ok (.addgl f.d f.a (f.lo.extractLsb' 0 6))
    else .error .fieldNotAllowed
  | 48 =>
    if f.a = 0#5 ∧ f.lo.extractLsb' 0 1 = 0#1 then .ok (.crr f.d (((f.b ++ f.lo)).extractLsb' 1 12))
    else .error .fieldNotAllowed
  | 49 =>
    if f.d = 0#5 ∧ f.lo.extractLsb' 0 1 = 0#1 then .ok (.crw f.a (((f.b ++ f.lo)).extractLsb' 1 12))
    else .error .fieldNotAllowed
  | 50 =>
    if f.lo.extractLsb' 0 1 = 0#1 then .ok (.crs f.d f.a (((f.b ++ f.lo)).extractLsb' 1 12))
    else .error .fieldNotAllowed
  | 51 =>
    if f.lo.extractLsb' 0 1 = 0#1 then .ok (.crc f.d f.a (((f.b ++ f.lo)).extractLsb' 1 12))
    else .error .fieldNotAllowed
  | 56 =>
    if f.d = 0#5 ∧ f.a = 0#5 ∧ f.b.extractLsb' 4 1 = 0#1 then .ok (.trapSys (((f.b ++ f.lo)).extractLsb' 0 12))
    else if f.d = 16#5 ∧ f.a = 0#5 ∧ f.b.extractLsb' 4 1 = 0#1 then .ok (.trapBrk (((f.b ++ f.lo)).extractLsb' 0 12))
    else .error .fieldNotAllowed
  | 57 =>
    if f.d = 0#5 ∧ f.a = 0#5 ∧ f.b = 0#5 ∧ f.lo = 0#8 then .ok (.tret)
    else .error .fieldNotAllowed
  | 58 =>
    if f.d = 0#5 ∧ f.a = 0#5 ∧ f.b = 0#5 ∧ f.lo = 0#8 then .ok (.texit)
    else .error .fieldNotAllowed
  | 59 =>
    if f.d = 0#5 ∧ f.a = 0#5 ∧ f.b = 0#5 ∧ f.lo = 0#8 then .ok (.wfe)
    else .error .fieldNotAllowed
  | 63 =>
    if f.d = 0#5 ∧ f.a = 0#5 ∧ f.b = 0#5 ∧ f.lo = 0#8 then .ok (.nop)
    else .error .fieldNotAllowed
  | _ => .error .opNotListed

/-- The V-class map (R92); every other OP or field value is no syllable (R95). -/
def decodeV (f : Fields) : Except DecodeError Instr :=
  match f.op.toNat with
  | 0 =>
    if f.lo.extractLsb' 1 1 = 0#1 then .ok (.vadd { d := f.d, a := f.a, b := f.b, x := f.lo.getLsbD 7, y := f.lo.getLsbD 6, m := f.lo.extractLsb' 2 4, s := f.lo.getLsbD 0 })
    else .error .fieldNotAllowed
  | 1 =>
    if f.lo.extractLsb' 1 1 = 0#1 then .ok (.vsub { d := f.d, a := f.a, b := f.b, x := f.lo.getLsbD 7, y := f.lo.getLsbD 6, m := f.lo.extractLsb' 2 4, s := f.lo.getLsbD 0 })
    else .error .fieldNotAllowed
  | 2 =>
    if f.lo.extractLsb' 1 1 = 0#1 then .ok (.vmul { d := f.d, a := f.a, b := f.b, x := f.lo.getLsbD 7, y := f.lo.getLsbD 6, m := f.lo.extractLsb' 2 4, s := f.lo.getLsbD 0 })
    else .error .fieldNotAllowed
  | 3 =>
    if f.lo.extractLsb' 1 1 = 0#1 then .ok (.vmulh { d := f.d, a := f.a, b := f.b, x := f.lo.getLsbD 7, y := f.lo.getLsbD 6, m := f.lo.extractLsb' 2 4, s := f.lo.getLsbD 0 })
    else if f.lo.extractLsb' 1 1 = 1#1 then .ok (.vmulhU { d := f.d, a := f.a, b := f.b, x := f.lo.getLsbD 7, y := f.lo.getLsbD 6, m := f.lo.extractLsb' 2 4, s := f.lo.getLsbD 0 })
    else .error .fieldNotAllowed
  | 4 =>
    if f.lo.extractLsb' 1 1 = 0#1 then .ok (.vmin { d := f.d, a := f.a, b := f.b, x := f.lo.getLsbD 7, y := f.lo.getLsbD 6, m := f.lo.extractLsb' 2 4, s := f.lo.getLsbD 0 })
    else if f.lo.extractLsb' 1 1 = 1#1 then .ok (.vminU { d := f.d, a := f.a, b := f.b, x := f.lo.getLsbD 7, y := f.lo.getLsbD 6, m := f.lo.extractLsb' 2 4, s := f.lo.getLsbD 0 })
    else .error .fieldNotAllowed
  | 5 =>
    if f.lo.extractLsb' 1 1 = 0#1 then .ok (.vmax { d := f.d, a := f.a, b := f.b, x := f.lo.getLsbD 7, y := f.lo.getLsbD 6, m := f.lo.extractLsb' 2 4, s := f.lo.getLsbD 0 })
    else if f.lo.extractLsb' 1 1 = 1#1 then .ok (.vmaxU { d := f.d, a := f.a, b := f.b, x := f.lo.getLsbD 7, y := f.lo.getLsbD 6, m := f.lo.extractLsb' 2 4, s := f.lo.getLsbD 0 })
    else .error .fieldNotAllowed
  | 6 =>
    if f.lo.extractLsb' 1 1 = 0#1 then .ok (.vand { d := f.d, a := f.a, b := f.b, x := f.lo.getLsbD 7, y := f.lo.getLsbD 6, m := f.lo.extractLsb' 2 4, s := f.lo.getLsbD 0 })
    else .error .fieldNotAllowed
  | 7 =>
    if f.lo.extractLsb' 1 1 = 0#1 then .ok (.vor { d := f.d, a := f.a, b := f.b, x := f.lo.getLsbD 7, y := f.lo.getLsbD 6, m := f.lo.extractLsb' 2 4, s := f.lo.getLsbD 0 })
    else .error .fieldNotAllowed
  | 8 =>
    if f.lo.extractLsb' 1 1 = 0#1 then .ok (.vxor { d := f.d, a := f.a, b := f.b, x := f.lo.getLsbD 7, y := f.lo.getLsbD 6, m := f.lo.extractLsb' 2 4, s := f.lo.getLsbD 0 })
    else .error .fieldNotAllowed
  | 9 =>
    if f.lo.extractLsb' 1 1 = 0#1 then .ok (.vsll { d := f.d, a := f.a, b := f.b, x := f.lo.getLsbD 7, y := f.lo.getLsbD 6, m := f.lo.extractLsb' 2 4, s := f.lo.getLsbD 0 })
    else .error .fieldNotAllowed
  | 10 =>
    if f.lo.extractLsb' 1 1 = 0#1 then .ok (.vsrl { d := f.d, a := f.a, b := f.b, x := f.lo.getLsbD 7, y := f.lo.getLsbD 6, m := f.lo.extractLsb' 2 4, s := f.lo.getLsbD 0 })
    else .error .fieldNotAllowed
  | 11 =>
    if f.lo.extractLsb' 1 1 = 0#1 then .ok (.vsra { d := f.d, a := f.a, b := f.b, x := f.lo.getLsbD 7, y := f.lo.getLsbD 6, m := f.lo.extractLsb' 2 4, s := f.lo.getLsbD 0 })
    else .error .fieldNotAllowed
  | 12 =>
    if f.lo.extractLsb' 1 1 = 0#1 then .ok (.vsadd { d := f.d, a := f.a, b := f.b, x := f.lo.getLsbD 7, y := f.lo.getLsbD 6, m := f.lo.extractLsb' 2 4, s := f.lo.getLsbD 0 })
    else if f.lo.extractLsb' 1 1 = 1#1 then .ok (.vsaddU { d := f.d, a := f.a, b := f.b, x := f.lo.getLsbD 7, y := f.lo.getLsbD 6, m := f.lo.extractLsb' 2 4, s := f.lo.getLsbD 0 })
    else .error .fieldNotAllowed
  | 13 =>
    if f.lo.extractLsb' 1 1 = 0#1 then .ok (.vssub { d := f.d, a := f.a, b := f.b, x := f.lo.getLsbD 7, y := f.lo.getLsbD 6, m := f.lo.extractLsb' 2 4, s := f.lo.getLsbD 0 })
    else if f.lo.extractLsb' 1 1 = 1#1 then .ok (.vssubU { d := f.d, a := f.a, b := f.b, x := f.lo.getLsbD 7, y := f.lo.getLsbD 6, m := f.lo.extractLsb' 2 4, s := f.lo.getLsbD 0 })
    else .error .fieldNotAllowed
  | 14 =>
    if f.lo.extractLsb' 1 1 = 0#1 then .ok (.vcmpuLtu { d := f.d, a := f.a, b := f.b, x := f.lo.getLsbD 7, y := f.lo.getLsbD 6, m := f.lo.extractLsb' 2 4, s := f.lo.getLsbD 0 })
    else if f.lo.extractLsb' 1 1 = 1#1 then .ok (.vcmpuGeu { d := f.d, a := f.a, b := f.b, x := f.lo.getLsbD 7, y := f.lo.getLsbD 6, m := f.lo.extractLsb' 2 4, s := f.lo.getLsbD 0 })
    else .error .fieldNotAllowed
  | 15 =>
    if f.lo.extractLsb' 1 1 = 0#1 then .ok (.vmerge { d := f.d, a := f.a, b := f.b, x := f.lo.getLsbD 7, y := f.lo.getLsbD 6, m := f.lo.extractLsb' 2 4, s := f.lo.getLsbD 0 })
    else .error .fieldNotAllowed
  | 16 =>
    if f.lo.extractLsb' 1 1 = 0#1 then .ok (.vfadd { d := f.d, a := f.a, b := f.b, x := f.lo.getLsbD 7, y := f.lo.getLsbD 6, m := f.lo.extractLsb' 2 4, s := f.lo.getLsbD 0 })
    else .error .fieldNotAllowed
  | 17 =>
    if f.lo.extractLsb' 1 1 = 0#1 then .ok (.vfsub { d := f.d, a := f.a, b := f.b, x := f.lo.getLsbD 7, y := f.lo.getLsbD 6, m := f.lo.extractLsb' 2 4, s := f.lo.getLsbD 0 })
    else .error .fieldNotAllowed
  | 18 =>
    if f.lo.extractLsb' 1 1 = 0#1 then .ok (.vfmul { d := f.d, a := f.a, b := f.b, x := f.lo.getLsbD 7, y := f.lo.getLsbD 6, m := f.lo.extractLsb' 2 4, s := f.lo.getLsbD 0 })
    else .error .fieldNotAllowed
  | 19 =>
    if f.lo.extractLsb' 0 2 = 0#2 then .ok (.vfma { d := f.d, a := f.a, b := f.b, x := f.lo.getLsbD 7, y := f.lo.getLsbD 6, m := f.lo.extractLsb' 2 4 })
    else if f.lo.extractLsb' 0 2 = 1#2 then .ok (.vfmaFms { d := f.d, a := f.a, b := f.b, x := f.lo.getLsbD 7, y := f.lo.getLsbD 6, m := f.lo.extractLsb' 2 4 })
    else if f.lo.extractLsb' 0 2 = 2#2 then .ok (.vfmaFnma { d := f.d, a := f.a, b := f.b, x := f.lo.getLsbD 7, y := f.lo.getLsbD 6, m := f.lo.extractLsb' 2 4 })
    else if f.lo.extractLsb' 0 2 = 3#2 then .ok (.vfmaFnms { d := f.d, a := f.a, b := f.b, x := f.lo.getLsbD 7, y := f.lo.getLsbD 6, m := f.lo.extractLsb' 2 4 })
    else .error .fieldNotAllowed
  | 20 =>
    if f.lo.extractLsb' 1 1 = 0#1 then .ok (.vfdiv { d := f.d, a := f.a, b := f.b, x := f.lo.getLsbD 7, y := f.lo.getLsbD 6, m := f.lo.extractLsb' 2 4, s := f.lo.getLsbD 0 })
    else .error .fieldNotAllowed
  | 21 =>
    if f.b = 0#5 ∧ f.lo.extractLsb' 6 1 = 0#1 ∧ f.lo.extractLsb' 0 2 = 0#2 then .ok (.vfsqrt { d := f.d, a := f.a, x := f.lo.getLsbD 7, m := f.lo.extractLsb' 2 4 })
    else .error .fieldNotAllowed
  | 22 =>
    if f.b = 0#5 ∧ f.lo.extractLsb' 6 1 = 0#1 ∧ f.lo.extractLsb' 0 2 = 0#2 then .ok (.vfrcp { d := f.d, a := f.a, x := f.lo.getLsbD 7, m := f.lo.extractLsb' 2 4 })
    else .error .fieldNotAllowed
  | 23 =>
    if f.b = 0#5 ∧ f.lo.extractLsb' 6 1 = 0#1 ∧ f.lo.extractLsb' 0 2 = 0#2 then .ok (.vfrsq { d := f.d, a := f.a, x := f.lo.getLsbD 7, m := f.lo.extractLsb' 2 4 })
    else .error .fieldNotAllowed
  | 24 =>
    if f.lo.extractLsb' 1 1 = 0#1 then .ok (.vfmin { d := f.d, a := f.a, b := f.b, x := f.lo.getLsbD 7, y := f.lo.getLsbD 6, m := f.lo.extractLsb' 2 4, s := f.lo.getLsbD 0 })
    else .error .fieldNotAllowed
  | 25 =>
    if f.lo.extractLsb' 1 1 = 0#1 then .ok (.vfmax { d := f.d, a := f.a, b := f.b, x := f.lo.getLsbD 7, y := f.lo.getLsbD 6, m := f.lo.extractLsb' 2 4, s := f.lo.getLsbD 0 })
    else .error .fieldNotAllowed
  | 26 =>
    if f.b = 0#5 ∧ f.lo.extractLsb' 6 1 = 0#1 ∧ f.lo.extractLsb' 0 2 = 0#2 then .ok (.vfexp2 { d := f.d, a := f.a, x := f.lo.getLsbD 7, m := f.lo.extractLsb' 2 4 })
    else .error .fieldNotAllowed
  | 27 =>
    if f.b = 0#5 ∧ f.lo.extractLsb' 6 1 = 0#1 ∧ f.lo.extractLsb' 0 2 = 0#2 then .ok (.vflog2 { d := f.d, a := f.a, x := f.lo.getLsbD 7, m := f.lo.extractLsb' 2 4 })
    else .error .fieldNotAllowed
  | 28 =>
    if f.lo.extractLsb' 6 1 = 0#1 ∧ f.lo.extractLsb' 0 2 = 0#2 then .ok (.vfcvt { d := f.d, a := f.a, b := f.b, x := f.lo.getLsbD 7, m := f.lo.extractLsb' 2 4 })
    else .error .fieldNotAllowed
  | 29 =>
    if f.b = 0#5 ∧ f.lo.extractLsb' 6 1 = 0#1 ∧ f.lo.extractLsb' 0 2 = 0#2 then .ok (.vfclass { d := f.d, a := f.a, x := f.lo.getLsbD 7, m := f.lo.extractLsb' 2 4 })
    else .error .fieldNotAllowed
  | 30 =>
    if f.lo.extractLsb' 0 2 = 0#2 then .ok (.vcmpEq { d := f.d, a := f.a, b := f.b, x := f.lo.getLsbD 7, y := f.lo.getLsbD 6, m := f.lo.extractLsb' 2 4 })
    else if f.lo.extractLsb' 0 2 = 1#2 then .ok (.vcmpNe { d := f.d, a := f.a, b := f.b, x := f.lo.getLsbD 7, y := f.lo.getLsbD 6, m := f.lo.extractLsb' 2 4 })
    else if f.lo.extractLsb' 0 2 = 2#2 then .ok (.vcmpLt { d := f.d, a := f.a, b := f.b, x := f.lo.getLsbD 7, y := f.lo.getLsbD 6, m := f.lo.extractLsb' 2 4 })
    else if f.lo.extractLsb' 0 2 = 3#2 then .ok (.vcmpGe { d := f.d, a := f.a, b := f.b, x := f.lo.getLsbD 7, y := f.lo.getLsbD 6, m := f.lo.extractLsb' 2 4 })
    else .error .fieldNotAllowed
  | 31 =>
    if f.lo.extractLsb' 0 2 = 0#2 then .ok (.vfcmpEq { d := f.d, a := f.a, b := f.b, x := f.lo.getLsbD 7, y := f.lo.getLsbD 6, m := f.lo.extractLsb' 2 4 })
    else if f.lo.extractLsb' 0 2 = 1#2 then .ok (.vfcmpLt { d := f.d, a := f.a, b := f.b, x := f.lo.getLsbD 7, y := f.lo.getLsbD 6, m := f.lo.extractLsb' 2 4 })
    else if f.lo.extractLsb' 0 2 = 2#2 then .ok (.vfcmpLe { d := f.d, a := f.a, b := f.b, x := f.lo.getLsbD 7, y := f.lo.getLsbD 6, m := f.lo.extractLsb' 2 4 })
    else if f.lo.extractLsb' 0 2 = 3#2 then .ok (.vfcmpUnord { d := f.d, a := f.a, b := f.b, x := f.lo.getLsbD 7, y := f.lo.getLsbD 6, m := f.lo.extractLsb' 2 4 })
    else .error .fieldNotAllowed
  | 32 =>
    if f.lo.extractLsb' 6 2 = 0#2 ∧ f.lo.extractLsb' 0 2 = 0#2 then .ok (.kand { d := f.d, a := f.a, b := f.b, m := f.lo.extractLsb' 2 4 })
    else if f.lo.extractLsb' 6 2 = 0#2 ∧ f.lo.extractLsb' 0 2 = 1#2 then .ok (.kor { d := f.d, a := f.a, b := f.b, m := f.lo.extractLsb' 2 4 })
    else if f.lo.extractLsb' 6 2 = 0#2 ∧ f.lo.extractLsb' 0 2 = 2#2 then .ok (.kxor { d := f.d, a := f.a, b := f.b, m := f.lo.extractLsb' 2 4 })
    else if f.b = 0#5 ∧ f.lo.extractLsb' 6 2 = 0#2 ∧ f.lo.extractLsb' 0 2 = 3#2 then .ok (.kinv f.d f.a (f.lo.extractLsb' 2 4))
    else .error .fieldNotAllowed
  | 33 =>
    if f.b = 0#5 ∧ f.lo = 0#8 then .ok (.kcount f.d f.a)
    else .error .fieldNotAllowed
  | 34 =>
    if f.b = 0#5 ∧ f.lo = 0#8 then .ok (.kany f.d f.a)
    else .error .fieldNotAllowed
  | 35 =>
    if f.b = 0#5 ∧ f.lo = 0#8 then .ok (.kfirst f.d f.a)
    else .error .fieldNotAllowed
  | 36 =>
    if f.a = 0#5 ∧ f.b = 0#5 ∧ f.lo = 0#8 then .ok (.ppinit f.d)
    else if f.a = 0#5 ∧ f.b = 0#5 ∧ f.lo = 1#8 then .ok (.ppinitNorm f.d)
    else .error .fieldNotAllowed
  | 37 =>
    if f.lo.extractLsb' 0 2 = 0#2 then .ok (.ppmul { d := f.d, a := f.a, b := f.b, x := f.lo.getLsbD 7, y := f.lo.getLsbD 6, m := f.lo.extractLsb' 2 4 })
    else if f.b = 0#5 ∧ f.lo.extractLsb' 6 1 = 0#1 ∧ f.lo.extractLsb' 0 2 = 1#2 then .ok (.ppmulPb { d := f.d, a := f.a, x := f.lo.getLsbD 7, m := f.lo.extractLsb' 2 4 })
    else .error .fieldNotAllowed
  | 38 =>
    if f.lo = 0#8 then .ok (.ppdiv f.d f.a f.b)
    else .error .fieldNotAllowed
  | 39 =>
    if f.b = 0#5 ∧ f.lo.extractLsb' 6 2 = 0#2 ∧ f.lo.extractLsb' 0 2 = 0#2 then .ok (.ppmvToVector f.d f.a (f.lo.extractLsb' 2 4))
    else if f.b = 0#5 ∧ f.lo.extractLsb' 6 1 = 0#1 ∧ f.lo.extractLsb' 0 2 = 1#2 then .ok (.ppmvToPoly { d := f.d, a := f.a, x := f.lo.getLsbD 7, m := f.lo.extractLsb' 2 4 })
    else .error .fieldNotAllowed
  | 40 =>
    if f.lo.extractLsb' 6 1 = 0#1 ∧ f.lo.extractLsb' 0 2 = 0#2 then .ok (.vslideUp { d := f.d, a := f.a, b := f.b, x := f.lo.getLsbD 7, m := f.lo.extractLsb' 2 4 })
    else if f.lo.extractLsb' 6 1 = 0#1 ∧ f.lo.extractLsb' 0 2 = 1#2 then .ok (.vslideDown { d := f.d, a := f.a, b := f.b, x := f.lo.getLsbD 7, m := f.lo.extractLsb' 2 4 })
    else .error .fieldNotAllowed
  | 41 =>
    if f.lo.extractLsb' 0 2 = 0#2 then .ok (.vgathR { d := f.d, a := f.a, b := f.b, x := f.lo.getLsbD 7, y := f.lo.getLsbD 6, m := f.lo.extractLsb' 2 4 })
    else .error .fieldNotAllowed
  | 42 =>
    if f.lo.extractLsb' 0 2 = 0#2 then .ok (.vscatR { d := f.d, a := f.a, b := f.b, x := f.lo.getLsbD 7, y := f.lo.getLsbD 6, m := f.lo.extractLsb' 2 4 })
    else .error .fieldNotAllowed
  | 43 =>
    if f.b = 0#5 ∧ f.lo.extractLsb' 6 1 = 0#1 ∧ f.lo.extractLsb' 0 2 = 0#2 then .ok (.vcompress { d := f.d, a := f.a, x := f.lo.getLsbD 7, m := f.lo.extractLsb' 2 4 })
    else .error .fieldNotAllowed
  | 44 =>
    if f.b = 0#5 ∧ f.lo.extractLsb' 6 1 = 0#1 ∧ f.lo.extractLsb' 0 2 = 0#2 then .ok (.vexpand { d := f.d, a := f.a, x := f.lo.getLsbD 7, m := f.lo.extractLsb' 2 4 })
    else .error .fieldNotAllowed
  | 45 =>
    if f.a = 0#5 ∧ f.lo.extractLsb' 6 2 = 0#2 ∧ f.lo.extractLsb' 0 2 = 0#2 then .ok (.vbcast f.d f.b (f.lo.extractLsb' 2 4))
    else .error .fieldNotAllowed
  | 46 =>
    if f.lo.extractLsb' 0 7 = 0#7 then .ok (.vext f.d f.a f.b (f.lo.getLsbD 7))
    else .error .fieldNotAllowed
  | 47 =>
    if f.lo.extractLsb' 6 2 = 0#2 ∧ f.lo.extractLsb' 0 2 = 0#2 then .ok (.vins { d := f.d, a := f.a, b := f.b, m := f.lo.extractLsb' 2 4 })
    else .error .fieldNotAllowed
  | 48 =>
    if f.a = 0#5 ∧ f.b = 0#5 ∧ f.lo.extractLsb' 6 2 = 0#2 ∧ f.lo.extractLsb' 0 2 = 0#2 then .ok (.vid f.d (f.lo.extractLsb' 2 4))
    else .error .fieldNotAllowed
  | 49 =>
    if f.b = 0#5 ∧ f.lo.extractLsb' 6 1 = 0#1 ∧ f.lo.extractLsb' 0 2 = 0#2 then .ok (.vmv { d := f.d, a := f.a, x := f.lo.getLsbD 7, m := f.lo.extractLsb' 2 4 })
    else .error .fieldNotAllowed
  | 50 =>
    if f.b = 0#5 ∧ f.lo.extractLsb' 6 1 = 0#1 ∧ f.lo.extractLsb' 0 2 = 0#2 then .ok (.vredSum { d := f.d, a := f.a, x := f.lo.getLsbD 7, m := f.lo.extractLsb' 2 4 })
    else if f.b = 0#5 ∧ f.lo.extractLsb' 6 1 = 0#1 ∧ f.lo.extractLsb' 0 2 = 1#2 then .ok (.vredFsum { d := f.d, a := f.a, x := f.lo.getLsbD 7, m := f.lo.extractLsb' 2 4 })
    else if f.b = 0#5 ∧ f.lo.extractLsb' 6 1 = 0#1 ∧ f.lo.extractLsb' 0 2 = 2#2 then .ok (.vredMax { d := f.d, a := f.a, x := f.lo.getLsbD 7, m := f.lo.extractLsb' 2 4 })
    else if f.b = 0#5 ∧ f.lo.extractLsb' 6 1 = 0#1 ∧ f.lo.extractLsb' 0 2 = 3#2 then .ok (.vredMin { d := f.d, a := f.a, x := f.lo.getLsbD 7, m := f.lo.extractLsb' 2 4 })
    else .error .fieldNotAllowed
  | 51 =>
    if f.b = 0#5 ∧ f.lo.extractLsb' 6 1 = 0#1 ∧ f.lo.extractLsb' 0 2 = 0#2 then .ok (.vfoldSum { d := f.d, a := f.a, x := f.lo.getLsbD 7, m := f.lo.extractLsb' 2 4 })
    else if f.b = 0#5 ∧ f.lo.extractLsb' 6 1 = 0#1 ∧ f.lo.extractLsb' 0 2 = 1#2 then .ok (.vfoldFsum { d := f.d, a := f.a, x := f.lo.getLsbD 7, m := f.lo.extractLsb' 2 4 })
    else if f.b = 0#5 ∧ f.lo.extractLsb' 6 1 = 0#1 ∧ f.lo.extractLsb' 0 2 = 2#2 then .ok (.vfoldMax { d := f.d, a := f.a, x := f.lo.getLsbD 7, m := f.lo.extractLsb' 2 4 })
    else if f.b = 0#5 ∧ f.lo.extractLsb' 6 1 = 0#1 ∧ f.lo.extractLsb' 0 2 = 3#2 then .ok (.vfoldMin { d := f.d, a := f.a, x := f.lo.getLsbD 7, m := f.lo.extractLsb' 2 4 })
    else .error .fieldNotAllowed
  | 52 =>
    if f.b = 0#5 ∧ f.lo.extractLsb' 6 1 = 0#1 ∧ f.lo.extractLsb' 0 2 = 0#2 then .ok (.vscanSum { d := f.d, a := f.a, x := f.lo.getLsbD 7, m := f.lo.extractLsb' 2 4 })
    else if f.b = 0#5 ∧ f.lo.extractLsb' 6 1 = 0#1 ∧ f.lo.extractLsb' 0 2 = 1#2 then .ok (.vscanFsum { d := f.d, a := f.a, x := f.lo.getLsbD 7, m := f.lo.extractLsb' 2 4 })
    else if f.b = 0#5 ∧ f.lo.extractLsb' 6 1 = 0#1 ∧ f.lo.extractLsb' 0 2 = 2#2 then .ok (.vscanMax { d := f.d, a := f.a, x := f.lo.getLsbD 7, m := f.lo.extractLsb' 2 4 })
    else if f.b = 0#5 ∧ f.lo.extractLsb' 6 1 = 0#1 ∧ f.lo.extractLsb' 0 2 = 3#2 then .ok (.vscanMin { d := f.d, a := f.a, x := f.lo.getLsbD 7, m := f.lo.extractLsb' 2 4 })
    else .error .fieldNotAllowed
  | 53 =>
    if f.lo.extractLsb' 6 2 = 0#2 ∧ f.lo.extractLsb' 3 1 = 0#1 then .ok (.vamoAdd { d := f.d, a := f.a, b := f.b, c := f.lo.extractLsb' 4 2, m := f.lo.extractLsb' 0 3 })
    else if f.lo.extractLsb' 6 2 = 1#2 ∧ f.lo.extractLsb' 3 1 = 0#1 then .ok (.vamoMin { d := f.d, a := f.a, b := f.b, c := f.lo.extractLsb' 4 2, m := f.lo.extractLsb' 0 3 })
    else if f.lo.extractLsb' 6 2 = 2#2 ∧ f.lo.extractLsb' 3 1 = 0#1 then .ok (.vamoMax { d := f.d, a := f.a, b := f.b, c := f.lo.extractLsb' 4 2, m := f.lo.extractLsb' 0 3 })
    else if f.lo.extractLsb' 6 2 = 3#2 ∧ f.lo.extractLsb' 3 1 = 0#1 then .ok (.vamoSwap { d := f.d, a := f.a, b := f.b, c := f.lo.extractLsb' 4 2, m := f.lo.extractLsb' 0 3 })
    else .error .fieldNotAllowed
  | 54 =>
    if f.b = 0#5 ∧ f.lo.extractLsb' 0 7 = 0#7 then .ok (.vtocb f.d f.a (f.lo.getLsbD 7))
    else .error .fieldNotAllowed
  | 55 =>
    if f.d.extractLsb' 4 1 = 0#1 ∧ f.lo = 0#8 then .ok (.vrep (f.d.extractLsb' 0 4) f.a f.b)
    else .error .fieldNotAllowed
  | 56 =>
    .ok (.vld { d := f.d, a := f.a, b := f.b, o := f.lo.getLsbD 7, c := f.lo.extractLsb' 4 3, v := f.lo.getLsbD 3, m := f.lo.extractLsb' 0 3 })
  | 57 =>
    .ok (.vst { d := f.d, a := f.a, b := f.b, y := f.lo.getLsbD 7, c := f.lo.extractLsb' 4 3, n := f.lo.getLsbD 3, m := f.lo.extractLsb' 0 3 })
  | 58 =>
    .ok (.vldx { d := f.d, a := f.a, b := f.b, o := f.lo.getLsbD 7, c := f.lo.extractLsb' 4 3, v := f.lo.getLsbD 3, m := f.lo.extractLsb' 0 3 })
  | 59 =>
    .ok (.vstx { d := f.d, a := f.a, b := f.b, y := f.lo.getLsbD 7, c := f.lo.extractLsb' 4 3, n := f.lo.getLsbD 3, m := f.lo.extractLsb' 0 3 })
  | 60 =>
    .ok (.tensorLoad { d := f.d, a := f.a, b := f.b, o := f.lo.getLsbD 7, c := f.lo.extractLsb' 4 3, v := f.lo.getLsbD 3, m := f.lo.extractLsb' 0 3 })
  | 61 =>
    .ok (.tensorStore { d := f.d, a := f.a, b := f.b, y := f.lo.getLsbD 7, c := f.lo.extractLsb' 4 3, n := f.lo.getLsbD 3, m := f.lo.extractLsb' 0 3 })
  | 62 =>
    if f.lo.extractLsb' 4 3 = 0#3 then .ok (.vgl f.d f.a f.b (f.lo.getLsbD 7) (f.lo.getLsbD 3) (f.lo.extractLsb' 0 3))
    else .error .fieldNotAllowed
  | 63 =>
    if f.lo.extractLsb' 3 4 = 0#4 then .ok (.vsc f.d f.a f.b (f.lo.getLsbD 7) (f.lo.extractLsb' 0 3))
    else .error .fieldNotAllowed
  | _ => .error .opNotListed

/-- The M-class map (R93); every other OP or field value is no syllable (R95). -/
def decodeM (f : Fields) : Except DecodeError Instr :=
  match f.op.toNat with
  | 0 =>
    .ok (.mma { t := f.d, a := f.a, b := f.b, f := f.lo.extractLsb' 4 4, u := f.lo.getLsbD 3, v := f.lo.getLsbD 2, s := f.lo.getLsbD 1, c := f.lo.getLsbD 0 })
  | 1 =>
    .ok (.mmaG { t := f.d, a := f.a, b := f.b, f := f.lo.extractLsb' 4 4, u := f.lo.getLsbD 3, v := f.lo.getLsbD 2, s := f.lo.getLsbD 1, c := f.lo.getLsbD 0 })
  | 2 =>
    if f.a = 0#5 ∧ f.b = 0#5 ∧ f.lo = 0#8 then .ok (.mzero f.d)
    else .error .fieldNotAllowed
  | 3 =>
    if f.b = 0#5 ∧ f.lo = 0#8 then .ok (.mld f.d f.a)
    else .error .fieldNotAllowed
  | 4 =>
    if f.b = 0#5 ∧ f.lo = 0#8 then .ok (.mst f.d f.a)
    else .error .fieldNotAllowed
  | 5 =>
    if f.b = 0#5 ∧ f.lo.extractLsb' 1 7 = 0#7 then .ok (.mdrainF32 f.d f.a (f.lo.getLsbD 0))
    else if f.b = 0#5 ∧ f.lo.extractLsb' 1 7 = 8#7 then .ok (.mdrainBf16 f.d f.a (f.lo.getLsbD 0))
    else if f.lo.extractLsb' 1 7 = 16#7 then .ok (.mdrainI8 f.d f.a f.b (f.lo.getLsbD 0))
    else .error .fieldNotAllowed
  | 6 =>
    if f.b = 0#5 ∧ f.lo.extractLsb' 7 1 = 0#1 ∧ f.lo.extractLsb' 2 4 = 0#4 ∧ f.lo.extractLsb' 0 1 = 0#1 then .ok (.maddRow f.d f.a (f.lo.getLsbD 6) (f.lo.getLsbD 1))
    else if f.b = 0#5 ∧ f.lo.extractLsb' 7 1 = 0#1 ∧ f.lo.extractLsb' 2 4 = 1#4 ∧ f.lo.extractLsb' 0 1 = 0#1 then .ok (.maddCol f.d f.a (f.lo.getLsbD 6) (f.lo.getLsbD 1))
    else .error .fieldNotAllowed
  | 7 =>
    if f.lo.extractLsb' 5 3 = 2#3 ∧ f.lo.extractLsb' 2 1 = 0#1 ∧ f.lo.extractLsb' 0 1 = 0#1 then .ok (.msum f.d f.a f.b (f.lo.getLsbD 4) (f.lo.getLsbD 3) (f.lo.getLsbD 1))
    else .error .fieldNotAllowed
  | 8 =>
    if f.d = 0#5 ∧ f.a = 0#5 ∧ f.b = 0#5 ∧ f.lo = 0#8 then .ok (.mwait)
    else .error .fieldNotAllowed
  | _ => .error .opNotListed

/-- The C-class map (R94); every other OP or field value is no syllable (R95). -/
def decodeC (f : Fields) : Except DecodeError Instr :=
  match f.op.toNat with
  | 0 =>
    .ok (.cpy { d := f.d, a := f.a, l := f.b, y := f.lo.extractLsb' 6 2, e := f.lo.extractLsb' 4 2, g := f.lo.extractLsb' 0 4 })
  | 1 =>
    .ok (.cpyt { d := f.d, a := f.a, l := f.b, y := f.lo.extractLsb' 6 2, e := f.lo.extractLsb' 4 2, g := f.lo.extractLsb' 0 4 })
  | 2 =>
    .ok (.cfill { d := f.d, a := f.a, l := f.b, y := f.lo.extractLsb' 6 2, e := f.lo.extractLsb' 4 2, g := f.lo.extractLsb' 0 4 })
  | 3 =>
    .ok (.cgath { d := f.d, a := f.a, l := f.b, y := f.lo.extractLsb' 6 2, e := f.lo.extractLsb' 4 2, g := f.lo.extractLsb' 0 4 })
  | 4 =>
    if f.b = 0#5 then .ok (.cnm f.d f.a (f.lo.extractLsb' 6 2) (f.lo.extractLsb' 4 2) (f.lo.extractLsb' 0 4))
    else if f.b = 1#5 then .ok (.cnmAll f.d f.a (f.lo.extractLsb' 6 2) (f.lo.extractLsb' 4 2) (f.lo.extractLsb' 0 4))
    else .error .fieldNotAllowed
  | 5 =>
    if f.d = 0#5 ∧ f.a = 0#5 ∧ f.b = 0#5 ∧ f.lo.extractLsb' 4 4 = 0#4 then .ok (.cwait (f.lo.extractLsb' 0 4))
    else .error .fieldNotAllowed
  | 6 =>
    if f.d = 0#5 ∧ f.lo.extractLsb' 6 2 = 0#2 then .ok (.cpf f.a f.b (f.lo.extractLsb' 4 2) (f.lo.extractLsb' 0 4))
    else .error .fieldNotAllowed
  | 7 =>
    if f.d = 0#5 ∧ f.a = 0#5 ∧ f.b = 0#5 ∧ f.lo.extractLsb' 4 4 = 0#4 then .ok (.cfence (f.lo.extractLsb' 0 4))
    else .error .fieldNotAllowed
  | _ => .error .opNotListed

/-- The instruction of these fields, before its own fields are checked. -/
def decodeFields (f : Fields) : Except DecodeError Instr :=
  match f.cls.toNat with
  | 0 => decodeS f
  | 1 => decodeV f
  | 2 => decodeM f
  | _ => decodeC f

/-- Refuses an ill-formed instruction. -/
def checked (r : Except DecodeError Instr) : Except DecodeError Instr :=
  match r with
  | .ok i => if i.wf then .ok i else .error .illFormed
  | .error e => .error e

/-- The syllable w, or why it raises ILLEGAL (R95). -/
def decodeSyl (w : BitVec 32) : Except DecodeError Instr := checked (decodeFields (fieldsOf w))

/-! ### T-ops (R96 to R98) -/

/-- The fields of a T-op word (R96). -/
structure TFields where
  op  : BitVec 8
  d   : TReg
  a   : TReg
  b   : TReg
  imm : BitVec 44
  deriving DecidableEq, Repr

def tFieldsOf (w : Word) : TFields :=
  { op := w.extractLsb' 56 8, d := w.extractLsb' 52 4, a := w.extractLsb' 48 4, b := w.extractLsb' 44 4,
    imm := w.extractLsb' 0 44 }

def TFields.word (f : TFields) : Word := f.op ++ f.d ++ f.a ++ f.b ++ f.imm

/-- The operand words a header asks for (R97): n of [43:40] for `tlaunch`, none for any other T-op. -/
def topOperands (w : Word) : Nat := if w.extractLsb' 56 8 = 0x30#8 then (w.extractLsb' 40 4).toNat else 0

/-- An operand word of `tlaunch` (R97). -/
def decodeOperand (w : Word) : Except DecodeError LaunchOp :=
  let t : TReg := w.extractLsb' 56 4
  let z := fun (n : Nat) (x : LaunchOp) => if w.toNat / 2 ^ (60 - n) % 2 ^ n = 0 then Except.ok x else Except.error DecodeError.fieldNotAllowed
  match (w.extractLsb' 60 4).toNat with
  | 1 => z 52 (.inp (w.extractLsb' 0 8))
  | 2 => z 52 (.out (w.extractLsb' 0 8))
  | 3 => if w.extractLsb' 0 56 = 0#56 then .ok (.sreg t) else .error .fieldNotAllowed
  | 4 => .ok (.simm (w.extractLsb' 0 60))
  | 5 => if w.extractLsb' 40 16 = 0#16 then .ok (.raw t (w.extractLsb' 0 40)) else .error .fieldNotAllowed
  | 6 => if w.extractLsb' 0 56 = 0#56 then .ok (.after t) else .error .fieldNotAllowed
  | _ => .error .opNotListed

def decodeOperands : List Word → Except DecodeError (List LaunchOp)
  | [] => .ok []
  | w :: r =>
    match decodeOperand w, decodeOperands r with
    | .ok x, .ok xs => .ok (x :: xs)
    | .error e, _ => .error e
    | _, .error e => .error e

/-- The T-op of a header word and the operand words it asks for, before its own fields are checked. -/
def decodeTopFields (f : TFields) (ops : List Word) : Except DecodeError Instr :=
  let i := f.imm
  let ok := fun (c : Bool) (x : Instr) => if c then Except.ok x else Except.error DecodeError.fieldNotAllowed
  let d0 := decide (f.d = 0#4)
  let a0 := decide (f.a = 0#4)
  let b0 := decide (f.b = 0#4)
  let i0 := decide (i = 0#44)
  let lb : BitVec 8 := i.extractLsb' 36 8
  match f.op.toNat with
  | 0x01 => ok (a0 && b0) (.tli f.d i)
  | 0x02 => ok i0 (.tadd f.d f.a f.b)
  | 0x03 => ok b0 (.taddi f.d f.a i)
  | 0x04 => ok i0 (.tsub f.d f.a f.b)
  | 0x05 => ok i0 (.tmul f.d f.a f.b)
  | 0x06 => ok i0 (.tand f.d f.a f.b)
  | 0x07 => ok i0 (.tor f.d f.a f.b)
  | 0x08 => ok i0 (.tshl f.d f.a f.b)
  | 0x09 => ok i0 (.tshr f.d f.a f.b)
  | 0x10 => ok b0 (.tld f.d f.a i)
  | 0x11 => ok d0 (.tst f.a f.b i)
  | 0x18 => ok d0 (.tbeq f.a f.b i)
  | 0x19 => ok d0 (.tbne f.a f.b i)
  | 0x1A => ok d0 (.tblt f.a f.b i)
  | 0x1B => ok d0 (.tbge f.a f.b i)
  | 0x1C => ok (d0 && a0 && b0) (.tj i)
  | 0x1D => ok (a0 && b0) (.tjal f.d i)
  | 0x1E => ok (d0 && b0 && i0) (.tjr f.a)
  | 0x20 => ok (d0 && a0 && b0 && decide (i.extractLsb' 0 23 = 0#23))
      (.tbuf lb (i.extractLsb' 30 6) (i.extractLsb' 25 5) (i.extractLsb' 23 2))
  | 0x21 => ok (d0 && b0 && decide (i.extractLsb' 0 36 = 0#36)) (.tbind lb f.a)
  | 0x22 => ok (d0 && a0 && b0 && decide (i.extractLsb' 0 36 = 0#36)) (.tfree lb)
  | 0x30 =>
    if d0 && b0 && decide (i.extractLsb' 39 1 = 0#1) then
      if ops.length ≠ (i.extractLsb' 40 4).toNat then .error .truncated
      else
        match decodeOperands ops with
        | .ok xs =>
          .ok (.tlaunch (LaunchHdr.mk f.a (i.extractLsb' 36 3) (i.extractLsb' 30 6) (i.extractLsb' 16 14)
            (i.extractLsb' 0 16)) xs)
        | .error e => .error e
    else .error .fieldNotAllowed
  | 0x31 => ok (d0 && a0 && b0 && decide (i.extractLsb' 0 28 = 0#28)) (.tcopy lb (i.extractLsb' 28 8))
  | 0x32 => if d0 && b0 && decide (i.extractLsb' 1 43 = 0#43) then
      .ok (if i.getLsbD 0 then .tnmAll f.a else .tnm f.a) else .error .fieldNotAllowed
  | 0x38 => ok (a0 && b0) (.tread f.d lb (i.extractLsb' 0 36))
  | 0x3C => ok (d0 && i0) (.tsig f.a f.b)
  | 0x3D => ok (d0 && i0) (.twait f.a f.b)
  | 0x3E => ok (d0 && a0 && b0 && i0) .tfence
  | 0xF0 => ok (d0 && a0 && b0 && decide (i.extractLsb' 16 28 = 0#28)) (.tsys (i.extractLsb' 0 16))
  | 0xFF => ok (d0 && a0 && b0 && i0) .thalt
  | _ => .error .opNotListed

/-- The T-op of a header word and its operand words, or why it is malformed (R98). -/
def decodeTop (w : Word) (ops : List Word) : Except DecodeError Instr := checked (decodeTopFields (tFieldsOf w) ops)

/-! ### Near-memory commands (R99, R100) -/

def nmFields (x : BitVec 512) : NmCmd :=
  { w := x.extractLsb' 8 5, g := x.extractLsb' 13 5, rm := x.extractLsb' 18 3, count := x.extractLsb' 32 32,
    dst := x.extractLsb' 64 64, src := x.extractLsb' 128 64, aux1 := x.extractLsb' 192 64, aux2 := x.extractLsb' 256 64,
    k0 := x.extractLsb' 320 32, k1 := x.extractLsb' 352 32, k2 := x.extractLsb' 384 32, k3 := x.extractLsb' 416 32,
    k4 := x.extractLsb' 448 32 }

/-- The command of 64 bytes, before its own fields are checked. -/
def decodeNmFields (x : BitVec 512) : Except DecodeError Instr :=
  if x.extractLsb' 21 11 ≠ 0#11 ∨ x.extractLsb' 480 32 ≠ 0#32 then .error .fieldNotAllowed
  else
    let c := nmFields x
    match (x.extractLsb' 0 8).toNat with
    | 1 => .ok (.nmFill c) | 2 => .ok (.nmCopy c) | 3 => .ok (.nmScale c) | 4 => .ok (.nmAxpy c)
    | 5 => .ok (.nmSgdwd c) | 6 => .ok (.nmMomentum c) | 7 => .ok (.nmAdamw c) | 8 => .ok (.nmSumsq c)
    | 9 => .ok (.nmCast c)
    | _ => .error .opNotListed

/-- The command of 64 bytes, or why it is malformed (R100). -/
def decodeNm (x : BitVec 512) : Except DecodeError Instr := checked (decodeNmFields x)

/-- The instruction read from one written as the opcode table numbers its bits: a syllable of 32 bits, a T-op whose
header has 64 (with no operand words present, each is zero), a near-memory command of 512. -/
def decodeTableWord (nbits w : Nat) : Option Instr :=
  let r :=
    if nbits = 0 then .error .opNotListed
    else if nbits ≤ 32 then decodeSyl (BitVec.ofNat 32 w)
    else if nbits ≤ 128 then
      let h : Word := BitVec.ofNat 64 w
      decodeTop h ((List.range (topOperands h)).map (fun i => BitVec.ofNat 64 (w / 2 ^ (64 * (i + 1)))))
    else decodeNm (BitVec.ofNat 512 w)
  match r with
  | .ok i => some i
  | .error _ => none

/-! ### The encoder -/

/-- The fields of a syllable (R86 to R94); none for an instruction of another kind. -/
def encodeFields : Instr → Option Fields
  | .add d a b => some { cls := 0#2, op := 0#6, d := d, a := a, b := b, lo := 0#8 }
  | .sub d a b => some { cls := 0#2, op := 0#6, d := d, a := a, b := b, lo := 1#8 }
  | .and d a b => some { cls := 0#2, op := 0#6, d := d, a := a, b := b, lo := 2#8 }
  | .or d a b => some { cls := 0#2, op := 0#6, d := d, a := a, b := b, lo := 3#8 }
  | .xor d a b => some { cls := 0#2, op := 0#6, d := d, a := a, b := b, lo := 4#8 }
  | .sll d a b => some { cls := 0#2, op := 0#6, d := d, a := a, b := b, lo := 5#8 }
  | .srl d a b => some { cls := 0#2, op := 0#6, d := d, a := a, b := b, lo := 6#8 }
  | .sra d a b => some { cls := 0#2, op := 0#6, d := d, a := a, b := b, lo := 7#8 }
  | .slt d a b => some { cls := 0#2, op := 0#6, d := d, a := a, b := b, lo := 8#8 }
  | .sltu d a b => some { cls := 0#2, op := 0#6, d := d, a := a, b := b, lo := 9#8 }
  | .min d a b => some { cls := 0#2, op := 0#6, d := d, a := a, b := b, lo := 10#8 }
  | .max d a b => some { cls := 0#2, op := 0#6, d := d, a := a, b := b, lo := 11#8 }
  | .minu d a b => some { cls := 0#2, op := 0#6, d := d, a := a, b := b, lo := 12#8 }
  | .maxu d a b => some { cls := 0#2, op := 0#6, d := d, a := a, b := b, lo := 13#8 }
  | .clz d a => some { cls := 0#2, op := 0#6, d := d, a := a, b := 0#5, lo := 14#8 }
  | .ctz d a => some { cls := 0#2, op := 0#6, d := d, a := a, b := 0#5, lo := 15#8 }
  | .popc d a => some { cls := 0#2, op := 0#6, d := d, a := a, b := 0#5, lo := 16#8 }
  | .sextB d a => some { cls := 0#2, op := 0#6, d := d, a := a, b := 0#5, lo := 17#8 }
  | .sextH d a => some { cls := 0#2, op := 0#6, d := d, a := a, b := 0#5, lo := 18#8 }
  | .sextW d a => some { cls := 0#2, op := 0#6, d := d, a := a, b := 0#5, lo := 19#8 }
  | .zextB d a => some { cls := 0#2, op := 0#6, d := d, a := a, b := 0#5, lo := 20#8 }
  | .zextH d a => some { cls := 0#2, op := 0#6, d := d, a := a, b := 0#5, lo := 21#8 }
  | .zextW d a => some { cls := 0#2, op := 0#6, d := d, a := a, b := 0#5, lo := 22#8 }
  | .andn d a b => some { cls := 0#2, op := 0#6, d := d, a := a, b := b, lo := 23#8 }
  | .orn d a b => some { cls := 0#2, op := 0#6, d := d, a := a, b := b, lo := 24#8 }
  | .rol d a b => some { cls := 0#2, op := 0#6, d := d, a := a, b := b, lo := 25#8 }
  | .ror d a b => some { cls := 0#2, op := 0#6, d := d, a := a, b := b, lo := 26#8 }
  | .mul d a b => some { cls := 0#2, op := 1#6, d := d, a := a, b := b, lo := 0#8 }
  | .mulh d a b => some { cls := 0#2, op := 1#6, d := d, a := a, b := b, lo := 1#8 }
  | .mulhu d a b => some { cls := 0#2, op := 1#6, d := d, a := a, b := b, lo := 2#8 }
  | .mulhsu d a b => some { cls := 0#2, op := 1#6, d := d, a := a, b := b, lo := 3#8 }
  | .div d a b => some { cls := 0#2, op := 1#6, d := d, a := a, b := b, lo := 4#8 }
  | .divu d a b => some { cls := 0#2, op := 1#6, d := d, a := a, b := b, lo := 5#8 }
  | .rem d a b => some { cls := 0#2, op := 1#6, d := d, a := a, b := b, lo := 6#8 }
  | .remu d a b => some { cls := 0#2, op := 1#6, d := d, a := a, b := b, lo := 7#8 }
  | .addi d a i => some { cls := 0#2, op := 2#6, d := d, a := a, b := i.extractLsb' 8 5, lo := i.extractLsb' 0 8 }
  | .andi d a i => some { cls := 0#2, op := 3#6, d := d, a := a, b := i.extractLsb' 8 5, lo := i.extractLsb' 0 8 }
  | .ori d a i => some { cls := 0#2, op := 4#6, d := d, a := a, b := i.extractLsb' 8 5, lo := i.extractLsb' 0 8 }
  | .xori d a i => some { cls := 0#2, op := 5#6, d := d, a := a, b := i.extractLsb' 8 5, lo := i.extractLsb' 0 8 }
  | .slti d a i => some { cls := 0#2, op := 6#6, d := d, a := a, b := i.extractLsb' 8 5, lo := i.extractLsb' 0 8 }
  | .sltiu d a i => some { cls := 0#2, op := 7#6, d := d, a := a, b := i.extractLsb' 8 5, lo := i.extractLsb' 0 8 }
  | .slli d a n => some { cls := 0#2, op := 8#6, d := d, a := a, b := 0#5, lo := 0#2 ++ n }
  | .srli d a n => some { cls := 0#2, op := 8#6, d := d, a := a, b := 0#5, lo := 1#2 ++ n }
  | .srai d a n => some { cls := 0#2, op := 8#6, d := d, a := a, b := 0#5, lo := 2#2 ++ n }
  | .lhi d i => some { cls := 0#2, op := 9#6, d := d, a := i.extractLsb' 13 5, b := i.extractLsb' 8 5, lo := i.extractLsb' 0 8 }
  | .lpc d o => some { cls := 0#2, op := 10#6, d := d, a := o.extractLsb' 13 5, b := o.extractLsb' 8 5, lo := o.extractLsb' 0 8 }
  | .beq a b o => some { cls := 0#2, op := 16#6, d := a, a := b, b := o.extractLsb' 8 5, lo := o.extractLsb' 0 8 }
  | .bne a b o => some { cls := 0#2, op := 17#6, d := a, a := b, b := o.extractLsb' 8 5, lo := o.extractLsb' 0 8 }
  | .blt a b o => some { cls := 0#2, op := 18#6, d := a, a := b, b := o.extractLsb' 8 5, lo := o.extractLsb' 0 8 }
  | .bge a b o => some { cls := 0#2, op := 19#6, d := a, a := b, b := o.extractLsb' 8 5, lo := o.extractLsb' 0 8 }
  | .bltu a b o => some { cls := 0#2, op := 20#6, d := a, a := b, b := o.extractLsb' 8 5, lo := o.extractLsb' 0 8 }
  | .bgeu a b o => some { cls := 0#2, op := 21#6, d := a, a := b, b := o.extractLsb' 8 5, lo := o.extractLsb' 0 8 }
  | .jal d o => some { cls := 0#2, op := 22#6, d := d, a := o.extractLsb' 13 5, b := o.extractLsb' 8 5, lo := o.extractLsb' 0 8 }
  | .jalr d a i => some { cls := 0#2, op := 23#6, d := d, a := a, b := i.extractLsb' 8 5, lo := i.extractLsb' 0 8 }
  | .ld d a c z x o => some { cls := 0#2, op := 24#6, d := d, a := a, b := c ++ z, lo := BitVec.ofBool x ++ o }
  | .st d a c z o => some { cls := 0#2, op := 25#6, d := d, a := a, b := c ++ z, lo := 0#1 ++ o }
  | .ldAcq d a e z x o => some { cls := 0#2, op := 26#6, d := d, a := a, b := e ++ 0#1 ++ z, lo := BitVec.ofBool x ++ o }
  | .stRel d a e z o => some { cls := 0#2, op := 27#6, d := d, a := a, b := e ++ 0#1 ++ z, lo := 0#1 ++ o }
  | .amoAdd d a b z c => some { cls := 0#2, op := 28#6, d := d, a := a, b := b, lo := 1#5 ++ BitVec.ofBool z ++ BitVec.ofBool c ++ 0#1 }
  | .amoAnd d a b z c => some { cls := 0#2, op := 28#6, d := d, a := a, b := b, lo := 3#5 ++ BitVec.ofBool z ++ BitVec.ofBool c ++ 0#1 }
  | .amoOr d a b z c => some { cls := 0#2, op := 28#6, d := d, a := a, b := b, lo := 5#5 ++ BitVec.ofBool z ++ BitVec.ofBool c ++ 0#1 }
  | .amoXor d a b z c => some { cls := 0#2, op := 28#6, d := d, a := a, b := b, lo := 7#5 ++ BitVec.ofBool z ++ BitVec.ofBool c ++ 0#1 }
  | .amoMin d a b z c => some { cls := 0#2, op := 28#6, d := d, a := a, b := b, lo := 9#5 ++ BitVec.ofBool z ++ BitVec.ofBool c ++ 0#1 }
  | .amoMax d a b z c => some { cls := 0#2, op := 28#6, d := d, a := a, b := b, lo := 11#5 ++ BitVec.ofBool z ++ BitVec.ofBool c ++ 0#1 }
  | .amoMinu d a b z c => some { cls := 0#2, op := 28#6, d := d, a := a, b := b, lo := 13#5 ++ BitVec.ofBool z ++ BitVec.ofBool c ++ 0#1 }
  | .amoMaxu d a b z c => some { cls := 0#2, op := 28#6, d := d, a := a, b := b, lo := 15#5 ++ BitVec.ofBool z ++ BitVec.ofBool c ++ 0#1 }
  | .amoSwap d a b z c => some { cls := 0#2, op := 28#6, d := d, a := a, b := b, lo := 17#5 ++ BitVec.ofBool z ++ BitVec.ofBool c ++ 0#1 }
  | .amoCas d a b z c => some { cls := 0#2, op := 28#6, d := d, a := a, b := b, lo := 19#5 ++ BitVec.ofBool z ++ BitVec.ofBool c ++ 0#1 }
  | .fence e => some { cls := 0#2, op := 29#6, d := 0#5, a := 0#5, b := 0#5, lo := 0#6 ++ e }
  | .kbind d a b => some { cls := 0#2, op := 32#6, d := d, a := a, b := b, lo := 0#8 }
  | .kacq a b e => some { cls := 0#2, op := 33#6, d := 0#5, a := a, b := b, lo := 0#6 ++ e }
  | .krel a b e => some { cls := 0#2, op := 34#6, d := 0#5, a := a, b := b, lo := 0#6 ++ e }
  | .ktry d a b e => some { cls := 0#2, op := 35#6, d := d, a := a, b := b, lo := 0#6 ++ e }
  | .gbarArr => some { cls := 0#2, op := 36#6, d := 0#5, a := 0#5, b := 0#5, lo := 0#8 }
  | .gbarWait u => some { cls := 0#2, op := 36#6, d := 0#5, a := 0#5, b := u, lo := 1#8 }
  | .setgl d a => some { cls := 0#2, op := 40#6, d := d, a := a, b := 0#5, lo := 0#8 }
  | .setglH d a b => some { cls := 0#2, op := 40#6, d := d, a := a, b := b, lo := 1#8 }
  | .stb a => some { cls := 0#2, op := 41#6, d := 0#5, a := a, b := 0#5, lo := 0#8 }
  | .stbW a b => some { cls := 0#2, op := 41#6, d := 0#5, a := a, b := b, lo := 1#8 }
  | .ste o => some { cls := 0#2, op := 42#6, d := 0#5, a := o.extractLsb' 13 5, b := o.extractLsb' 8 5, lo := o.extractLsb' 0 8 }
  | .addgl d a h => some { cls := 0#2, op := 43#6, d := d, a := a, b := 0#5, lo := 0#2 ++ h }
  | .crr d n => some { cls := 0#2, op := 48#6, d := d, a := 0#5, b := n.extractLsb' 7 5, lo := n.extractLsb' 0 7 ++ 0#1 }
  | .crw a n => some { cls := 0#2, op := 49#6, d := 0#5, a := a, b := n.extractLsb' 7 5, lo := n.extractLsb' 0 7 ++ 0#1 }
  | .crs d a n => some { cls := 0#2, op := 50#6, d := d, a := a, b := n.extractLsb' 7 5, lo := n.extractLsb' 0 7 ++ 0#1 }
  | .crc d a n => some { cls := 0#2, op := 51#6, d := d, a := a, b := n.extractLsb' 7 5, lo := n.extractLsb' 0 7 ++ 0#1 }
  | .trapSys c => some { cls := 0#2, op := 56#6, d := 0#5, a := 0#5, b := 0#1 ++ c.extractLsb' 8 4, lo := c.extractLsb' 0 8 }
  | .trapBrk c => some { cls := 0#2, op := 56#6, d := 16#5, a := 0#5, b := 0#1 ++ c.extractLsb' 8 4, lo := c.extractLsb' 0 8 }
  | .tret => some { cls := 0#2, op := 57#6, d := 0#5, a := 0#5, b := 0#5, lo := 0#8 }
  | .texit => some { cls := 0#2, op := 58#6, d := 0#5, a := 0#5, b := 0#5, lo := 0#8 }
  | .wfe => some { cls := 0#2, op := 59#6, d := 0#5, a := 0#5, b := 0#5, lo := 0#8 }
  | .nop => some { cls := 0#2, op := 63#6, d := 0#5, a := 0#5, b := 0#5, lo := 0#8 }
  | .vadd o => some { cls := 1#2, op := 0#6, d := o.d, a := o.a, b := o.b, lo := BitVec.ofBool o.x ++ BitVec.ofBool o.y ++ o.m ++ 0#1 ++ BitVec.ofBool o.s }
  | .vsub o => some { cls := 1#2, op := 1#6, d := o.d, a := o.a, b := o.b, lo := BitVec.ofBool o.x ++ BitVec.ofBool o.y ++ o.m ++ 0#1 ++ BitVec.ofBool o.s }
  | .vmul o => some { cls := 1#2, op := 2#6, d := o.d, a := o.a, b := o.b, lo := BitVec.ofBool o.x ++ BitVec.ofBool o.y ++ o.m ++ 0#1 ++ BitVec.ofBool o.s }
  | .vmulh o => some { cls := 1#2, op := 3#6, d := o.d, a := o.a, b := o.b, lo := BitVec.ofBool o.x ++ BitVec.ofBool o.y ++ o.m ++ 0#1 ++ BitVec.ofBool o.s }
  | .vmulhU o => some { cls := 1#2, op := 3#6, d := o.d, a := o.a, b := o.b, lo := BitVec.ofBool o.x ++ BitVec.ofBool o.y ++ o.m ++ 1#1 ++ BitVec.ofBool o.s }
  | .vmin o => some { cls := 1#2, op := 4#6, d := o.d, a := o.a, b := o.b, lo := BitVec.ofBool o.x ++ BitVec.ofBool o.y ++ o.m ++ 0#1 ++ BitVec.ofBool o.s }
  | .vminU o => some { cls := 1#2, op := 4#6, d := o.d, a := o.a, b := o.b, lo := BitVec.ofBool o.x ++ BitVec.ofBool o.y ++ o.m ++ 1#1 ++ BitVec.ofBool o.s }
  | .vmax o => some { cls := 1#2, op := 5#6, d := o.d, a := o.a, b := o.b, lo := BitVec.ofBool o.x ++ BitVec.ofBool o.y ++ o.m ++ 0#1 ++ BitVec.ofBool o.s }
  | .vmaxU o => some { cls := 1#2, op := 5#6, d := o.d, a := o.a, b := o.b, lo := BitVec.ofBool o.x ++ BitVec.ofBool o.y ++ o.m ++ 1#1 ++ BitVec.ofBool o.s }
  | .vand o => some { cls := 1#2, op := 6#6, d := o.d, a := o.a, b := o.b, lo := BitVec.ofBool o.x ++ BitVec.ofBool o.y ++ o.m ++ 0#1 ++ BitVec.ofBool o.s }
  | .vor o => some { cls := 1#2, op := 7#6, d := o.d, a := o.a, b := o.b, lo := BitVec.ofBool o.x ++ BitVec.ofBool o.y ++ o.m ++ 0#1 ++ BitVec.ofBool o.s }
  | .vxor o => some { cls := 1#2, op := 8#6, d := o.d, a := o.a, b := o.b, lo := BitVec.ofBool o.x ++ BitVec.ofBool o.y ++ o.m ++ 0#1 ++ BitVec.ofBool o.s }
  | .vsll o => some { cls := 1#2, op := 9#6, d := o.d, a := o.a, b := o.b, lo := BitVec.ofBool o.x ++ BitVec.ofBool o.y ++ o.m ++ 0#1 ++ BitVec.ofBool o.s }
  | .vsrl o => some { cls := 1#2, op := 10#6, d := o.d, a := o.a, b := o.b, lo := BitVec.ofBool o.x ++ BitVec.ofBool o.y ++ o.m ++ 0#1 ++ BitVec.ofBool o.s }
  | .vsra o => some { cls := 1#2, op := 11#6, d := o.d, a := o.a, b := o.b, lo := BitVec.ofBool o.x ++ BitVec.ofBool o.y ++ o.m ++ 0#1 ++ BitVec.ofBool o.s }
  | .vsadd o => some { cls := 1#2, op := 12#6, d := o.d, a := o.a, b := o.b, lo := BitVec.ofBool o.x ++ BitVec.ofBool o.y ++ o.m ++ 0#1 ++ BitVec.ofBool o.s }
  | .vsaddU o => some { cls := 1#2, op := 12#6, d := o.d, a := o.a, b := o.b, lo := BitVec.ofBool o.x ++ BitVec.ofBool o.y ++ o.m ++ 1#1 ++ BitVec.ofBool o.s }
  | .vssub o => some { cls := 1#2, op := 13#6, d := o.d, a := o.a, b := o.b, lo := BitVec.ofBool o.x ++ BitVec.ofBool o.y ++ o.m ++ 0#1 ++ BitVec.ofBool o.s }
  | .vssubU o => some { cls := 1#2, op := 13#6, d := o.d, a := o.a, b := o.b, lo := BitVec.ofBool o.x ++ BitVec.ofBool o.y ++ o.m ++ 1#1 ++ BitVec.ofBool o.s }
  | .vcmpuLtu o => some { cls := 1#2, op := 14#6, d := o.d, a := o.a, b := o.b, lo := BitVec.ofBool o.x ++ BitVec.ofBool o.y ++ o.m ++ 0#1 ++ BitVec.ofBool o.s }
  | .vcmpuGeu o => some { cls := 1#2, op := 14#6, d := o.d, a := o.a, b := o.b, lo := BitVec.ofBool o.x ++ BitVec.ofBool o.y ++ o.m ++ 1#1 ++ BitVec.ofBool o.s }
  | .vmerge o => some { cls := 1#2, op := 15#6, d := o.d, a := o.a, b := o.b, lo := BitVec.ofBool o.x ++ BitVec.ofBool o.y ++ o.m ++ 0#1 ++ BitVec.ofBool o.s }
  | .vfadd o => some { cls := 1#2, op := 16#6, d := o.d, a := o.a, b := o.b, lo := BitVec.ofBool o.x ++ BitVec.ofBool o.y ++ o.m ++ 0#1 ++ BitVec.ofBool o.s }
  | .vfsub o => some { cls := 1#2, op := 17#6, d := o.d, a := o.a, b := o.b, lo := BitVec.ofBool o.x ++ BitVec.ofBool o.y ++ o.m ++ 0#1 ++ BitVec.ofBool o.s }
  | .vfmul o => some { cls := 1#2, op := 18#6, d := o.d, a := o.a, b := o.b, lo := BitVec.ofBool o.x ++ BitVec.ofBool o.y ++ o.m ++ 0#1 ++ BitVec.ofBool o.s }
  | .vfma o => some { cls := 1#2, op := 19#6, d := o.d, a := o.a, b := o.b, lo := BitVec.ofBool o.x ++ BitVec.ofBool o.y ++ o.m ++ 0#2 }
  | .vfmaFms o => some { cls := 1#2, op := 19#6, d := o.d, a := o.a, b := o.b, lo := BitVec.ofBool o.x ++ BitVec.ofBool o.y ++ o.m ++ 1#2 }
  | .vfmaFnma o => some { cls := 1#2, op := 19#6, d := o.d, a := o.a, b := o.b, lo := BitVec.ofBool o.x ++ BitVec.ofBool o.y ++ o.m ++ 2#2 }
  | .vfmaFnms o => some { cls := 1#2, op := 19#6, d := o.d, a := o.a, b := o.b, lo := BitVec.ofBool o.x ++ BitVec.ofBool o.y ++ o.m ++ 3#2 }
  | .vfdiv o => some { cls := 1#2, op := 20#6, d := o.d, a := o.a, b := o.b, lo := BitVec.ofBool o.x ++ BitVec.ofBool o.y ++ o.m ++ 0#1 ++ BitVec.ofBool o.s }
  | .vfsqrt o => some { cls := 1#2, op := 21#6, d := o.d, a := o.a, b := 0#5, lo := BitVec.ofBool o.x ++ 0#1 ++ o.m ++ 0#2 }
  | .vfrcp o => some { cls := 1#2, op := 22#6, d := o.d, a := o.a, b := 0#5, lo := BitVec.ofBool o.x ++ 0#1 ++ o.m ++ 0#2 }
  | .vfrsq o => some { cls := 1#2, op := 23#6, d := o.d, a := o.a, b := 0#5, lo := BitVec.ofBool o.x ++ 0#1 ++ o.m ++ 0#2 }
  | .vfmin o => some { cls := 1#2, op := 24#6, d := o.d, a := o.a, b := o.b, lo := BitVec.ofBool o.x ++ BitVec.ofBool o.y ++ o.m ++ 0#1 ++ BitVec.ofBool o.s }
  | .vfmax o => some { cls := 1#2, op := 25#6, d := o.d, a := o.a, b := o.b, lo := BitVec.ofBool o.x ++ BitVec.ofBool o.y ++ o.m ++ 0#1 ++ BitVec.ofBool o.s }
  | .vfexp2 o => some { cls := 1#2, op := 26#6, d := o.d, a := o.a, b := 0#5, lo := BitVec.ofBool o.x ++ 0#1 ++ o.m ++ 0#2 }
  | .vflog2 o => some { cls := 1#2, op := 27#6, d := o.d, a := o.a, b := 0#5, lo := BitVec.ofBool o.x ++ 0#1 ++ o.m ++ 0#2 }
  | .vfcvt o => some { cls := 1#2, op := 28#6, d := o.d, a := o.a, b := o.b, lo := BitVec.ofBool o.x ++ 0#1 ++ o.m ++ 0#2 }
  | .vfclass o => some { cls := 1#2, op := 29#6, d := o.d, a := o.a, b := 0#5, lo := BitVec.ofBool o.x ++ 0#1 ++ o.m ++ 0#2 }
  | .vcmpEq o => some { cls := 1#2, op := 30#6, d := o.d, a := o.a, b := o.b, lo := BitVec.ofBool o.x ++ BitVec.ofBool o.y ++ o.m ++ 0#2 }
  | .vcmpNe o => some { cls := 1#2, op := 30#6, d := o.d, a := o.a, b := o.b, lo := BitVec.ofBool o.x ++ BitVec.ofBool o.y ++ o.m ++ 1#2 }
  | .vcmpLt o => some { cls := 1#2, op := 30#6, d := o.d, a := o.a, b := o.b, lo := BitVec.ofBool o.x ++ BitVec.ofBool o.y ++ o.m ++ 2#2 }
  | .vcmpGe o => some { cls := 1#2, op := 30#6, d := o.d, a := o.a, b := o.b, lo := BitVec.ofBool o.x ++ BitVec.ofBool o.y ++ o.m ++ 3#2 }
  | .vfcmpEq o => some { cls := 1#2, op := 31#6, d := o.d, a := o.a, b := o.b, lo := BitVec.ofBool o.x ++ BitVec.ofBool o.y ++ o.m ++ 0#2 }
  | .vfcmpLt o => some { cls := 1#2, op := 31#6, d := o.d, a := o.a, b := o.b, lo := BitVec.ofBool o.x ++ BitVec.ofBool o.y ++ o.m ++ 1#2 }
  | .vfcmpLe o => some { cls := 1#2, op := 31#6, d := o.d, a := o.a, b := o.b, lo := BitVec.ofBool o.x ++ BitVec.ofBool o.y ++ o.m ++ 2#2 }
  | .vfcmpUnord o => some { cls := 1#2, op := 31#6, d := o.d, a := o.a, b := o.b, lo := BitVec.ofBool o.x ++ BitVec.ofBool o.y ++ o.m ++ 3#2 }
  | .kand o => some { cls := 1#2, op := 32#6, d := o.d, a := o.a, b := o.b, lo := 0#2 ++ o.m ++ 0#2 }
  | .kor o => some { cls := 1#2, op := 32#6, d := o.d, a := o.a, b := o.b, lo := 0#2 ++ o.m ++ 1#2 }
  | .kxor o => some { cls := 1#2, op := 32#6, d := o.d, a := o.a, b := o.b, lo := 0#2 ++ o.m ++ 2#2 }
  | .kinv d a m => some { cls := 1#2, op := 32#6, d := d, a := a, b := 0#5, lo := 0#2 ++ m ++ 3#2 }
  | .kcount d a => some { cls := 1#2, op := 33#6, d := d, a := a, b := 0#5, lo := 0#8 }
  | .kany d a => some { cls := 1#2, op := 34#6, d := d, a := a, b := 0#5, lo := 0#8 }
  | .kfirst d a => some { cls := 1#2, op := 35#6, d := d, a := a, b := 0#5, lo := 0#8 }
  | .ppinit d => some { cls := 1#2, op := 36#6, d := d, a := 0#5, b := 0#5, lo := 0#8 }
  | .ppinitNorm d => some { cls := 1#2, op := 36#6, d := d, a := 0#5, b := 0#5, lo := 1#8 }
  | .ppmul o => some { cls := 1#2, op := 37#6, d := o.d, a := o.a, b := o.b, lo := BitVec.ofBool o.x ++ BitVec.ofBool o.y ++ o.m ++ 0#2 }
  | .ppmulPb o => some { cls := 1#2, op := 37#6, d := o.d, a := o.a, b := 0#5, lo := BitVec.ofBool o.x ++ 0#1 ++ o.m ++ 1#2 }
  | .ppdiv d a b => some { cls := 1#2, op := 38#6, d := d, a := a, b := b, lo := 0#8 }
  | .ppmvToVector d a m => some { cls := 1#2, op := 39#6, d := d, a := a, b := 0#5, lo := 0#2 ++ m ++ 0#2 }
  | .ppmvToPoly o => some { cls := 1#2, op := 39#6, d := o.d, a := o.a, b := 0#5, lo := BitVec.ofBool o.x ++ 0#1 ++ o.m ++ 1#2 }
  | .vslideUp o => some { cls := 1#2, op := 40#6, d := o.d, a := o.a, b := o.b, lo := BitVec.ofBool o.x ++ 0#1 ++ o.m ++ 0#2 }
  | .vslideDown o => some { cls := 1#2, op := 40#6, d := o.d, a := o.a, b := o.b, lo := BitVec.ofBool o.x ++ 0#1 ++ o.m ++ 1#2 }
  | .vgathR o => some { cls := 1#2, op := 41#6, d := o.d, a := o.a, b := o.b, lo := BitVec.ofBool o.x ++ BitVec.ofBool o.y ++ o.m ++ 0#2 }
  | .vscatR o => some { cls := 1#2, op := 42#6, d := o.d, a := o.a, b := o.b, lo := BitVec.ofBool o.x ++ BitVec.ofBool o.y ++ o.m ++ 0#2 }
  | .vcompress o => some { cls := 1#2, op := 43#6, d := o.d, a := o.a, b := 0#5, lo := BitVec.ofBool o.x ++ 0#1 ++ o.m ++ 0#2 }
  | .vexpand o => some { cls := 1#2, op := 44#6, d := o.d, a := o.a, b := 0#5, lo := BitVec.ofBool o.x ++ 0#1 ++ o.m ++ 0#2 }
  | .vbcast d b m => some { cls := 1#2, op := 45#6, d := d, a := 0#5, b := b, lo := 0#2 ++ m ++ 0#2 }
  | .vext d a b x => some { cls := 1#2, op := 46#6, d := d, a := a, b := b, lo := BitVec.ofBool x ++ 0#7 }
  | .vins o => some { cls := 1#2, op := 47#6, d := o.d, a := o.a, b := o.b, lo := 0#2 ++ o.m ++ 0#2 }
  | .vid d m => some { cls := 1#2, op := 48#6, d := d, a := 0#5, b := 0#5, lo := 0#2 ++ m ++ 0#2 }
  | .vmv o => some { cls := 1#2, op := 49#6, d := o.d, a := o.a, b := 0#5, lo := BitVec.ofBool o.x ++ 0#1 ++ o.m ++ 0#2 }
  | .vredSum o => some { cls := 1#2, op := 50#6, d := o.d, a := o.a, b := 0#5, lo := BitVec.ofBool o.x ++ 0#1 ++ o.m ++ 0#2 }
  | .vredFsum o => some { cls := 1#2, op := 50#6, d := o.d, a := o.a, b := 0#5, lo := BitVec.ofBool o.x ++ 0#1 ++ o.m ++ 1#2 }
  | .vredMax o => some { cls := 1#2, op := 50#6, d := o.d, a := o.a, b := 0#5, lo := BitVec.ofBool o.x ++ 0#1 ++ o.m ++ 2#2 }
  | .vredMin o => some { cls := 1#2, op := 50#6, d := o.d, a := o.a, b := 0#5, lo := BitVec.ofBool o.x ++ 0#1 ++ o.m ++ 3#2 }
  | .vfoldSum o => some { cls := 1#2, op := 51#6, d := o.d, a := o.a, b := 0#5, lo := BitVec.ofBool o.x ++ 0#1 ++ o.m ++ 0#2 }
  | .vfoldFsum o => some { cls := 1#2, op := 51#6, d := o.d, a := o.a, b := 0#5, lo := BitVec.ofBool o.x ++ 0#1 ++ o.m ++ 1#2 }
  | .vfoldMax o => some { cls := 1#2, op := 51#6, d := o.d, a := o.a, b := 0#5, lo := BitVec.ofBool o.x ++ 0#1 ++ o.m ++ 2#2 }
  | .vfoldMin o => some { cls := 1#2, op := 51#6, d := o.d, a := o.a, b := 0#5, lo := BitVec.ofBool o.x ++ 0#1 ++ o.m ++ 3#2 }
  | .vscanSum o => some { cls := 1#2, op := 52#6, d := o.d, a := o.a, b := 0#5, lo := BitVec.ofBool o.x ++ 0#1 ++ o.m ++ 0#2 }
  | .vscanFsum o => some { cls := 1#2, op := 52#6, d := o.d, a := o.a, b := 0#5, lo := BitVec.ofBool o.x ++ 0#1 ++ o.m ++ 1#2 }
  | .vscanMax o => some { cls := 1#2, op := 52#6, d := o.d, a := o.a, b := 0#5, lo := BitVec.ofBool o.x ++ 0#1 ++ o.m ++ 2#2 }
  | .vscanMin o => some { cls := 1#2, op := 52#6, d := o.d, a := o.a, b := 0#5, lo := BitVec.ofBool o.x ++ 0#1 ++ o.m ++ 3#2 }
  | .vamoAdd o => some { cls := 1#2, op := 53#6, d := o.d, a := o.a, b := o.b, lo := 0#2 ++ o.c ++ 0#1 ++ o.m }
  | .vamoMin o => some { cls := 1#2, op := 53#6, d := o.d, a := o.a, b := o.b, lo := 1#2 ++ o.c ++ 0#1 ++ o.m }
  | .vamoMax o => some { cls := 1#2, op := 53#6, d := o.d, a := o.a, b := o.b, lo := 2#2 ++ o.c ++ 0#1 ++ o.m }
  | .vamoSwap o => some { cls := 1#2, op := 53#6, d := o.d, a := o.a, b := o.b, lo := 3#2 ++ o.c ++ 0#1 ++ o.m }
  | .vtocb d a x => some { cls := 1#2, op := 54#6, d := d, a := a, b := 0#5, lo := BitVec.ofBool x ++ 0#7 }
  | .vrep c a t => some { cls := 1#2, op := 55#6, d := 0#1 ++ c, a := a, b := t, lo := 0#8 }
  | .vld o => some { cls := 1#2, op := 56#6, d := o.d, a := o.a, b := o.b, lo := BitVec.ofBool o.o ++ o.c ++ BitVec.ofBool o.v ++ o.m }
  | .vst o => some { cls := 1#2, op := 57#6, d := o.d, a := o.a, b := o.b, lo := BitVec.ofBool o.y ++ o.c ++ BitVec.ofBool o.n ++ o.m }
  | .vldx o => some { cls := 1#2, op := 58#6, d := o.d, a := o.a, b := o.b, lo := BitVec.ofBool o.o ++ o.c ++ BitVec.ofBool o.v ++ o.m }
  | .vstx o => some { cls := 1#2, op := 59#6, d := o.d, a := o.a, b := o.b, lo := BitVec.ofBool o.y ++ o.c ++ BitVec.ofBool o.n ++ o.m }
  | .tensorLoad o => some { cls := 1#2, op := 60#6, d := o.d, a := o.a, b := o.b, lo := BitVec.ofBool o.o ++ o.c ++ BitVec.ofBool o.v ++ o.m }
  | .tensorStore o => some { cls := 1#2, op := 61#6, d := o.d, a := o.a, b := o.b, lo := BitVec.ofBool o.y ++ o.c ++ BitVec.ofBool o.n ++ o.m }
  | .vgl d a b o v m => some { cls := 1#2, op := 62#6, d := d, a := a, b := b, lo := BitVec.ofBool o ++ 0#3 ++ BitVec.ofBool v ++ m }
  | .vsc d a b y m => some { cls := 1#2, op := 63#6, d := d, a := a, b := b, lo := BitVec.ofBool y ++ 0#4 ++ m }
  | .mma o => some { cls := 2#2, op := 0#6, d := o.t, a := o.a, b := o.b, lo := o.f ++ BitVec.ofBool o.u ++ BitVec.ofBool o.v ++ BitVec.ofBool o.s ++ BitVec.ofBool o.c }
  | .mmaG o => some { cls := 2#2, op := 1#6, d := o.t, a := o.a, b := o.b, lo := o.f ++ BitVec.ofBool o.u ++ BitVec.ofBool o.v ++ BitVec.ofBool o.s ++ BitVec.ofBool o.c }
  | .mzero t => some { cls := 2#2, op := 2#6, d := t, a := 0#5, b := 0#5, lo := 0#8 }
  | .mld t a => some { cls := 2#2, op := 3#6, d := t, a := a, b := 0#5, lo := 0#8 }
  | .mst t a => some { cls := 2#2, op := 4#6, d := t, a := a, b := 0#5, lo := 0#8 }
  | .mdrainF32 t d c => some { cls := 2#2, op := 5#6, d := t, a := d, b := 0#5, lo := 0#7 ++ BitVec.ofBool c }
  | .mdrainBf16 t d c => some { cls := 2#2, op := 5#6, d := t, a := d, b := 0#5, lo := 8#7 ++ BitVec.ofBool c }
  | .mdrainI8 t d q c => some { cls := 2#2, op := 5#6, d := t, a := d, b := q, lo := 16#7 ++ BitVec.ofBool c }
  | .maddRow t a f s => some { cls := 2#2, op := 6#6, d := t, a := a, b := 0#5, lo := 0#1 ++ BitVec.ofBool f ++ 0#4 ++ BitVec.ofBool s ++ 0#1 }
  | .maddCol t a f s => some { cls := 2#2, op := 6#6, d := t, a := a, b := 0#5, lo := 0#1 ++ BitVec.ofBool f ++ 1#4 ++ BitVec.ofBool s ++ 0#1 }
  | .msum t a b f u s => some { cls := 2#2, op := 7#6, d := t, a := a, b := b, lo := 2#3 ++ BitVec.ofBool f ++ BitVec.ofBool u ++ 0#1 ++ BitVec.ofBool s ++ 0#1 }
  | .mwait => some { cls := 2#2, op := 8#6, d := 0#5, a := 0#5, b := 0#5, lo := 0#8 }
  | .cpy o => some { cls := 3#2, op := 0#6, d := o.d, a := o.a, b := o.l, lo := o.y ++ o.e ++ o.g }
  | .cpyt o => some { cls := 3#2, op := 1#6, d := o.d, a := o.a, b := o.l, lo := o.y ++ o.e ++ o.g }
  | .cfill o => some { cls := 3#2, op := 2#6, d := o.d, a := o.a, b := o.l, lo := o.y ++ o.e ++ o.g }
  | .cgath o => some { cls := 3#2, op := 3#6, d := o.d, a := o.a, b := o.l, lo := o.y ++ o.e ++ o.g }
  | .cnm d a y e g => some { cls := 3#2, op := 4#6, d := d, a := a, b := 0#5, lo := y ++ e ++ g }
  | .cnmAll d a y e g => some { cls := 3#2, op := 4#6, d := d, a := a, b := 1#5, lo := y ++ e ++ g }
  | .cwait g => some { cls := 3#2, op := 5#6, d := 0#5, a := 0#5, b := 0#5, lo := 0#4 ++ g }
  | .cpf a l e g => some { cls := 3#2, op := 6#6, d := 0#5, a := a, b := l, lo := 0#2 ++ e ++ g }
  | .cfence g => some { cls := 3#2, op := 7#6, d := 0#5, a := 0#5, b := 0#5, lo := 0#4 ++ g }
  | _ => none

/-- A syllable's word with its P bit. -/
def encodeSyl (p : Bool) (i : Instr) : Option (BitVec 32) :=
  match encodeFields i with
  | some f => some (f.word p)
  | none => none

/-- An operand word (R97). -/
def encodeOperand : LaunchOp → Word
  | .inp lb => 1#4 ++ 0#52 ++ lb
  | .out lb => 2#4 ++ 0#52 ++ lb
  | .sreg t => 3#4 ++ t ++ 0#56
  | .simm i => 4#4 ++ i
  | .raw t len => 5#4 ++ t ++ 0#16 ++ len
  | .after t => 6#4 ++ t ++ 0#56

/-- The fields of a T-op's header word (R96, R97). -/
def encodeTopFields : Instr → Option TFields
  | .tli d i => some { op := 0x01#8, d := d, a := 0, b := 0, imm := i }
  | .tadd d a b => some { op := 0x02#8, d := d, a := a, b := b, imm := 0 }
  | .taddi d a i => some { op := 0x03#8, d := d, a := a, b := 0, imm := i }
  | .tsub d a b => some { op := 0x04#8, d := d, a := a, b := b, imm := 0 }
  | .tmul d a b => some { op := 0x05#8, d := d, a := a, b := b, imm := 0 }
  | .tand d a b => some { op := 0x06#8, d := d, a := a, b := b, imm := 0 }
  | .tor d a b => some { op := 0x07#8, d := d, a := a, b := b, imm := 0 }
  | .tshl d a b => some { op := 0x08#8, d := d, a := a, b := b, imm := 0 }
  | .tshr d a b => some { op := 0x09#8, d := d, a := a, b := b, imm := 0 }
  | .tld d a o => some { op := 0x10#8, d := d, a := a, b := 0, imm := o }
  | .tst a b o => some { op := 0x11#8, d := 0, a := a, b := b, imm := o }
  | .tbeq a b o => some { op := 0x18#8, d := 0, a := a, b := b, imm := o }
  | .tbne a b o => some { op := 0x19#8, d := 0, a := a, b := b, imm := o }
  | .tblt a b o => some { op := 0x1A#8, d := 0, a := a, b := b, imm := o }
  | .tbge a b o => some { op := 0x1B#8, d := 0, a := a, b := b, imm := o }
  | .tj o => some { op := 0x1C#8, d := 0, a := 0, b := 0, imm := o }
  | .tjal d o => some { op := 0x1D#8, d := d, a := 0, b := 0, imm := o }
  | .tjr a => some { op := 0x1E#8, d := 0, a := a, b := 0, imm := 0 }
  | .tbuf lb s f pl => some { op := 0x20#8, d := 0, a := 0, b := 0, imm := lb ++ s ++ f ++ pl ++ 0#23 }
  | .tbind lb a => some { op := 0x21#8, d := 0, a := a, b := 0, imm := lb ++ 0#36 }
  | .tfree lb => some { op := 0x22#8, d := 0, a := 0, b := 0, imm := lb ++ 0#36 }
  | .tlaunch h ops =>
    some (TFields.mk 0x30#8 0 h.a 0 (BitVec.ofNat 4 ops.length ++ 0#1 ++ h.gsz ++ h.lm ++ h.gc ++ h.ker))
  | .tcopy dst src => some { op := 0x31#8, d := 0, a := 0, b := 0, imm := dst ++ src ++ 0#28 }
  | .tnm a => some { op := 0x32#8, d := 0, a := a, b := 0, imm := 0 }
  | .tnmAll a => some { op := 0x32#8, d := 0, a := a, b := 0, imm := 1 }
  | .tread d lb off => some { op := 0x38#8, d := d, a := 0, b := 0, imm := lb ++ off }
  | .tsig a b => some { op := 0x3C#8, d := 0, a := a, b := b, imm := 0 }
  | .twait a b => some { op := 0x3D#8, d := 0, a := a, b := b, imm := 0 }
  | .tfence => some { op := 0x3E#8, d := 0, a := 0, b := 0, imm := 0 }
  | .tsys c => some { op := 0xF0#8, d := 0, a := 0, b := 0, imm := 0#28 ++ c }
  | .thalt => some { op := 0xFF#8, d := 0, a := 0, b := 0, imm := 0 }
  | _ => none

/-- The operand words of a T-op. -/
def encodeOperands : Instr → List Word
  | .tlaunch _ ops => ops.map encodeOperand
  | _ => []

/-- A T-op's words. -/
def encodeTop (i : Instr) : Option (List Word) :=
  match encodeTopFields i with
  | some f => some (f.word :: encodeOperands i)
  | none => none

/-- The 64 bytes of a command under its opcode (R99). -/
def nmWord (op : BitVec 8) (c : NmCmd) : BitVec 512 :=
  0#32 ++ c.k4 ++ c.k3 ++ c.k2 ++ c.k1 ++ c.k0 ++ c.aux2 ++ c.aux1 ++ c.src ++ c.dst ++ c.count ++ 0#11 ++ c.rm ++ c.g ++
    c.w ++ op

def encodeNm : Instr → Option (BitVec 512)
  | .nmFill c => some (nmWord 1 c)
  | .nmCopy c => some (nmWord 2 c)
  | .nmScale c => some (nmWord 3 c)
  | .nmAxpy c => some (nmWord 4 c)
  | .nmSgdwd c => some (nmWord 5 c)
  | .nmMomentum c => some (nmWord 6 c)
  | .nmAdamw c => some (nmWord 7 c)
  | .nmSumsq c => some (nmWord 8 c)
  | .nmCast c => some (nmWord 9 c)
  | _ => none

/-- The words of a well-formed instruction, as numbers with their widths in bits; none for an event. -/
def encode (i : Instr) : Option (List (Nat × Nat)) :=
  match encodeSyl false i with
  | some w => some [(32, w.toNat)]
  | none =>
    match encodeTop i with
    | some ws => some (ws.map (fun w => (64, w.toNat)))
    | none =>
      match encodeNm i with
      | some x => some [(512, x.toNat)]
      | none => none

end Sys2Proof
end

