-- ==== Sys2Proof/Machine/Num.lean ====
section
/-! DEFINITION. Number formats, exact values and the one rounding of every operation (R101 to R118, R122, R265). -/

namespace Sys2Proof.Machine

/-- The sixteen element formats of R101. -/
inductive Fmt where
  | raw | i8 | ui8 | i16 | ui16 | i32 | ui32 | i64 | f32 | bf16 | f16 | e4m3 | e5m2 | c4 | e8m0 | i4
  deriving DecidableEq, Repr

/-- The format a five-bit code names; codes 0x10 to 0x1F are reserved (R101). -/
def Fmt.ofCode (c : Nat) : Option Fmt :=
  match c with
  | 0 => some .raw | 1 => some .i8 | 2 => some .ui8 | 3 => some .i16 | 4 => some .ui16
  | 5 => some .i32 | 6 => some .ui32 | 7 => some .i64 | 8 => some .f32 | 9 => some .bf16
  | 10 => some .f16 | 11 => some .e4m3 | 12 => some .e5m2 | 13 => some .c4 | 14 => some .e8m0
  | 15 => some .i4 | _ => none

/-- The code of a format (R101). -/
def Fmt.code : Fmt → Nat
  | .raw => 0 | .i8 => 1 | .ui8 => 2 | .i16 => 3 | .ui16 => 4 | .i32 => 5 | .ui32 => 6 | .i64 => 7
  | .f32 => 8 | .bf16 => 9 | .f16 => 10 | .e4m3 => 11 | .e5m2 => 12 | .c4 => 13 | .e8m0 => 14 | .i4 => 15

/-- Width of an element in bits (R101); raw has none and answers 8. -/
def Fmt.width : Fmt → Nat
  | .raw => 8 | .i8 => 8 | .ui8 => 8 | .i16 => 16 | .ui16 => 16 | .i32 => 32 | .ui32 => 32 | .i64 => 64
  | .f32 => 32 | .bf16 => 16 | .f16 => 16 | .e4m3 => 8 | .e5m2 => 8 | .c4 => 4 | .e8m0 => 8 | .i4 => 4

/-- R102: the formats a vector register may hold. -/
def Fmt.isReg : Fmt → Bool
  | .raw | .c4 | .i4 => false
  | _ => true

/-- Integer formats (R104). -/
def Fmt.isInt : Fmt → Bool
  | .i8 | .ui8 | .i16 | .ui16 | .i32 | .ui32 | .i64 | .i4 => true
  | _ => false

/-- Signed integer formats (R101). -/
def Fmt.isSigned : Fmt → Bool
  | .i8 | .i16 | .i32 | .i64 | .i4 => true
  | _ => false

/-- The three formats the floating-point group computes in (R220). -/
def Fmt.isFp : Fmt → Bool
  | .f32 | .bf16 | .f16 => true
  | _ => false

/-- Binary floating-point formats (R105). -/
def Fmt.isFloat : Fmt → Bool
  | .f32 | .bf16 | .f16 | .e4m3 | .e5m2 => true
  | _ => false

/-- The register format a VTYPE.FMT value names; RWL keeps it a register format (R102), so the default is never met. -/
def Fmt.ofVtype (c : Nat) : Fmt := (Fmt.ofCode c).getD .f32

/-! ### Flags (R112) -/

abbrev Flags := BitVec 6

def flagNX : Flags := 1#6
def flagUF : Flags := 2#6
def flagOF : Flags := 4#6
def flagDZ : Flags := 8#6
def flagNV : Flags := 16#6
def flagSX : Flags := 32#6

/-! ### Rounding modes and the stochastic threshold (R108, R110) -/

inductive RMode where
  | rne | rtz | rdn | rup | sr
  deriving DecidableEq, Repr

/-- R108: codes 101 to 111 are reserved. -/
def RMode.ofCode (c : Nat) : Option RMode :=
  match c with
  | 0 => some .rne | 1 => some .rtz | 2 => some .rdn | 3 => some .rup | 4 => some .sr | _ => none

/-- The mixing function of R110. -/
def mix (seed g : BitVec 64) : BitVec 32 :=
  let h := (g.extractLsb' 0 32 ^^^ g.extractLsb' 32 32 ^^^ seed.extractLsb' 0 32) + seed.extractLsb' 32 32
  let h := h ^^^ (h >>> 16)
  let h := h * 0x7FEB352D#32
  let h := h ^^^ (h >>> 15)
  let h := h * 0x846CA68B#32
  h ^^^ (h >>> 16)

/-- One rounding's mode with the seed and global index that SR uses (R110, R111). -/
structure Rnd where
  mode : RMode
  seed : BitVec 64
  g    : BitVec 64
  deriving DecidableEq, Repr

/-- Round to nearest even, which several engines always use (R122, R265). -/
def Rnd.rne : Rnd := { mode := .rne, seed := 0, g := 0 }

/-! ### Exact values -/

/-- A value: a NaN (signalling or quiet), an infinity, or the exact number (−1)^neg × m × 2^e. -/
inductive FVal where
  | nan (sig : Bool)
  | inf (neg : Bool)
  | fin (neg : Bool) (m : Nat) (e : Int)
  deriving DecidableEq, Repr

def FVal.isNan : FVal → Bool
  | .nan _ => true
  | _ => false

def FVal.isSig : FVal → Bool
  | .nan s => s
  | _ => false

def FVal.isInf : FVal → Bool
  | .inf _ => true
  | _ => false

def FVal.isZero : FVal → Bool
  | .fin _ 0 _ => true
  | _ => false

def FVal.sign : FVal → Bool
  | .nan _ => false
  | .inf n => n
  | .fin n _ _ => n

def FVal.neg : FVal → FVal
  | .nan s => .nan s
  | .inf n => .inf (!n)
  | .fin n m e => .fin (!n) m e

/-- A finite value's signed mantissa. -/
def FVal.smant : FVal → Int
  | .fin n m _ => if n then -(m : Int) else (m : Int)
  | _ => 0

def FVal.exp : FVal → Int
  | .fin _ _ e => e
  | _ => 0

def FVal.ofInt (x : Int) : FVal := .fin (decide (x < 0)) x.natAbs 0

/-- floor(log2 m) of a nonzero m; 0 at 0. -/
def log2 (m : Nat) : Nat := Nat.log2 m

/-- floor(log2 |v|) of a finite nonzero value. -/
def FVal.lg (v : FVal) : Int :=
  match v with
  | .fin _ m e => (log2 m : Int) + e
  | _ => 0

/-! ### Exact dyadic sums -/

/-- An exact sum of finite numbers: man × 2^exp. -/
structure Dy where
  man : Int
  exp : Int
  deriving DecidableEq, Repr

def Dy.zero : Dy := { man := 0, exp := 0 }

def Dy.add (a b : Dy) : Dy :=
  if a.exp ≤ b.exp then { man := a.man + b.man * 2 ^ (b.exp - a.exp).toNat, exp := a.exp }
  else { man := a.man * 2 ^ (a.exp - b.exp).toNat + b.man, exp := b.exp }

def Dy.mul (a b : Dy) : Dy := { man := a.man * b.man, exp := a.exp + b.exp }

def Dy.ofFVal (v : FVal) : Dy := { man := v.smant, exp := v.exp }

def Dy.toFVal (d : Dy) : FVal := .fin (decide (d.man < 0)) d.man.natAbs d.exp

/-- Exact comparison of dyadics. -/
def Dy.lt (a b : Dy) : Bool :=
  if a.exp ≤ b.exp then decide (a.man < b.man * 2 ^ (b.exp - a.exp).toNat)
  else decide (a.man * 2 ^ (a.exp - b.exp).toNat < b.man)

/-! ### Rounding a magnitude to a grid -/

/-- A magnitude m × 2^e, with `sticky` saying that the exact value lies strictly above it by less than one unit of
its last place (used for quotients, roots and the irrational functions). -/
structure Mag where
  m : Nat
  e : Int
  sticky : Bool
  deriving DecidableEq, Repr

/-- The integer part of a magnitude in units of 2^q, whether the rounding raises it, and whether it is inexact. -/
def Mag.at (x : Mag) (neg : Bool) (r : Rnd) (q : Int) : Nat × Bool :=
  if q ≤ x.e then
    let n := x.m * 2 ^ (x.e - q).toNat
    let up := match r.mode with
      | .rdn => neg && x.sticky
      | .rup => !neg && x.sticky
      | _ => false
    (if up then n + 1 else n, x.sticky)
  else
    let k := (q - x.e).toNat
    let n := x.m / 2 ^ k
    let rem := x.m % 2 ^ k
    let inexact := decide (rem ≠ 0) || x.sticky
    let half := 2 ^ (k - 1)
    let up := match r.mode with
      | .rne => decide (half < rem) || (decide (rem = half) && (x.sticky || decide (n % 2 = 1)))
      | .rtz => false
      | .rdn => neg && inexact
      | .rup => !neg && inexact
      | .sr => decide ((mix r.seed r.g).toNat < rem * 2 ^ 32 / 2 ^ k)
    (if up then n + 1 else n, inexact)

/-! ### Float formats -/

/-- The layout of a floating-point format (R105): fraction width, bias, exponent width. -/
structure FF where
  mb : Nat
  eb : Nat
  bias : Int
  hasInf : Bool
  deriving DecidableEq, Repr

def ffF32 : FF := { mb := 23, eb := 8, bias := 127, hasInf := true }
def ffBf16 : FF := { mb := 7, eb := 8, bias := 127, hasInf := true }
def ffF16 : FF := { mb := 10, eb := 5, bias := 15, hasInf := true }
def ffE4m3 : FF := { mb := 3, eb := 4, bias := 7, hasInf := false }
def ffE5m2 : FF := { mb := 2, eb := 5, bias := 15, hasInf := true }

def Fmt.ff : Fmt → FF
  | .bf16 => ffBf16 | .f16 => ffF16 | .e4m3 => ffE4m3 | .e5m2 => ffE5m2 | _ => ffF32

/-- Canonical NaN of each format (R107). -/
def FF.canonNan (f : FF) : Nat :=
  if f.hasInf then (2 ^ f.eb - 1) * 2 ^ f.mb + 2 ^ (f.mb - 1) else 0x7F

def FF.signBit (f : FF) : Nat := 2 ^ (f.mb + f.eb)

/-- The largest finite magnitude's bits (R105). -/
def FF.maxBits (f : FF) : Nat :=
  if f.hasInf then (2 ^ f.eb - 1) * 2 ^ f.mb - 1 else 0x7E

def FF.infBits (f : FF) : Nat := (2 ^ f.eb - 1) * 2 ^ f.mb

/-- Exponent of the smallest normal (R105). -/
def FF.emin (f : FF) : Int := 1 - f.bias

/-- Decoding of a pattern (R105). -/
def FF.decode (f : FF) (x : Nat) : FVal :=
  let neg := decide (x / f.signBit % 2 = 1)
  let ex := x / 2 ^ f.mb % 2 ^ f.eb
  let fr := x % 2 ^ f.mb
  if ex = 2 ^ f.eb - 1 ∧ f.hasInf then
    if fr = 0 then .inf neg else .nan (decide (fr / 2 ^ (f.mb - 1) = 0))
  else if ex = 2 ^ f.eb - 1 ∧ fr = 2 ^ f.mb - 1 then .nan false
  else if ex = 0 then .fin neg fr (f.emin - f.mb)
  else .fin neg (2 ^ f.mb + fr) ((ex : Int) - f.bias - f.mb)

/-- R109: the result of an overflow. -/
def FF.overflow (f : FF) (neg : Bool) (r : RMode) : Nat :=
  let s := if neg then f.signBit else 0
  if f.hasInf then
    match r with
    | .rtz => s + f.maxBits
    | .rdn => if neg then s + f.infBits else f.maxBits
    | .rup => if neg then s + f.maxBits else f.infBits
    | _ => s + f.infBits
  else s + f.maxBits

/-- R109: one rounding of an exact nonzero magnitude, tininess detected after rounding with an unbounded exponent. -/
def FF.roundMag (f : FF) (neg : Bool) (x : Mag) (r : Rnd) : Nat × Flags :=
  let s := if neg then f.signBit else 0
  let l := (log2 x.m : Int) + x.e
  let u := x.at neg r (l - f.mb)
  let lu := if u.1 = 2 ^ (f.mb + 1) then l + 1 else l
  if lu < f.emin then
    let t := x.at neg r (f.emin - f.mb)
    (s + t.1, if t.2 then flagUF ||| flagNX else 0)
  else
    let man := if u.1 = 2 ^ (f.mb + 1) then 2 ^ f.mb else u.1
    let bits := (lu + f.bias).toNat * 2 ^ f.mb + (man - 2 ^ f.mb)
    if f.maxBits < bits then (f.overflow neg r.mode, flagOF ||| flagNX)
    else (s + bits, if u.2 then flagNX else 0)

/-- Encoding of a value into a float format: one rounding (R109, R114). ±∞ into e4m3 gives ±448 with OF and NX. -/
def FF.encode (f : FF) (v : FVal) (r : Rnd) : Nat × Flags :=
  match v with
  | .nan _ => (f.canonNan, 0)
  | .inf neg =>
    let s := if neg then f.signBit else 0
    if f.hasInf then (s + f.infBits, 0) else (s + f.maxBits, flagOF ||| flagNX)
  | .fin neg 0 _ => (if neg then f.signBit else 0, 0)
  | .fin neg m e => f.roundMag neg { m := m, e := e, sticky := false } r

/-! ### Exact floating-point operations -/

/-- The flag a signalling NaN operand raises (R113). -/
def sigFlag (v : FVal) : Flags := if v.isSig then flagNV else 0

/-- R109: an exact zero sum of operands of opposite sign is +0, −0 under RDN; equal signs keep theirs. -/
def zeroSum (sa sb : Bool) (r : RMode) : FVal :=
  if sa = sb then .fin sa 0 0 else .fin (decide (r = .rdn)) 0 0

/-- Exact a + b (R224). -/
def FVal.add (a b : FVal) (r : RMode) : FVal × Flags :=
  let sf := sigFlag a ||| sigFlag b
  match a, b with
  | .nan _, _ => (.nan false, sf)
  | _, .nan _ => (.nan false, sf)
  | .inf x, .inf y => if x = y then (.inf x, 0) else (.nan false, flagNV)
  | .inf x, _ => (.inf x, 0)
  | _, .inf y => (.inf y, 0)
  | .fin sa _ _, .fin sb _ _ =>
    let d := (Dy.ofFVal a).add (Dy.ofFVal b)
    if d.man = 0 then
      (if a.isZero && b.isZero then zeroSum sa sb r else zeroSum true false r, 0)
    else (d.toFVal, 0)

/-- Exact a × b (R224). -/
def FVal.mul (a b : FVal) : FVal × Flags :=
  let sf := sigFlag a ||| sigFlag b
  match a, b with
  | .nan _, _ => (.nan false, sf)
  | _, .nan _ => (.nan false, sf)
  | .inf x, .inf y => (.inf (x != y), 0)
  | .inf x, .fin y m _ => if m = 0 then (.nan false, flagNV) else (.inf (x != y), 0)
  | .fin x m _, .inf y => if m = 0 then (.nan false, flagNV) else (.inf (x != y), 0)
  | .fin x m e, .fin y n f => (.fin (x != y) (m * n) (e + f), 0)

/-- Bits of precision kept below a quotient's or root's result, enough for any format and for the 32 bits of SR. -/
def guardBits : Nat := 192

/-- The rounding of a / b for an exact finite numerator a and a finite nonzero divisor (R224, R270). -/
def roundQuot (f : FF) (na : Bool) (ma : Nat) (ea : Int) (nb : Bool) (mb : Nat) (eb : Int) (r : Rnd) : Nat × Flags :=
  let neg := na != nb
  if ma = 0 then (if neg then f.signBit else 0, 0)
  else
    let k := guardBits + log2 mb
    let q := ma * 2 ^ k / mb
    let rem := ma * 2 ^ k % mb
    f.roundMag neg { m := q, e := ea - eb - k, sticky := decide (rem ≠ 0) } r

/-- vfdiv (R224). -/
def FF.div (f : FF) (a b : FVal) (r : Rnd) : Nat × Flags :=
  let sf := sigFlag a ||| sigFlag b
  match a, b with
  | .nan _, _ => (f.canonNan, sf)
  | _, .nan _ => (f.canonNan, sf)
  | .inf _, .inf _ => (f.canonNan, flagNV)
  | .inf x, .fin y _ _ => f.encode (.inf (x != y)) r
  | .fin x _ _, .inf y => (if x != y then f.signBit else 0, 0)
  | .fin x m e, .fin y n g =>
    if n = 0 then
      if m = 0 then (f.canonNan, flagNV) else ((f.encode (.inf (x != y)) r).1, flagDZ)
    else roundQuot f x m e y n g r

/-- Integer square root by digits, from the top bit of `fuel` pairs: the largest x with x² ≤ n. -/
def isqrtAux (n : Nat) : Nat → Nat → Nat
  | 0, acc => acc
  | k + 1, acc =>
    let c := acc + 2 ^ k
    if c * c ≤ n then isqrtAux n k c else isqrtAux n k acc

def isqrt (n : Nat) : Nat := isqrtAux n (log2 n / 2 + 1) 0

/-- vfsqrt (R225). -/
def FF.sqrt (f : FF) (a : FVal) (r : Rnd) : Nat × Flags :=
  match a with
  | .nan s => (f.canonNan, if s then flagNV else 0)
  | .inf neg => if neg then (f.canonNan, flagNV) else f.encode (.inf false) r
  | .fin neg m e =>
    if m = 0 then (if neg then f.signBit else 0, 0)
    else if neg then (f.canonNan, flagNV)
    else
      let m' := if e % 2 = 0 then m else 2 * m
      let e' := if e % 2 = 0 then e else e - 1
      let n := m' * 2 ^ (2 * guardBits)
      let s := isqrt n
      f.roundMag false { m := s, e := e' / 2 - guardBits, sticky := decide (s * s ≠ n) } r

/-- vfrcp (R225): a power of two is exact. -/
def FF.rcp (f : FF) (a : FVal) (r : Rnd) : Nat × Flags :=
  match a with
  | .nan s => (f.canonNan, if s then flagNV else 0)
  | .inf neg => (if neg then f.signBit else 0, 0)
  | .fin neg m e =>
    if m = 0 then ((f.encode (.inf neg) r).1, flagDZ)
    else roundQuot f false 1 0 neg m e r

/-- vfrsq (R225). -/
def FF.rsq (f : FF) (a : FVal) (r : Rnd) : Nat × Flags :=
  match a with
  | .nan s => (f.canonNan, if s then flagNV else 0)
  | .inf neg => if neg then (f.canonNan, flagNV) else (0, 0)
  | .fin neg m e =>
    if m = 0 then ((f.encode (.inf neg) r).1, flagDZ)
    else if neg then (f.canonNan, flagNV)
    else
      let m' := if e % 2 = 0 then m else 2 * m
      let e' := if e % 2 = 0 then e else e - 1
      let k := guardBits + log2 m'
      let s := isqrt (2 ^ (2 * k) / m')
      f.roundMag false { m := s, e := -(e' / 2) - k, sticky := decide (s * s * m' ≠ 2 ^ (2 * k)) } r

/-! ### The two irrational functions (R225), by fixed-point series of `serBits` bits -/

/-- Log 34 (UNVERIFIED, unsafe). -/
def serBits : Nat := 256

/-- ln 2 in units of 2^−serBits: 2 × Σ (1/3)^(2j+1)/(2j+1), as `atanhAux` sums it. -/
def atanhAux (z2 : Nat) : Nat → Nat → Nat → Nat → Nat
  | 0, _, _, acc => acc
  | n + 1, t, k, acc => atanhAux z2 n (t * z2 / 2 ^ serBits) (k + 2) (acc + t / k)

/-- atanh(z) in units of 2^−serBits, z ≤ 1/3 in the same units. -/
def atanhFix (z : Nat) : Nat := atanhAux (z * z / 2 ^ serBits) 90 z 1 0

def ln2Fix : Nat := 2 * atanhFix (2 ^ serBits / 3)

/-- exp(y) by its series, y in units of 2^−serBits. -/
def expAux (y : Nat) : Nat → Nat → Nat → Nat → Nat
  | 0, _, _, acc => acc
  | n + 1, t, k, acc => expAux y n (t * y / 2 ^ serBits / k) (k + 1) (acc + t)

/-- 2^x of a fraction x in units of 2^−serBits. -/
def exp2Fix (x : Nat) : Nat := expAux (x * ln2Fix / 2 ^ serBits) 70 (2 ^ serBits) 1 0

/-- vfexp2 (R225): 2^x rounded once; exact at integers. Log 34 (UNVERIFIED, unsafe). -/
def FF.exp2 (f : FF) (a : FVal) (r : Rnd) : Nat × Flags :=
  match a with
  | .nan s => (f.canonNan, if s then flagNV else 0)
  | .inf neg => if neg then (0, 0) else f.encode (.inf false) r
  | .fin neg m e =>
    if m = 0 then f.encode (.fin false 1 0) r
    else if 12 < (log2 m : Int) + e then
      -- far outside every format's range: any magnitude beyond it rounds alike
      f.roundMag false { m := 1, e := if neg then -4096 else 4096, sticky := true } r
    else
      let fx : Int := if 0 ≤ e then (m : Int) * 2 ^ e.toNat * 2 ^ serBits
                      else (m : Int) * 2 ^ serBits / 2 ^ (-e).toNat
      let x := if neg then -fx else fx
      let n := x / 2 ^ serBits
      let fr := (x % 2 ^ serBits).toNat
      if fr = 0 then f.roundMag false { m := 1, e := n, sticky := false } r
      else f.roundMag false { m := exp2Fix fr, e := n - serBits, sticky := true } r

/-- vflog2 (R225): exact at powers of two; log2 1 = +0. Log 34 (UNVERIFIED, unsafe). -/
def FF.log2 (f : FF) (a : FVal) (r : Rnd) : Nat × Flags :=
  match a with
  | .nan s => (f.canonNan, if s then flagNV else 0)
  | .inf neg => if neg then (f.canonNan, flagNV) else f.encode (.inf false) r
  | .fin neg m e =>
    if m = 0 then ((f.encode (.inf true) r).1, flagDZ)
    else if neg then (f.canonNan, flagNV)
    else
      let l := Machine.log2 m
      let k : Int := (l : Int) + e
      if m = 2 ^ l then f.encode (FVal.ofInt k) r
      else
        -- log2 y for y = m / 2^l in (1, 2): 2 atanh((y−1)/(y+1)) / ln 2
        let z := (m - 2 ^ l) * 2 ^ serBits / (m + 2 ^ l)
        let ly := 2 * atanhFix z * 2 ^ serBits / ln2Fix
        let v : Int := k * 2 ^ serBits + ly
        f.roundMag (decide (v < 0)) { m := if v < 0 then v.natAbs - 1 else v.natAbs, e := -serBits, sticky := true } r

/-! ### Fused operations -/

/-- R224: ±(a × b) ± c, exact, then one rounding by the caller. -/
def FVal.fma (a b c : FVal) (negP negC : Bool) (r : RMode) : FVal × Flags :=
  let p := a.mul b
  let p' := if negP then p.1.neg else p.1
  let c' := if negC then c.neg else c
  if p.2 ≠ 0 then (.nan false, p.2 ||| sigFlag c)
  else
    let s := p'.add c' r
    (s.1, s.2 ||| sigFlag a ||| sigFlag b ||| sigFlag c)

/-- Rounds an exact result and joins its flags. -/
def FF.finish (f : FF) (v : FVal × Flags) (r : Rnd) : Nat × Flags :=
  let e := f.encode v.1 r
  (e.1, v.2 ||| e.2)

/-- Order on values that are not NaN, with −0 below +0 (R226). -/
def FVal.ltTotal (a b : FVal) : Bool :=
  match a, b with
  | .nan _, _ => false
  | _, .nan _ => false
  | .inf x, .inf y => x && !y
  | .inf x, _ => x
  | _, .inf y => !y
  | .fin x m _, .fin y n _ =>
    if m = 0 ∧ n = 0 then x && !y else (Dy.ofFVal a).lt (Dy.ofFVal b)

/-- Numeric less-than (−0 = +0), false with a NaN (R229). -/
def FVal.lt (a b : FVal) : Bool :=
  match a, b with
  | .fin _ 0 _, .fin _ 0 _ => false
  | _, _ => a.ltTotal b

def FVal.eq (a b : FVal) : Bool := !a.isNan && !b.isNan && !a.lt b && !b.lt a

/-- R226: vfmin and vfmax over bit patterns of one format. -/
def FF.minmax (f : FF) (mx : Bool) (x y : Nat) : Nat × Flags :=
  let a := f.decode x
  let b := f.decode y
  let fl := sigFlag a ||| sigFlag b
  if a.isNan && b.isNan then (f.canonNan, fl)
  else if a.isNan then (y, fl)
  else if b.isNan then (x, fl)
  else if mx then (if a.ltTotal b then y else x, fl) else (if b.ltTotal a then y else x, fl)

/-- R227: the class bit of a pattern. -/
def FF.classBit (f : FF) (x : Nat) : Nat :=
  match f.decode x with
  | .nan s => if s then 2 ^ 8 else 2 ^ 9
  | .inf n => if n then 2 ^ 0 else 2 ^ 7
  | .fin n m _ =>
    if m = 0 then (if n then 2 ^ 3 else 2 ^ 4)
    else if x / 2 ^ f.mb % 2 ^ f.eb = 0 then (if n then 2 ^ 2 else 2 ^ 5)
    else (if n then 2 ^ 1 else 2 ^ 6)

/-! ### Integers (R104) -/

/-- A w-bit pattern read as two's complement. -/
def toSigned (w x : Nat) : Int :=
  if x % 2 ^ w < 2 ^ (w - 1) then (x % 2 ^ w : Nat) else (x % 2 ^ w : Nat) - (2 ^ w : Nat)

/-- An exact integer kept modulo 2^w. -/
def toUnsigned (w : Nat) (x : Int) : Nat := (x % (2 ^ w : Nat)).toNat

/-- R104: sat_F over the signed or unsigned w-bit range, with SX when the clamp changes the value. -/
def satInt (signed : Bool) (w : Nat) (x : Int) : Int × Bool :=
  let lo : Int := if signed then -(2 ^ (w - 1) : Nat) else 0
  let hi : Int := if signed then (2 ^ (w - 1) : Nat) - 1 else (2 ^ w : Nat) - 1
  if x < lo then (lo, true) else if hi < x then (hi, true) else (x, false)

/-- The clamp of R104 as bits with its flag. -/
def satBits (signed : Bool) (w : Nat) (x : Int) : Nat × Flags :=
  let s := satInt signed w x
  (toUnsigned w s.1, if s.2 then flagSX else 0)

/-- An integer-format pattern's value. -/
def Fmt.intVal (f : Fmt) (x : Nat) : Int :=
  if f.isSigned then toSigned f.width x else (x % 2 ^ f.width : Nat)

/-! ### Conversions (R114) -/

/-- Float → integer: rounded under the mode, then clamped; NV alone for NaN, infinity or a changed clamp. -/
def floatToInt (v : FVal) (signed : Bool) (w : Nat) (r : Rnd) : Nat × Flags :=
  match v with
  | .nan _ => (0, flagNV)
  | .inf neg =>
    let s := satInt signed w (if neg then -(2 ^ 70 : Nat) else (2 ^ 70 : Nat))
    (toUnsigned w s.1, flagNV)
  | .fin neg m e =>
    let t := if m = 0 then (0, false) else ({ m := m, e := e, sticky := false } : Mag).at neg r 0
    let x : Int := if neg then -(t.1 : Int) else t.1
    let s := satInt signed w x
    (toUnsigned w s.1, if s.2 then flagNV else if t.2 then flagNX else 0)

/-- Float → e8m0 (R114). Log 60 (DEDUCED, unsafe). -/
def toE8m0 (v : FVal) : Nat × Flags :=
  match v with
  | .nan _ => (0xFF, flagNV)
  | .inf _ => (0xFF, flagNV)
  | .fin neg m e =>
    if m = 0 ∨ neg then (0xFF, flagNV)
    else
      let l := (log2 m : Int) + e
      if 127 < l then (254, flagOF ||| flagNX)
      else if l < -127 then (0, flagUF ||| flagNX)
      else ((l + 127).toNat, if m = 2 ^ log2 m then 0 else flagNX)

/-- e8m0 → exact value (R106). -/
def fromE8m0 (x : Nat) : FVal := if x % 256 = 255 then .nan false else .fin false 1 ((x % 256 : Nat) - 127)

/-- The exact value of a pattern in any register or codebook-free format. -/
def Fmt.val (f : Fmt) (x : Nat) : FVal :=
  match f with
  | .e8m0 => fromE8m0 x
  | .f32 | .bf16 | .f16 | .e4m3 | .e5m2 => f.ff.decode x
  | _ => FVal.ofInt (f.intVal x)

/-- Encodes an exact value into a format under R114, the flags being those of the one rounding or clamp. -/
def Fmt.enc (f : Fmt) (v : FVal) (r : Rnd) : Nat × Flags :=
  match f with
  | .e8m0 => toE8m0 v
  | .f32 | .bf16 | .f16 | .e4m3 | .e5m2 => f.ff.encode v r
  | _ => floatToInt v f.isSigned f.width r

/-- R114: conversion of a pattern between formats. A signalling NaN operand raises NV (R113). Log 60 (DEDUCED, unsafe). -/
def convert (src dst : Fmt) (x : Nat) (r : Rnd) : Nat × Flags :=
  if src = dst then
    match src.val x with
    | .nan s => if src.isFloat then (dst.ff.canonNan, if s then flagNV else 0) else (x, 0)
    | _ => (x, 0)
  else if src.isInt && dst.isInt then satBits dst.isSigned dst.width (src.intVal x)
  else
    let v := src.val x
    let e := dst.enc v r
    (e.1, e.2 ||| (if dst.isFloat then sigFlag v else 0))

/-- The E2M1 preset's bf16 entries in code order (R116). -/
def e2m1Entry (c : Nat) : Nat :=
  let mag := match c % 8 with
    | 0 => 0x0000 | 1 => 0x3F00 | 2 => 0x3F80 | 3 => 0x3FC0 | 4 => 0x4000 | 5 => 0x4040 | 6 => 0x4080 | _ => 0x40C0
  if c % 16 < 8 then mag else mag + 0x8000

/-! ### Block scales (R117, R118) -/

/-- x × 2^k, exactly. -/
def FVal.scale (v : FVal) (k : Int) : FVal :=
  match v with
  | .fin n m e => .fin n m (e + k)
  | w => w

/-- The exponent of a format's largest normal value, for R118 step 3; for c4, from the codebook entries. -/
def emaxOf (f : Fmt) (cb : Nat → Nat) : Int :=
  match f with
  | .e4m3 => 8
  | .e5m2 => 15
  | _ =>
    (List.range 16).foldl (fun (a : Int) c =>
      match ffBf16.decode (cb c) with
      | .fin _ m e => if m = 0 then a else max a ((log2 m : Int) + e)
      | _ => a) (-200)

/-- Distance between two finite values, exactly. -/
def Dy.dist (a b : Dy) : Dy :=
  let d := a.add { man := -b.man, exp := b.exp }
  { d with man := d.man.natAbs }

/-- The code of the non-NaN codebook entry nearest to v, the lowest on a tie (R118 step 4); infinite entries are
never nearest to a finite value. Where no entry is finite the manual names no code, and `fv` stands for it. -/
def nearestCode (v : FVal) (cb : Nat → Nat) (fv : Nat) : Nat :=
  let step := fun (best : Option (Nat × Dy)) c =>
    match ffBf16.decode (cb c) with
    | .fin n m e =>
      let d := (Dy.ofFVal v).dist (Dy.ofFVal (.fin n m e))
      match best with
      | none => some (c, d)
      | some (b, bd) => if d.lt bd then some (c, d) else some (b, bd)
    | _ => best
  match (List.range 16).foldl step none with
  | some (c, _) => c
  | none => fv % 16

/-- Whether a codebook has a finite entry other than zero. -/
def cbHasFinite (cb : Nat → Nat) : Bool :=
  (List.range 16).any (fun c => match ffBf16.decode (cb c) with | .fin _ m _ => decide (m ≠ 0) | _ => false)

/-- The shared scale byte of a block (R118 steps 1 to 3), with NV in case 1. For c4 data and a codebook with no finite
entry other than zero the manual gives no exponent, and `fv` stands for the byte. -/
def blockScale (f : Fmt) (cb : Nat → Nat) (xs : List FVal) (fv : Nat) : Nat × Flags :=
  if xs.any (fun v => v.isNan || v.isInf) then (0xFF, flagNV)
  else if xs.all FVal.isZero then (0, 0)
  else if decide (f = .c4) && !cbHasFinite cb then (fv % 256, 0)
  else
    let lg := xs.foldl (fun (a : Option Int) v =>
      if v.isZero then a else some (match a with | none => v.lg | some b => max b v.lg)) none
    let e := lg.getD 0 - emaxOf f cb
    let e := if e < -127 then -127 else if 127 < e then 127 else e
    ((e + 127).toNat, 0)

/-- One element of a block under its scale byte (R118 step 4): e4m3 and e5m2 saturate to the largest finite. Log 73
(DEDUCED, unsafe). Log 99 (DESIGN CHOICE, unsafe). -/
def blockElem (f : Fmt) (cb : Nat → Nat) (scale : Nat) (v : FVal) (r : Rnd) (fv : Nat) : Nat × Flags :=
  if scale = 0xFF then
    match f with
    | .c4 => (nearestCode (.fin false 0 0) cb fv, 0)
    | _ => (0, 0)
  else
    let u := v.scale (127 - (scale : Int))
    match f with
    | .c4 =>
      let c := nearestCode u cb fv
      let d := ffBf16.decode (cb c)
      (c, if d.eq u then 0 else flagNX)
    | _ =>
      let e := f.ff.encode u r
      let sat := decide (e.2 &&& flagOF ≠ 0)
      (if sat then (if u.sign then f.ff.signBit else 0) + f.ff.maxBits else e.1, e.2 &&& ~~~flagUF)

/-- A whole block encoded (R118): the scale byte, the element codes, the flags. Log 5 (DESIGN CHOICE, safe). -/
def encodeBlock (f : Fmt) (cb : Nat → Nat) (xs : List (FVal × Rnd)) (fv : Nat) : Nat × List Nat × Flags :=
  let sc := blockScale f cb (xs.map Prod.fst) fv
  if sc.1 = 0xFF ∨ xs.all (fun x => x.1.isZero) then
    (sc.1, xs.map (fun _ => (blockElem f cb 0xFF (.fin false 0 0) Rnd.rne fv).1), sc.2)
  else
    let rs := xs.map (fun x => blockElem f cb sc.1 x.1 x.2 fv)
    (sc.1, rs.map Prod.fst, rs.foldl (fun (a : Flags) r => a ||| r.2) sc.2)

/-! ### Sums of many terms rounded once (R122, R237) -/

/-- The collected terms of an exact sum: finite part, and what special terms were met. -/
structure Terms where
  sum : Dy
  nan : Bool
  sig : Bool
  pinf : Bool
  ninf : Bool
  count : Nat
  allNegZero : Bool
  deriving DecidableEq, Repr

def Terms.none : Terms :=
  { sum := Dy.zero, nan := false, sig := false, pinf := false, ninf := false, count := 0, allNegZero := true }

def Terms.push (t : Terms) (v : FVal) : Terms :=
  let z := match v with | .fin true 0 _ => true | _ => false
  let t := { t with count := t.count + 1, allNegZero := t.allNegZero && z }
  match v with
  | .nan s => { t with nan := true, sig := t.sig || s }
  | .inf n => if n then { t with ninf := true } else { t with pinf := true }
  | .fin _ _ _ => { t with sum := t.sum.add (Dy.ofFVal v) }

/-- R237: the one rounding of a fsum. Log 112 (DESIGN CHOICE, unsafe). -/
def Terms.fsum (t : Terms) (f : FF) (r : Rnd) : Nat × Flags :=
  let sf : Flags := if t.sig then flagNV else 0
  if t.nan then (f.canonNan, sf)
  else if t.pinf && t.ninf then (f.canonNan, flagNV)
  else if t.pinf then f.encode (.inf false) r
  else if t.ninf then f.encode (.inf true) r
  else if t.count = 0 then (0, 0)
  else if t.sum.man = 0 then
    (if t.allNegZero || decide (r.mode = .rdn) then f.signBit else 0, 0)
  else f.encode t.sum.toFVal r

/-- One product of a matrix group with the flags and specials R122 gives it. -/
def Terms.pushProduct (t : Terms) (a b : FVal) : Terms × Flags :=
  let p := a.mul b
  (t.push p.1, p.2)

end Sys2Proof.Machine
end

