-- ==== Sys2Proof/Config.lean ====
section
/-! DEFINITION. What the S9 fixes (R1 to R8, R18 to R21) and the values the manual leaves open, which no proof can see. -/

namespace Sys2Proof.Config

/-- R2: cores in total. -/
def cores : Nat := 320
/-- R2: team slots per core. -/
def slotsPerCore : Nat := 2
/-- R2: team slots in total; team key 2 × core + slot. -/
def teams : Nat := 640
/-- R2: clusters. -/
def clusters : Nat := 40
/-- R2: series pairs. -/
def pairs : Nat := 20
/-- R12: stream slots. -/
def streamSlots : Nat := 32
/-- R6: local memory of a core in bytes. -/
def lmBytes : Nat := 3145728
/-- R20: depth of a VIQ. -/
def viqDepth : Nat := 32
/-- R20: depth of a matrix queue. -/
def mqDepth : Nat := 64
/-- R20: entries of one copy engine's queue that one slot may hold. -/
def cqDepth : Nat := 8
/-- R20: entries of one copy engine's queue. -/
def ceDepth : Nat := 16
/-- R256: lines a link set holds. -/
def linkLines : Nat := 64
/-- R6: lines of a 256 KiB L1 of 64-byte lines. -/
def l1Lines : Nat := 4096
/-- R12: entries of a task window. -/
def windowDepth : Nat := 64
/-- R41: physical-buffer descriptors of a partition. -/
def descriptors : Nat := 16384
/-- R41: entries of a partition's knot binding table. -/
def knotEntries : Nat := 65536

/-- A value the manual does not state, fresh for each number it is asked for: nothing constrains it. Log 5 (DESIGN CHOICE,
safe). -/
opaque freeValue : Nat → BitVec 64

/-- Whether a debugger session is attached to a context through the management port (R419). Log 9 (DESIGN CHOICE, safe). -/
opaque debuggerAttached : Nat → Bool

/-- TVEC of the bind records of a partition (R131, R364): where the resident OS keeps its handler. Log 8 (DESIGN CHOICE,
safe). -/
opaque handlerVec : Nat → BitVec 64
/-- HDATA of a team slot's bind records (R156, R364). Log 8 (DESIGN CHOICE, safe). -/
opaque handlerData : Nat → BitVec 64
/-- ARGP of a team slot's bind records (R364): a hub-die address no program reads. Log 8 (DESIGN CHOICE, safe). -/
opaque argBlock : Nat → BitVec 64

/-! The manifest of an application image and the import and export tables of a code object hold what R186 and R191 name; their
layouts are not stated. -/

/-- The SV a manifest carries. Log 90 (DESIGN CHOICE, safe). -/
opaque manifestSv : List Byte → BitVec 16
/-- The SHA-384 digests it lists, one for each code object in order. Log 90 (DESIGN CHOICE, safe). -/
opaque manifestDigests : List Byte → List Nat
/-- Its kernel index table: the object and the entry of that object's kernel table for each kernel index. Log 90 (DESIGN
CHOICE, safe). -/
opaque manifestKernels : List Byte → List (Nat × Nat)
/-- Its stream programs. Log 90 (DESIGN CHOICE, safe). -/
opaque manifestPrograms : List Byte → List (List Byte)
/-- The export that import record j of an import table names. Log 90 (DESIGN CHOICE, safe). -/
opaque importName : List Byte → Nat → Nat
/-- The exports of an export table: what import records name, and the offset from the object base. Log 90 (DESIGN CHOICE,
safe). -/
opaque exportsOf : List Byte → List (Nat × Nat)

/-- What a word of BAR0 holds (R397). -/
inductive Bar0 where
  | fuseCount | freeze | round (i word : Nat) | partition | other
  deriving DecidableEq, Repr, Inhabited

/-- Where BAR0 holds its registers, by word; their offsets are not stated. Log 91 (DESIGN CHOICE, safe). -/
opaque bar0At : Nat → Bar0

end Sys2Proof.Config
end

