-- ==== Sys2Proof/Machine/Map.lean ====
section
/-! DEFINITION. Sparse maps from natural keys, kept sorted by key with no repeats: the form in which State holds
memory (R45, R173) and every other large store. -/

namespace Sys2Proof.Machine

variable {α : Type}

/-- The value listed at key k. -/
def find? : List (Nat × α) → Nat → Option α
  | [], _ => none
  | (j, v) :: r, k => if k = j then some v else if k < j then none else find? r k

/-- The value at key k, an unlisted key reading as d. -/
def look (d : α) (m : List (Nat × α)) (k : Nat) : α :=
  match find? m k with
  | some v => v
  | none => d

/-- Lists v at key k, in order. -/
def put : List (Nat × α) → Nat → α → List (Nat × α)
  | [], k, v => [(k, v)]
  | (j, w) :: r, k, v =>
    if k < j then (k, v) :: (j, w) :: r
    else if k = j then (k, v) :: r
    else (j, w) :: put r k v

/-- Removes key k. -/
def drop : List (Nat × α) → Nat → List (Nat × α)
  | [], _ => []
  | (j, w) :: r, k =>
    if k < j then (j, w) :: r
    else if k = j then r
    else (j, w) :: drop r k

/-- Writes v at key k in the canonical form: writing what an unlisted key reads as removes the entry. Log 4 (DESIGN CHOICE,
safe). -/
def store [DecidableEq α] (d : α) (m : List (Nat × α)) (k : Nat) (v : α) : List (Nat × α) :=
  if v = d then drop m k else put m k v

/-- Removes every key from lo up to, not including, hi. -/
def dropRange : List (Nat × α) → Nat → Nat → List (Nat × α)
  | [], _, _ => []
  | (j, w) :: r, lo, hi => if lo ≤ j ∧ j < hi then dropRange r lo hi else (j, w) :: dropRange r lo hi

/-- The listed keys rise strictly. -/
def rising : List (Nat × α) → Bool
  | [] => true
  | [_] => true
  | (j, _) :: (k, w) :: r => decide (j < k) && rising ((k, w) :: r)

/-- The canonical form: keys strictly rising and no entry equal to what an unlisted key reads as. Log 4 (DESIGN CHOICE,
safe). -/
def canonical [DecidableEq α] (d : α) (m : List (Nat × α)) : Bool :=
  rising m && m.all (fun e => decide (e.2 ≠ d))

/-! ### Bytes -/

/-- n consecutive bytes read by f from address a, little-endian (R103). -/
def readLE (f : Nat → Byte) : Nat → Nat → Nat
  | _, 0 => 0
  | a, n + 1 => (f a).toNat + 256 * readLE f (a + 1) n

/-- Stores the low n bytes of x at a, little-endian, in a canonical byte map whose unlisted bytes read 0. -/
def storeLE : List Host.Cell → Nat → Nat → Nat → List Host.Cell
  | m, _, 0, _ => m
  | m, a, n + 1, x => storeLE (store 0#8 m a (BitVec.ofNat 8 x)) (a + 1) n (x / 256)

end Sys2Proof.Machine
end

