-- ==== Sys2Proof/Machine/TeamState.lean ====
section
/-! DEFINITION. The architectural state of a team slot, a core and a cluster (R16 to R19, R34 to R36, R123 to R131,
R159, R166, R197 to R215, R256, R262, R274, R364). Plain data. -/

namespace Sys2Proof.Machine

/-- Trap causes (R155). -/
inductive Cause where
  | illegal | bundleForm | misalign | lmalign | lmrange | pageLoad | pageStore | protection | format
  | breakpoint | syscall | ueConsumed | mirrorMismatch | matrixInHandler | preempt | watchdog | powerKill | taskFault
  deriving DecidableEq, Repr

/-- The code of a cause (R155). -/
def Cause.code : Cause → Nat
  | .illegal => 0x01 | .bundleForm => 0x02 | .misalign => 0x03 | .lmalign => 0x04 | .lmrange => 0x05
  | .pageLoad => 0x06 | .pageStore => 0x07 | .protection => 0x08 | .format => 0x09 | .breakpoint => 0x0A
  | .syscall => 0x0B | .ueConsumed => 0x0C | .mirrorMismatch => 0x0D | .matrixInHandler => 0x0E
  | .preempt => 0x0F | .watchdog => 0x10 | .powerKill => 0x11 | .taskFault => 0x12

/-- A cause with its TVAL (R155). -/
structure TrapInfo where
  cause : Cause
  tval  : Word
  deriving DecidableEq, Repr

/-- Syllable classes (R76). -/
inductive Class where
  | s | v | m | c
  deriving DecidableEq, Repr

/-- TSTATUS.ENG (R131). -/
def Class.code : Class → Nat
  | .s => 0 | .v => 1 | .m => 2 | .c => 3

/-- Privilege levels of a team slot (R39). -/
inductive Level where
  | a | h
  deriving DecidableEq, Repr

/-- What a slot is doing. -/
inductive SlotStatus where
  /-- No bind record in force. -/
  | empty
  /-- A record is written and not armed (R364, R365). -/
  | bound
  /-- Armed; it starts at the start-phase cycle (R365). -/
  | armed
  | running
  /-- `texit` has committed and the bundle's own syllables are still to complete (R164). -/
  | exiting
  /-- Ended, its slot and local memory kept for its siblings (R30). -/
  | ended
  /-- Halted by pre-emption, its context not yet saved (R167, R168). -/
  | halted
  /-- A forwarded call is posted; the slot halts until the answer (R157). -/
  | forwarded
  /-- A trap raised at H-level waits for ESCALATE_TRAP (R158). -/
  | escalating
  /-- Held at a breakpoint for an attached debugger (R419). -/
  | heldDebug
  deriving DecidableEq, Repr

/-- The bind record's fields (R364), but for reserved ones. -/
structure BindRec where
  v     : Bool
  arm   : Bool
  entry : Word
  ltb   : Word
  argp  : Word
  args  : List Word
  asn   : Nat
  root  : Nat
  tvec  : Word
  hdata : Word
  seq   : Word
  gidx  : Nat
  gcnt  : Nat
  cls   : Nat
  gsz   : Nat
  tidx  : Nat
  lmb   : Nat
  lmu   : Nat
  prot  : Bool
  slot  : Nat
  deriving DecidableEq, Repr

/-- Log 2 (DESIGN CHOICE, unsafe). -/
def BindRec.reset : BindRec :=
  { v := false, arm := false, entry := 0, ltb := 0, argp := 0, args := [], asn := 0, root := 0, tvec := 0, hdata := 0,
    seq := 0, gidx := 0, gcnt := 1, cls := 0, gsz := 1, tidx := 0, lmb := 0, lmu := 1, prot := false, slot := 0 }

/-- The control registers of a team that instructions read and write (R127 to R131), each at its field's width. -/
structure Ctl where
  gl      : BitVec 16
  hold    : BitVec 8
  sc      : Word
  es      : BitVec 16
  vtype   : BitVec 13
  seed    : Word
  fflags  : BitVec 6
  seb     : Word
  gph     : BitVec 32
  mkp     : BitVec 16
  cp      : Word
  cka     : Word
  ckr     : Word
  ntfw    : Word
  watch   : Word
  pflags  : BitVec 16
  tcause  : BitVec 8
  tpc     : Word
  tvpc    : Word
  tval    : Word
  tstatus : BitVec 4
  ls0     : Word
  ls1     : Word
  ls2     : Word
  ls3     : Word
  lsm     : Word
  bkp     : List (Nat × Word)
  deriving DecidableEq, Repr

/-- The values at team start (R35, R127). -/
def Ctl.start : Ctl :=
  { gl := 0, hold := 0, sc := 0, es := 0, vtype := 8, seed := 0, fflags := 0, seb := 0, gph := 0, mkp := 0, cp := 0,
    cka := 0, ckr := 0, ntfw := 0, watch := 0, pflags := 0, tcause := 0, tpc := 0, tvpc := 0, tval := 0, tstatus := 0,
    ls0 := 0, ls1 := 0, ls2 := 0, ls3 := 0, lsm := 0, bkp := [] }

/-- A polynomial register (R262): coefficients as f32 bits, unlisted ones +0, with PDEG, PS and PN (R130). -/
structure Poly where
  c    : List (Nat × BitVec 32)
  pdeg : BitVec 6
  ps   : BitVec 32
  pn   : BitVec 32
  deriving DecidableEq, Repr

/-- R35: every coefficient +0.0, PDEG 63. -/
def Poly.start : Poly := { c := [], pdeg := 63, ps := 0, pn := 0 }

/-- The vector, mask, polynomial, codebook and accumulator state of a slot (R18, R197, R199, R262, R115, R274).
A vector register is its 8,192 bytes; bytes outside the live part are held as zero (R201, R205). -/
structure VecState where
  v   : List (Nat × BitVec 65536)
  k   : List (Nat × BitVec 8192)
  p   : List (Nat × Poly)
  cb  : List (Nat × BitVec 16)
  acc : List (Nat × BitVec 32)
  /-- Poisoned 64-byte blocks (R393, R172): register × 128 + block, and accumulator row × 16 + block. -/
  vPoison : List Nat
  accPoison : List Nat
  deriving DecidableEq, Repr

def VecState.start : VecState := { v := [], k := [], p := [], cb := [], acc := [], vPoison := [], accPoison := [] }

/-- A load that has performed nothing yet (R159). -/
structure PendLoad where
  ea   : Word
  size : Nat
  sx   : Bool
  fe   : Bool
  fec  : Bool
  /-- Only queue entries issued before it are older than the load (R23); the bundle it was issued in. -/
  before : Nat
  bno    : Nat
  deriving DecidableEq, Repr

/-- A scalar result in flight (R84): its value, or the load that will give it. -/
structure Flight where
  reg  : Reg
  val  : Word
  load : Option PendLoad
  left : Nat
  deriving DecidableEq, Repr

/-- A pending load kept with the trap context, with its place among the results in flight (R159). -/
structure SavedLoad where
  pos  : Nat
  reg  : Reg
  load : PendLoad
  left : Nat
  deriving DecidableEq, Repr

/-! ### Translations (R179 to R181) -/

/-- Where a translation is cached (R180): a core's instruction TLB, its data TLB or the bank of one of its lanes, a
cluster's TLB, or the hub die's, which serves the stream engine and the near-memory units. Log 80 (DESIGN CHOICE, unsafe). -/
inductive TlbPlace where
  | inst (core : Nat)
  | data (core : Nat)
  | bank (core lane : Nat)
  | cluster (c : Nat)
  | hub
  deriving DecidableEq, Repr

/-- A cached translation (R179, R180): where it is cached, the leaf as read, whether it carries D, and the 64 KiB granules
whose dirty-map bit was set through it. -/
structure TlbEnt where
  place  : TlbPlace
  asn    : Nat
  va     : Nat
  size   : Nat
  leafAt : Nat
  leaf   : Nat
  dc     : Bool
  marked : List Nat
  deriving DecidableEq, Repr

/-- Where a translated access goes. -/
structure Xlat where
  pa  : Nat
  ent : TlbEnt
  deriving DecidableEq, Repr

/-! ### Queue entries (R20 to R22, R166) -/

/-- What the probe pass of an indexed access has found: the pinned translations by element, and the lowest-numbered element
that fails a check (R180, R181). -/
structure Probe where
  pins : List (Nat × Xlat)
  bad  : Option (Nat × TrapInfo)
  deriving DecidableEq, Repr

/-- A running combination of R237: how many terms, the integer sum, the exact terms, the extreme so far, whether a term was a
signalling NaN. -/
structure RedAcc where
  n    : Nat
  isum : Nat
  ts   : Terms
  ext  : Nat
  sig  : Bool
  deriving DecidableEq, Repr

/-- The running state of a syllable that has been interrupted (R222): its next destination or source position, or its exact
running values, one for each output of `vfold`. -/
structure Running where
  pos  : Nat
  accs : List RedAcc
  deriving DecidableEq, Repr

/-- A queue entry: the operation, what it captured at commit (R22) and its restart point (R166). -/
structure QEntry where
  no    : Nat
  bno   : Nat
  hl    : Bool
  addr  : Word
  word  : BitVec 32
  op    : QOp
  gl    : Nat
  vtype : BitVec 13
  seed  : Word
  seb   : Word
  ntfw  : Word
  cka   : Word
  ckr   : Word
  x     : Word
  y     : Word
  z     : Word
  sx    : Word
  sy    : Word
  start : Nat
  /-- The index vector or shape record, read whole before the first element (R248, R254). -/
  cap   : Option (BitVec 65536)
  probe : Option Probe
  /-- The granules a full/empty load has read, with their bytes (R252). -/
  grans : List (Nat × BitVec 128)
  run   : Option Running
  /-- Memory width and page format of a vector access, once its first element has been performed (R121, R248). -/
  pfmt  : Option (Nat × Nat)
  /-- Flags raised so far, ORed into FFLAGS at completion (R112). -/
  fl    : BitVec 6
  /-- Passes and syllable of a repeat frame (R244); phases of an engine command. -/
  pass  : Nat
  idx   : Nat
  /-- The acquire phase is done; the release phase waits (R72). -/
  acq   : Bool
  done  : Bool
  /-- The syllable has been replayed for an uncorrectable error (R172), and for a mirror mismatch (R216): a second one traps. -/
  replayed : Bool
  remirrored : Bool
  /-- The strip it was committed in (R213), and its place in its copy engine's queue (R298). -/
  strip : Nat
  ceNo  : Nat
  fault : Option TrapInfo
  deriving DecidableEq, Repr

/-- An open repeat frame (R243): its head's issue number and the syllables still to capture. -/
structure Frame where
  head : Nat
  left : Nat
  deriving DecidableEq, Repr

/-- The slot's queues, V, M and C (R20, R298). -/
structure Queues where
  viq : List QEntry
  mq  : List QEntry
  cq0 : List QEntry
  cq1 : List QEntry
  frame : Option Frame
  deriving DecidableEq, Repr

def Queues.empty : Queues := { viq := [], mq := [], cq0 := [], cq1 := [], frame := none }

/-- A committed krel whose release is still to be performed (R143): its knot, where the knot lies, the increment, the
scope, the region read with the handle at issue (none: the whole of `g:`, R61), and the number of the first queue
entry that is younger; its bundle. -/
structure KRel where
  knot   : Word
  pa     : Nat
  inc    : Word
  scope  : BitVec 2
  region : Option (Nat × Nat)
  before : Nat
  bno    : Nat
  deriving DecidableEq, Repr

/-- A capacity script and its position (R208). -/
structure CapScript where
  caps : List Nat
  pos  : Nat
  deriving DecidableEq, Repr

/-- An escalated trap: the cause with its TVAL and the handler's PC (R158), and the class, QP and TVPC of its record (R131,
R295); whether the team had executed `texit` (R164). -/
structure Escalation where
  info : TrapInfo
  hpc  : Word
  cls  : Class
  qp   : Bool
  tvpc : Word
  ended : Bool
  deriving DecidableEq, Repr

/-- The vector state that some syllables of the queue image still see (R206): registers and masks from the cut on, which a
point committed later has removed for every syllable behind it. -/
structure UnderCut where
  vec   : VecState
  vbits : Nat
  kbits : Nat
  deriving DecidableEq, Repr

/-- What of the context a handler can change, as the first trap left it at entry (R158). -/
structure EntryCtx where
  ctl : Ctl
  vec : VecState
  under : List UnderCut
  script : Option CapScript
  deriving DecidableEq, Repr

/-- Everything a team slot holds. -/
structure Team where
  status  : SlotStatus
  /-- What a halted slot goes on with when it is resumed (R29). -/
  was     : SlotStatus
  bind    : BindRec
  resume  : Bool
  regs    : List (Nat × Word)
  hregs   : List (Nat × Word)
  pc      : Word
  level   : Level
  sched   : Bool
  flights : List Flight
  saved   : List SavedLoad
  ctl     : Ctl
  vec     : VecState
  q       : Queues
  image   : Option Queues
  /-- What the image still sees of the vector state (R156, R205, R206): one layer before each of its points in queue order, and
  a last one behind them where a grant or width point has been taken since. -/
  under   : List UnderCut
  /-- The state that a point of the given number, when its turn comes, leaves from its cut on; zero where none is listed. -/
  overs   : List (Nat × VecState)
  krels   : List KRel
  /-- A SYSCALL or BREAKPOINT still to be taken (R154). -/
  deferred : Option TrapInfo
  script  : Option CapScript
  cap32   : Nat
  /-- Strip arbitration: virtual times of the pipes, the array and the two engines, and the open strip's charge
  (R214, R277, R299). -/
  vt      : Nat
  mvt     : Nat
  cvt0    : Nat
  cvt1    : Nat
  charge  : Nat
  /-- Grants taken: the number of the open strip (R213). -/
  strip   : Nat
  esc     : Option Escalation
  /-- The number of the call a handler has forwarded and waits for (R157). -/
  call    : Option Nat
  entry   : Option EntryCtx
  /-- The address whose bundle skips the breakpoint check (R163). -/
  afterTret : Bool
  /-- The queued syllables of a held bundle that is issued before it commits (R163). -/
  issued  : Bool
  /-- The binding a waiting `kacq` read at its issue (R61): none outside, an unbound knot as none inside. -/
  acqBind : Option (Option (Nat × Nat))
  /-- A `wfe` holds, and whether its event has come (R165). -/
  wake    : Option Bool
  /-- Whether the last bundle tried was held (R151). -/
  held    : Bool
  /-- Bundles committed and queue entries issued; the last place taken in the copy engines' queues (R298). -/
  bno     : Nat
  nextNo  : Nat
  ceNo    : Nat
  /-- A drain has requested the slot's pre-emption and it has not halted yet (R377). -/
  preemptReq : Bool
  deriving DecidableEq, Repr

/-- A slot right after reset: nothing bound; the register values are those of a team's start state (R35). Log 2 (DESIGN
CHOICE, unsafe). -/
def Team.reset : Team :=
  { status := .empty, was := .empty, bind := BindRec.reset, resume := false, regs := [], hregs := [], pc := 0, level := .a, sched := false,
    flights := [], saved := [], ctl := Ctl.start, vec := VecState.start, q := Queues.empty, image := none, under := [], overs := [], krels := [],
    deferred := none, script := none, cap32 := 0, vt := 0, mvt := 0, cvt0 := 0, cvt1 := 0, charge := 0, strip := 0,
    esc := none, call := none, entry := none, afterTret := false, issued := false, acqBind := none, wake := none, held := false, bno := 0,
    nextNo := 0, ceNo := 0, preemptReq := false }

/-- A line of an L1 (R54): physical line number, the virtual lines it was reached by, its bytes, which bytes are
dirty, which slots wrote it, whether it came in poisoned (R172), and whether an uncorrectable error struck it while dirty
(R393). -/
structure Line where
  pa     : Nat
  vas    : List (Nat × Nat)
  data   : BitVec 512
  dirty  : BitVec 64
  wr     : BitVec 2
  poison : Bool
  lost   : Bool
  deriving DecidableEq, Repr

/-- The wear state of a core (R391). -/
inductive WearState where
  | healthy | derated | drained | retired
  deriving DecidableEq, Repr

/-- What a core holds outside its slots (R6, R19). -/
structure Core where
  l1     : List Line
  icache : List Nat
  lmap   : Word
  /-- The slot that owns the pipes, and its strip (R214). -/
  owner  : Nat
  strip  : Nat
  /-- Consumed wear in 2^−20 WU / 100, its state (R389, R391), and the teams bound since the last sample: team slot, stream
  slot, and the place of the stream in that slot's history (R390). -/
  wear   : Nat
  wearState : WearState
  used   : List (Nat × Nat × Nat)
  /-- Corrected errors of the last 24 h: lane slice and epoch; lanes marked for retirement (R394). -/
  laneErr : List (Nat × Nat)
  marked : List Nat
  mOwner : Nat
  cOwner0 : Nat
  cOwner1 : Nat
  deriving DecidableEq, Repr

/-- Log 2 (DESIGN CHOICE, unsafe). -/
def Core.reset : Core :=
  { l1 := [], icache := [], lmap := 0, owner := 0, strip := 0, wear := 0, wearState := .healthy, used := [], laneErr := [], marked := [],
    mOwner := 0, cOwner0 := 0, cOwner1 := 0 }

end Sys2Proof.Machine
end

