-- ==== Sys2Proof/Machine/Flags.lean ====
section
/-! DEFINITION. VTYPE's fields, FFLAGS and PFLAGS, and the rounding a queue entry captured (R102, R108, R111, R112,
R128, R130). -/

namespace Sys2Proof.Machine

/-- VTYPE.FMT (R128). -/
def vtFmt (v : BitVec 13) : Fmt := Fmt.ofVtype (v.extractLsb' 0 5).toNat

/-- VTYPE.RM (R128); RWL keeps it a listed mode. -/
def vtRM (v : BitVec 13) : RMode := (RMode.ofCode (v.extractLsb' 5 3).toNat).getD .rne

/-- VTYPE.BS as a block size, 0 for none (R117). -/
def vtBS (v : BitVec 13) : Nat :=
  match (v.extractLsb' 8 2).toNat with
  | 1 => 16 | 2 => 32 | 3 => 64 | _ => 0

/-- VTYPE.CB (R128). -/
def vtCB (v : BitVec 13) : Nat := (v.extractLsb' 10 3).toNat

/-- R112: FFLAGS takes in an operation's flags when it completes. -/
def Ctl.orFlags (c : Ctl) (f : Flags) : Ctl := { c with fflags := c.fflags ||| f }

/-- The width of an entry's captured format. -/
def QEntry.w (e : QEntry) : Nat := (vtFmt e.vtype).width

/-- The rounding of element i (R111): g is the strip element base plus i. -/
def QEntry.rnd (e : QEntry) (i : Nat) : Rnd :=
  { mode := vtRM e.vtype, seed := e.seed, g := e.seb + BitVec.ofNat 64 i }

/-- PT and PX bits of polynomial register n (R130). -/
def ptBit (f : BitVec 16) (n : Nat) : Bool := f.getLsbD n
def setPT (f : BitVec 16) (n : Nat) : BitVec 16 := f ||| (1#16 <<< n)
def clearPT (f : BitVec 16) (n : Nat) : BitVec 16 := f &&& ~~~(1#16 <<< n)
def setPX (f : BitVec 16) (n : Nat) : BitVec 16 := f ||| (1#16 <<< (n + 8))

end Sys2Proof.Machine
end

