-- ==== Sys2Proof/Machine/VecCompute.lean ====
section
/-! DEFINITION. The vector compute instructions over a slot's vector state (R202, R219 to R241), each whole and in
ascending element order, and the register shift of a repeat frame (R244). -/

namespace Sys2Proof.Machine

/-- What performing a V syllable leaves: the vector state, PFLAGS, the flags it raised, a scalar result (R85), its running state
where it is not complete (R222). -/
structure VRes where
  vec : VecState
  pf  : BitVec 16
  fl  : Flags
  sc  : Option (Reg × Word)
  run : Option Running
  deriving DecidableEq, Repr

/-! ### Elements and masks (R198, R199) -/

def VecState.reg (s : VecState) (r : Nat) : BitVec 65536 := look 0#65536 s.v r

def VecState.setReg (s : VecState) (r : Nat) (x : BitVec 65536) : VecState := { s with v := store 0#65536 s.v r x }

/-- Element i at width w, as an unsigned number. -/
def elem (w : Nat) (x : BitVec 65536) (i : Nat) : Nat := x.toNat / 2 ^ (i * w) % 2 ^ w

/-- Writes element i at width w. -/
def setElem (w : Nat) (x : BitVec 65536) (i v : Nat) : BitVec 65536 :=
  BitVec.ofNat 65536 (x.toNat - elem w x i * 2 ^ (i * w) + v % 2 ^ w * 2 ^ (i * w))

/-- Mask bit i of k0 to k15: k0 reads 1 (R199). -/
def VecState.mask (s : VecState) (k i : Nat) : Bool := if k = 0 then true else (look 0#8192 s.k k).getLsbD i

def setBit8192 (x : BitVec 8192) (i : Nat) (b : Bool) : BitVec 8192 :=
  if b then x ||| (1#8192 <<< i) else x &&& ~~~(1#8192 <<< i)

/-- Writes bit i of mask k; k0 is never named as a destination (R89). -/
def VecState.setMask (s : VecState) (k i : Nat) (b : Bool) : VecState :=
  if k = 0 then s else { s with k := store 0#8192 s.k k (setBit8192 (look 0#8192 s.k k) i b) }

/-- R201, R205: keeps the first `vbits` bits of every register and, at a grant, the first `kbits` of every mask; what comes back
later reads zero, free of poison. -/
def VecState.trunc (s : VecState) (vbits : Nat) (kbits : Option Nat) : VecState :=
  let cutV := fun (x : BitVec 65536) => BitVec.ofNat 65536 (x.toNat % 2 ^ vbits)
  let v := (s.v.map (fun e => (e.1, cutV e.2))).filter (fun e => e.2 ≠ 0#65536)
  let k := match kbits with
    | none => s.k
    | some n => (s.k.map (fun e => (e.1, BitVec.ofNat 8192 (e.2.toNat % 2 ^ n)))).filter (fun e => e.2 ≠ 0#8192)
  { s with v := v, k := k, vPoison := s.vPoison.filter (fun b => decide (b % 128 * 512 < vbits)) }

/-! ### Element loops -/

/-- One pass over elements 0 to n−1: f gives the new element with its flags, or leaves it. -/
def mapElems (w n : Nat) (f : Nat → Option (Nat × Flags)) (x : BitVec 65536) : BitVec 65536 × Flags :=
  (List.range n).foldl (fun acc i =>
    match f i with
    | none => acc
    | some (v, fl) => (setElem w acc.1 i v, acc.2 ||| fl)) (x, 0)

/-! ### Integer arithmetic (R223) -/

def intOp (f : VInt) (w a b : Nat) : Nat × Flags :=
  let sa := toSigned w a
  let sb := toSigned w b
  let sh := b % w
  match f with
  | .add => ((a + b) % 2 ^ w, 0)
  | .sub => (toUnsigned w ((a : Int) - b), 0)
  | .mul => (a * b % 2 ^ w, 0)
  | .mulh => (toUnsigned w (sa * sb / (2 ^ w : Nat)), 0)
  | .mulhU => (a * b / 2 ^ w, 0)
  | .min => (if sa ≤ sb then a else b, 0)
  | .minU => (if a ≤ b then a else b, 0)
  | .max => (if sb ≤ sa then a else b, 0)
  | .maxU => (if b ≤ a then a else b, 0)
  | .and => (a &&& b, 0)
  | .or => (a ||| b, 0)
  | .xor => (a ^^^ b, 0)
  | .sll => (a * 2 ^ sh % 2 ^ w, 0)
  | .srl => (a / 2 ^ sh, 0)
  | .sra => (toUnsigned w (sa / (2 ^ sh : Nat)), 0)
  | .sadd => satBits true w (sa + sb)
  | .saddU => satBits false w ((a : Int) + b)
  | .ssub => satBits true w (sa - sb)
  | .ssubU => satBits false w ((a : Int) - b)

/-! ### Floating point (R224 to R226, R229) -/

def fp2Op (f : VFp2) (ff : FF) (a b : Nat) (r : Rnd) : Nat × Flags :=
  let x := ff.decode a
  let y := ff.decode b
  match f with
  | .add => ff.finish (x.add y r.mode) r
  | .sub => ff.finish (let s := x.add y.neg r.mode; (s.1, s.2)) r
  | .mul => ff.finish (x.mul y) r
  | .div => ff.div x y r
  | .min => ff.minmax false a b
  | .max => ff.minmax true a b

def fp1Op (f : VFp1) (ff : FF) (a : Nat) (r : Rnd) : Nat × Flags :=
  let x := ff.decode a
  match f with
  | .sqrt => ff.sqrt x r
  | .rcp => ff.rcp x r
  | .rsq => ff.rsq x r
  | .exp2 => ff.exp2 x r
  | .log2 => ff.log2 x r

/-- The compares of R229 at width w, floats under FMT. -/
def cmpOp (f : VCmp) (fmt : Fmt) (a b : Nat) : Bool × Flags :=
  let w := fmt.width
  let x := fmt.ff.decode a
  let y := fmt.ff.decode b
  let sig := sigFlag x ||| sigFlag y
  let any := x.isNan || y.isNan
  match f with
  | .ltu => (decide (a < b), 0)
  | .geu => (decide (b ≤ a), 0)
  | .eq => (decide (a = b), 0)
  | .ne => (decide (a ≠ b), 0)
  | .lt => (decide (toSigned w a < toSigned w b), 0)
  | .ge => (decide (toSigned w b ≤ toSigned w a), 0)
  | .feq => (x.eq y, sig)
  | .flt => (x.lt y, if any then flagNV else 0)
  | .fle => (!any && !y.lt x, if any then flagNV else 0)
  | .funord => (any, sig)

/-! ### Reductions (R237 to R240) -/

def RedAcc.none : RedAcc := { n := 0, isum := 0, ts := Terms.none, ext := 0, sig := false }

/-- The greater (or lesser) of two patterns of FMT under R237: signed, unsigned or float. -/
def extreme (fmt : Fmt) (mx : Bool) (a b : Nat) : Nat :=
  if fmt.isFloat then (fmt.ff.minmax mx a b).1
  else
    let le := decide (fmt.intVal a ≤ fmt.intVal b)
    if mx then (if le then b else a) else (if le then a else b)

def RedAcc.push (t : RedAcc) (op : RedOp) (fmt : Fmt) (x : Nat) : RedAcc :=
  match op with
  | .sum => { t with n := t.n + 1, isum := (t.isum + x) % 2 ^ fmt.width }
  | .fsum => { t with n := t.n + 1, ts := t.ts.push (fmt.ff.decode x) }
  | .max => { t with n := t.n + 1, ext := if t.n = 0 then x else extreme fmt true t.ext x,
                     sig := t.sig || (fmt.isFloat && (fmt.ff.decode x).isSig) }
  | .min => { t with n := t.n + 1, ext := if t.n = 0 then x else extreme fmt false t.ext x,
                     sig := t.sig || (fmt.isFloat && (fmt.ff.decode x).isSig) }

/-- The identity of R237 for max and min. -/
def redIdentity (op : RedOp) (fmt : Fmt) : Nat :=
  match op with
  | .sum => 0
  | .fsum => 0
  | .max =>
    if fmt.isFloat then fmt.ff.signBit + fmt.ff.infBits
    else if fmt.isSigned then 2 ^ (fmt.width - 1) else 0
  | .min =>
    if fmt.isFloat then fmt.ff.infBits
    else if fmt.isSigned then 2 ^ (fmt.width - 1) - 1 else 2 ^ fmt.width - 1

def RedAcc.out (t : RedAcc) (op : RedOp) (fmt : Fmt) (r : Rnd) : Nat × Flags :=
  match op with
  | .sum => (t.isum, 0)
  | .fsum => t.ts.fsum fmt.ff r
  | _ =>
    if t.n = 0 then (redIdentity op fmt, 0)
    else
      let x := if fmt.isFloat && (fmt.ff.decode t.ext).isNan then fmt.ff.canonNan else t.ext
      (x, if t.sig then flagNV else 0)

/-- The running values a reduction starts with: the old elements are terms of `vfold` (R239). -/
def redStart (k : RedKind) (op : RedOp) (fmt : Fmt) (gl : Nat) (vd : BitVec 65536) : List RedAcc :=
  match k with
  | .fold => (List.range (min 64 gl)).map (fun j => RedAcc.none.push op fmt (elem fmt.width vd j))
  | _ => [RedAcc.none]

/-- The running value that element i joins. -/
def redLane (k : RedKind) (i : Nat) : Nat :=
  match k with
  | .fold => i % 64
  | _ => 0

/-- vred, vfold and vscan over the elements `wr` selects, `all` saying that these are the last (R222, R238 to R240). -/
def reduce (k : RedKind) (op : RedOp) (fmt : Fmt) (gl : Nat) (en wr : Nat → Bool) (all : Bool) (accs : List RedAcc)
    (va vd : BitVec 65536) (rnd : Nat → Rnd) : BitVec 65536 × Flags × List RedAcc :=
  let w := fmt.width
  let out := fun (accs : List RedAcc) (j i : Nat) => (accs.getD j RedAcc.none).out op fmt (rnd i)
  let r := (List.range gl).foldl (fun (a : BitVec 65536 × Flags × List RedAcc) i =>
    if wr i && en i then
      let j := redLane k i
      let accs := a.2.2.set j ((a.2.2.getD j RedAcc.none).push op fmt (elem w va i))
      match k with
      | .scan => let o := out accs 0 i; (setElem w a.1 i o.1, a.2.1 ||| o.2, accs)
      | _ => (a.1, a.2.1, accs)
    else a) (vd, 0, accs)
  if gl = 0 || !all then r
  else
    match k with
    | .scan => r
    | .red => let o := out r.2.2 0 0; (setElem w r.1 0 o.1, o.2, r.2.2)
    | .fold =>
      (List.range (min 64 gl)).foldl (fun (a : BitVec 65536 × Flags × List RedAcc) j =>
        let o := out r.2.2 j j
        (setElem w a.1 j o.1, a.2.1 ||| o.2, a.2.2)) r

/-! ### Moves (R232 to R236) -/

/-- vcompress over the elements `en` selects, from destination position `pos`. -/
def compressElems (w gl : Nat) (en : Nat → Bool) (pos : Nat) (va vd : BitVec 65536) : Nat × BitVec 65536 :=
  (List.range gl).foldl (fun (acc : Nat × BitVec 65536) i =>
    if en i then (acc.1 + 1, setElem w acc.2 acc.1 (elem w va i)) else acc) (pos, vd)

/-- vexpand over the elements `en` selects, from source position `pos`. -/
def expandElems (w gl : Nat) (en : Nat → Bool) (pos : Nat) (va vd : BitVec 65536) : Nat × BitVec 65536 :=
  (List.range gl).foldl (fun (acc : Nat × BitVec 65536) i =>
    if en i then (acc.1 + 1, setElem w acc.2 i (elem w va acc.1)) else acc) (pos, vd)

def scatterElems (w gl : Nat) (en : Nat → Bool) (va vb vd : BitVec 65536) : BitVec 65536 :=
  (List.range gl).foldl (fun acc i =>
    if en i && decide (elem w vb i < gl) then setElem w acc (elem w vb i) (elem w va i) else acc) vd

/-- vfcvt (R228): the destination at its own width, within the live bytes of the source width. -/
def cvtElems (src dst : Fmt) (gl : Nat) (en : Nat → Bool) (whole : Bool) (va vd : BitVec 65536) (rnd : Nat → Rnd) :
    BitVec 65536 × Flags :=
  let w := src.width
  let w2 := dst.width
  let n := if w2 ≤ w then gl else gl * w / w2
  let r := mapElems w2 n (fun i => if en i then some (convert src dst (elem w va i) (rnd i)) else none) vd
  if w2 < w && whole then
    (BitVec.ofNat 65536 (r.1.toNat - (r.1.toNat % 2 ^ (gl * w) / 2 ^ (gl * w2)) * 2 ^ (gl * w2)), r.2)
  else r

/-- Mask writes of an element loop. -/
def maskElems (s : VecState) (k n : Nat) (f : Nat → Option (Bool × Flags)) : VecState × Flags :=
  (List.range n).foldl (fun acc i =>
    match f i with
    | none => acc
    | some (b, fl) => (acc.1.setMask k i b, acc.2 ||| fl)) (s, 0)

/-- The queries of R231 over bits 0 to GL−1. -/
def kQuery (f : KQuery) (s : VecState) (k gl : Nat) : Word :=
  let set := (List.range gl).filter (fun i => s.mask k i)
  match f with
  | .count => BitVec.ofNat 64 set.length
  | .any => if set.isEmpty then 0#64 else 1#64
  | .first => match set with
    | [] => BitVec.allOnes 64
    | i :: _ => BitVec.ofNat 64 i

/-! ### The compute syllables -/

/-- Performs elements `e.start` to `hi` − 1 of a compute syllable (R209, R215, R219), to its end when `hi` is GL; from its running
state where it has one (R222). Memory and polynomial syllables have their own files and leave this function's state unchanged. -/
def computeV (op : VOp) (e : QEntry) (hi : Nat) (s : VecState) (pf : BitVec 16) : VRes :=
  let fmt := vtFmt e.vtype
  let w := fmt.width
  let gl := e.gl
  let sval := e.z.toNat % 2 ^ w
  let wr := fun (i : Nat) => decide (e.start ≤ i) && decide (i < hi)
  let whole := decide (gl ≤ hi)
  let msk := fun (m : BitVec 4) (i : Nat) => s.mask m.toNat i
  let en := fun (m : BitVec 4) (i : Nat) => wr i && s.mask m.toNat i
  let ret := fun (d : Reg) (x : BitVec 65536 × Flags) =>
    ({ vec := s.setReg d.toNat x.1, pf := pf, fl := x.2, sc := none, run := none } : VRes)
  let retK := fun (x : VecState × Flags) => ({ vec := x.1, pf := pf, fl := x.2, sc := none, run := none } : VRes)
  let pos := match e.run with | some x => x.pos | none => 0
  let moved := fun (d : Reg) (x : Nat × BitVec 65536) =>
    ({ vec := s.setReg d.toNat x.2, pf := pf, fl := 0, sc := none, run := some { pos := x.1, accs := [] } } : VRes)
  let b2 := fun (o : VSc) (i : Nat) => if o.s then sval else elem w (s.reg o.b.toNat) i
  match op with
  | .int f o => ret o.d (mapElems w gl
      (fun i => if en o.m i then some (intOp f w (elem w (s.reg o.a.toNat) i) (b2 o i)) else none) (s.reg o.d.toNat))
  | .cmp f o => retK (maskElems s o.d.toNat gl
      (fun i => if en o.m i then some (cmpOp f fmt (elem w (s.reg o.a.toNat) i) (b2 o i)) else none))
  | .merge o => ret o.d (mapElems w gl
      (fun i => if wr i then some (if en o.m i then b2 o i else elem w (s.reg o.a.toNat) i, 0) else none) (s.reg o.d.toNat))
  | .fp2 f o => ret o.d (mapElems w gl
      (fun i => if en o.m i then some (fp2Op f fmt.ff (elem w (s.reg o.a.toNat) i) (b2 o i) (e.rnd i)) else none)
      (s.reg o.d.toNat))
  | .fma np nc o => ret o.d (mapElems w gl
      (fun i => if en o.m i then
          some (fmt.ff.finish ((fmt.ff.decode (elem w (s.reg o.a.toNat) i)).fma
            (fmt.ff.decode (elem w (s.reg o.b.toNat) i)) (fmt.ff.decode (elem w (s.reg o.d.toNat) i))
            np nc (e.rnd i).mode) (e.rnd i))
        else none) (s.reg o.d.toNat))
  | .fp1 f o => ret o.d (mapElems w gl
      (fun i => if en o.m i then some (fp1Op f fmt.ff (elem w (s.reg o.a.toNat) i) (e.rnd i)) else none)
      (s.reg o.d.toNat))
  | .cvt o => ret o.d (cvtElems fmt (Fmt.ofVtype o.b.toNat) gl (en o.m) whole (s.reg o.a.toNat) (s.reg o.d.toNat) e.rnd)
  | .cls o => ret o.d (mapElems w gl
      (fun i => if en o.m i then some (fmt.ff.classBit (elem w (s.reg o.a.toNat) i), 0) else none) (s.reg o.d.toNat))
  | .kop f o => retK (maskElems s o.d.toNat gl
      (fun i => if en o.m i then
          let x := s.mask o.a.toNat i
          let y := s.mask o.b.toNat i
          some (match f with | .and => x && y | .or => x || y | .xor => x != y | .inv => !x, 0)
        else none))
  | .kq f d a => { vec := s, pf := pf, fl := 0, sc := some (d, kQuery f s a.toNat gl), run := none }
  | .slide up o =>
    let n := e.z.toNat
    ret o.d (mapElems w gl
      (fun i => if en o.m i then
          some (if up then (if n ≤ i then elem w (s.reg o.a.toNat) (i - n) else 0)
                else (if i + n < gl then elem w (s.reg o.a.toNat) (i + n) else 0), 0)
        else none) (s.reg o.d.toNat))
  | .gath o => ret o.d (mapElems w gl
      (fun i => if en o.m i then
          let j := elem w (s.reg o.b.toNat) i
          some (if j < gl then elem w (s.reg o.a.toNat) j else 0, 0)
        else none) (s.reg o.d.toNat))
  | .scat o => ret o.d (scatterElems w gl (en o.m) (s.reg o.a.toNat) (s.reg o.b.toNat) (s.reg o.d.toNat), 0)
  | .compress o => moved o.d (compressElems w gl (en o.m) pos (s.reg o.a.toNat) (s.reg o.d.toNat))
  | .expand o => moved o.d (expandElems w gl (en o.m) pos (s.reg o.a.toNat) (s.reg o.d.toNat))
  | .bcast d m => ret d (mapElems w gl (fun i => if en m i then some (sval, 0) else none) (s.reg d.toNat))
  | .ext d a =>
    let x := if e.z.toNat < gl then elem w (s.reg a.toNat) e.z.toNat else 0
    let y := if fmt.isSigned then BitVec.ofInt 64 (toSigned w x) else BitVec.ofNat 64 x
    { vec := s, pf := pf, fl := 0, sc := some (d, y), run := none }
  | .ins d m =>
    if decide (e.z.toNat < gl) && en m e.z.toNat then
      ret d (setElem w (s.reg d.toNat) e.z.toNat (e.y.toNat % 2 ^ w), 0)
    else { vec := s, pf := pf, fl := 0, sc := none, run := none }
  | .vid d m => ret d (mapElems w gl (fun i => if en m i then some (i % 2 ^ w, 0) else none) (s.reg d.toNat))
  | .mv o => ret o.d (mapElems w gl
      (fun i => if en o.m i then some (elem w (s.reg o.a.toNat) i, 0) else none) (s.reg o.d.toNat))
  | .red k f o =>
    let accs := match e.run with | some x => x.accs | none => redStart k f fmt gl (s.reg o.d.toNat)
    let x := reduce k f fmt gl (msk o.m) wr whole accs (s.reg o.a.toNat) (s.reg o.d.toNat) e.rnd
    { vec := s.setReg o.d.toNat x.1, pf := pf, fl := x.2.1, sc := none, run := some { pos := 0, accs := x.2.2 } }
  | .tocb d a =>
    let cb := (List.range 16).foldl (fun cb i =>
      if wr i || (whole && decide (gl ≤ i)) then
        store 0#16 cb (d.toNat * 16 + i) (BitVec.ofNat 16 (if i < gl then elem 16 (s.reg a.toNat) i else 0))
      else cb) s.cb
    { vec := { s with cb := cb }, pf := pf, fl := 0, sc := none, run := none }
  | .trunc vb kb => { vec := s.trunc vb kb, pf := pf, fl := 0, sc := none, run := none }
  | _ => { vec := s, pf := pf, fl := 0, sc := none, run := none }

/-! ### Register fields (R244) and what an operation reads and writes (R209, R296) -/

/-- R244: every field that names a vector register moved by n, modulo 32. -/
def VOp.shift (n : Reg) : VOp → VOp
  | .int f o => .int f { o with d := o.d + n, a := o.a + n, b := if o.s then o.b else o.b + n }
  | .cmp f o => .cmp f { o with a := o.a + n, b := if o.s then o.b else o.b + n }
  | .merge o => .merge { o with d := o.d + n, a := o.a + n, b := if o.s then o.b else o.b + n }
  | .fp2 f o => .fp2 f { o with d := o.d + n, a := o.a + n, b := if o.s then o.b else o.b + n }
  | .fma p c o => .fma p c { o with d := o.d + n, a := o.a + n, b := o.b + n }
  | .fp1 f o => .fp1 f { o with d := o.d + n, a := o.a + n }
  | .cvt o => .cvt { o with d := o.d + n, a := o.a + n }
  | .cls o => .cls { o with d := o.d + n, a := o.a + n }
  | .kop f o => .kop f o
  | .kq f d a => .kq f d a
  | .ppinit m d => .ppinit m d
  | .ppmul pb o => .ppmul pb { o with a := o.a + n, b := if pb then o.b else o.b + n }
  | .ppdiv d => .ppdiv d
  | .ppmvV d a m => .ppmvV (d + n) a m
  | .ppmvP d a m => .ppmvP d (a + n) m
  | .slide u o => .slide u { o with d := o.d + n, a := o.a + n }
  | .gath o => .gath { o with d := o.d + n, a := o.a + n, b := o.b + n }
  | .scat o => .scat { o with d := o.d + n, a := o.a + n, b := o.b + n }
  | .compress o => .compress { o with d := o.d + n, a := o.a + n }
  | .expand o => .expand { o with d := o.d + n, a := o.a + n }
  | .bcast d m => .bcast (d + n) m
  | .ext d a => .ext d (a + n)
  | .ins d m => .ins (d + n) m
  | .vid d m => .vid (d + n) m
  | .mv o => .mv { o with d := o.d + n, a := o.a + n }
  | .red k f o => .red k f { o with d := o.d + n, a := o.a + n }
  | .tocb d a => .tocb d (a + n)
  | .mem (.load sh o) => .mem (.load sh { o with d := o.d + n, b := if sh = .strided then o.b else o.b + n })
  | .mem (.store sh o) => .mem (.store sh { o with d := o.d + n, b := if sh = .strided then o.b else o.b + n })
  | .mem (.gl o) => .mem (.gl { o with d := o.d + n, b := o.b + n })
  | .mem (.sc o) => .mem (.sc { o with d := o.d + n, b := o.b + n })
  | .mem (.amo op o) => .mem (.amo op { o with d := o.d + n, b := o.b + n })
  | .rep c s r => .rep c s r
  | .trunc v k => .trunc v k
  | .setp n v => .setp n v

/-- The vector registers an operation reads. -/
def VOp.reads : VOp → List Nat
  | .int _ o => [o.a.toNat] ++ (if o.s then [] else [o.b.toNat])
  | .cmp _ o => [o.a.toNat] ++ (if o.s then [] else [o.b.toNat])
  | .merge o => [o.a.toNat] ++ (if o.s then [] else [o.b.toNat])
  | .fp2 _ o => [o.a.toNat] ++ (if o.s then [] else [o.b.toNat])
  | .fma _ _ o => [o.d.toNat, o.a.toNat, o.b.toNat]
  | .fp1 _ o => [o.a.toNat]
  | .cvt o => [o.a.toNat]
  | .cls o => [o.a.toNat]
  | .ppmul pb o => [o.a.toNat] ++ (if pb then [] else [o.b.toNat])
  | .ppmvP _ a _ => [a.toNat]
  | .slide _ o => [o.a.toNat]
  | .gath o => [o.a.toNat, o.b.toNat]
  | .scat o => [o.a.toNat, o.b.toNat]
  | .compress o => [o.a.toNat]
  | .expand o => [o.a.toNat]
  | .ext _ a => [a.toNat]
  | .mv o => [o.a.toNat]
  | .red .fold _ o => [o.d.toNat, o.a.toNat]
  | .red _ _ o => [o.a.toNat]
  | .tocb _ a => [a.toNat]
  | .mem (.load sh o) => if sh = .strided then [] else [o.b.toNat]
  | .mem (.store sh o) => [o.d.toNat, (o.d + 1).toNat] ++ (if sh = .strided then [] else [o.b.toNat])
  | .mem (.gl o) => [o.b.toNat]
  | .mem (.sc o) => [o.d.toNat, (o.d + 1).toNat, o.b.toNat]
  | .mem (.amo _ o) => [o.d.toNat, o.b.toNat]
  | _ => []

/-- The vector registers an operation writes. -/
def VOp.writes : VOp → List Nat
  | .int _ o => [o.d.toNat]
  | .merge o => [o.d.toNat]
  | .fp2 _ o => [o.d.toNat]
  | .fma _ _ o => [o.d.toNat]
  | .fp1 _ o => [o.d.toNat]
  | .cvt o => [o.d.toNat]
  | .cls o => [o.d.toNat]
  | .ppmvV d _ _ => [d.toNat]
  | .slide _ o => [o.d.toNat]
  | .gath o => [o.d.toNat]
  | .scat o => [o.d.toNat]
  | .compress o => [o.d.toNat]
  | .expand o => [o.d.toNat]
  | .bcast d _ => [d.toNat]
  | .ins d _ => [d.toNat]
  | .vid d _ => [d.toNat]
  | .mv o => [o.d.toNat]
  | .red _ _ o => [o.d.toNat]
  | .mem (.load _ o) => [o.d.toNat, (o.d + 1).toNat]
  | .mem (.gl o) => [o.d.toNat, (o.d + 1).toNat]
  | .mem (.amo _ o) => [o.d.toNat]
  | .trunc _ _ => List.range 32
  | _ => []

/-- The codebook an operation writes (R242). -/
def VOp.writesCb : VOp → Option Nat
  | .tocb d _ => some d.toNat
  | _ => none

/-- Whether an operation names a polynomial register (R263). -/
def VOp.isPoly : VOp → Bool
  | .setp _ _ => true
  | .ppinit _ _ | .ppmul _ _ | .ppdiv _ | .ppmvV _ _ _ | .ppmvP _ _ _ => true
  | _ => false

/-- Whether a syllable completes once begun, or writes no element one by one, so that no interruption leaves it in part (R215,
R272). -/
def VOp.atOnce : VOp → Bool
  | .kq _ _ _ | .ext _ _ | .ins _ _ | .tocb _ _ => true
  | .ppinit _ _ | .ppdiv _ | .ppmvV _ _ _ | .ppmvP _ _ _ => true
  | .rep _ _ _ | .trunc _ _ | .setp _ _ => true
  | _ => false

/-- Elements a syllable performs: at most 64 of a `ppmv` (R271). -/
def VOp.count (op : VOp) (gl : Nat) : Nat :=
  match op with
  | .ppmvV _ _ _ | .ppmvP _ _ _ => min gl 64
  | _ => gl

/-- Whether the entry takes a place in the VIQ: a grant or width point does not, nor a write to a polynomial register
(R206, R263). -/
def QEntry.counts (e : QEntry) : Bool :=
  match e.op with
  | .v (.trunc _ _) | .v (.setp _ _) => false
  | _ => true

/-! ### Formats accepted (R220, R221, R228, R241, R257, R267): the checks made with the bundle -/

/-- Whether a V operation accepts the captured VTYPE.FMT. -/
def VOp.accepts (op : VOp) (fmt : Fmt) : Bool :=
  match op with
  | .fp2 _ _ | .fma _ _ _ | .fp1 _ _ | .cls _ => fmt.isFp
  | .cmp f _ => match f with
    | .feq | .flt | .fle | .funord => fmt.isFp
    | _ => true
  | .cvt o => decide ((Fmt.ofVtype o.b.toNat).width = fmt.width) || decide (o.d ≠ o.a)
  | .red _ f _ => match f with
    | .sum => fmt.isInt
    | .fsum => fmt.isFp
    | _ => fmt.isInt || fmt.isFp
  | .tocb _ _ => decide (fmt.width = 16)
  | .ppmul _ _ => fmt.isFp
  | .ppmvV _ _ _ | .ppmvP _ _ _ => decide (fmt = .f32)
  | .mem (.amo a _) => match a with
    | .swap => true
    | _ => fmt.isInt || fmt.isFp
  | _ => true

end Sys2Proof.Machine
end

