-- ==== Sys2Proof/Machine/Matrix.lean ====
section
/-! DEFINITION. M syllables: descriptors, their checks, the local memory they touch, and one step of each
(R122, R274 to R296). -/

namespace Sys2Proof.Machine

/-! ### Descriptors (R279, R280) -/

structure Tile where
  m    : Nat
  n    : Nat
  k    : Nat
  row0 : Nat
  col0 : Nat
  idx  : Nat
  tb   : Bool
  split : Bool
  deriving DecidableEq, Repr

def Tile.of (x : Word) : Tile :=
  { m := (x.extractLsb' 16 8).toNat + 1, n := (x.extractLsb' 24 8).toNat + 1, k := (x.extractLsb' 32 16).toNat,
    row0 := (x.extractLsb' 0 8).toNat, col0 := (x.extractLsb' 8 8).toNat, idx := (x.extractLsb' 50 5).toNat,
    tb := x.getLsbD 49, split := x.getLsbD 48 }

structure Opd where
  addr   : Nat
  stride : Nat
  sc     : Nat
  deriving DecidableEq, Repr

def Opd.of (x : Word) : Opd :=
  { addr := (x.extractLsb' 0 22).toNat, stride := (x.extractLsb' 22 20).toNat, sc := (x.extractLsb' 42 5).toNat }

/-- Formats whose operands carry a scale register, and the codebook format (R284). -/
def mfScaled (f : BitVec 4) : Bool := decide (f = 7#4) || decide (f = 8#4)
def mfCode (f : BitVec 4) : Bool := decide (f = 6#4)
def mfInt (f : BitVec 4) : Bool := decide (f = 4#4) || decide (f = 5#4)
def mfNibble (f : BitVec 4) : Bool := decide (f = 5#4) || decide (f = 6#4) || decide (f = 7#4)

/-- Element size in bytes, a nibble format counting 1 (R282, R283). -/
def mfSize (f : BitVec 4) : Nat := if f = 0#4 ∨ f = 1#4 then 2 else 1

/-! ### The checks made with the bundle (R281): true when the values the syllable will capture are refused -/

def opdBad (x : Word) (f : Option (BitVec 4)) : Bool :=
  let o := Opd.of x
  decide (x.extractLsb' 47 17 ≠ 0#17) ||
  (match f with
   | some f => if mfScaled f then false else if mfCode f then decide (7 < o.sc) else decide (o.sc ≠ 0)
   | none => decide (o.sc ≠ 0))

/-- R281 for the tile: must-be-zero bits, its place in the bank, SPLIT. -/
def tileBad (x : Word) (place : Bool) : Bool :=
  let t := Tile.of x
  decide (x.extractLsb' 55 9 ≠ 0#9) || (place && (decide (256 < t.row0 + t.m) || decide (256 < t.col0 + t.n)))

def mopBad (o : MOp) (x y z : Word) (gsz : Nat) : Bool :=
  let t := Tile.of x
  match o with
  | .mma g f =>
    tileBad x true || opdBad y (some f.f) || opdBad z (some f.f) || (t.split && (g || decide (gsz ≠ 8)))
  | .zero => tileBad x true
  | .ld | .st | .drain _ _ _ => tileBad x true || opdBad y none
  | .add _ _ _ => tileBad x true || decide (y.extractLsb' 22 42 ≠ 0#42)
  | .sum _ _ _ => tileBad x false || opdBad y none || decide (z.extractLsb' 22 10 ≠ 0#10)

/-! ### What an entry touches in local memory -/

/-- A run of bytes. -/
structure Span where
  addr : Nat
  len  : Nat
  deriving DecidableEq, Repr

/-- The bytes of elements lo to lo+n−1 of a stored row. -/
def rowSpan (base lo n size : Nat) (nib : Bool) : Span :=
  if n = 0 then { addr := base, len := 0 }
  else if nib then { addr := base + lo / 2, len := (lo + n - 1) / 2 - lo / 2 + 1 }
  else { addr := base + lo * size, len := n * size }

/-- x_i of mma.g and the words of mdrain.i8: 32-bit word i of v[r] within the live part, else 0 (R285, R289). Log 56
(DEDUCED, unsafe). -/
def liveWord (e : QEntry) (s : VecState) (r i : Nat) : Nat :=
  if 4 * i + 4 ≤ e.gl * e.w / 8 then elem 32 (s.reg r) i else 0

/-- Stored row of A for tile row i (R285); the gang's team index places a SPLIT tile (R286). -/
def aRow (g : Bool) (t : Tile) (e : QEntry) (s : VecState) (tidx i : Nat) : Nat :=
  if g then liveWord e s t.idx i else (if t.split then tidx / 4 * t.m else 0) + i

def bCol (t : Tile) (tidx : Nat) : Nat := if t.split then tidx % 4 * t.n else 0

/-- Spans of one operand of an M entry, with the size its address and stride must be multiples of. -/
structure Touch where
  addr   : Nat
  stride : Nat
  align  : Nat
  spans  : List Span
  deriving DecidableEq, Repr

/-- What an entry reads, in the check order of R283. -/
def mopReads (o : MOp) (e : QEntry) (s : VecState) (tidx : Nat) : List Touch :=
  let t := Tile.of e.x
  let a := Opd.of e.y
  let b := Opd.of e.z
  match o with
  | .mma g f =>
    let sz := mfSize f.f
    let nb := mfNibble f.f
    let blocks := (t.k + 31) / 32
    let rows := (List.range t.m).map (aRow g t e s tidx)
    let cb := bCol t tidx
    let ta := Touch.mk a.addr a.stride sz (rows.map (fun r => rowSpan (a.addr + r * a.stride) 0 t.k sz nb))
    let tb := Touch.mk b.addr b.stride sz
      (if t.tb then (List.range t.n).map (fun j => rowSpan (b.addr + (cb + j) * b.stride) 0 t.k sz nb)
       else (List.range t.k).map (fun k => rowSpan (b.addr + k * b.stride) cb t.n sz nb))
    if mfScaled f.f then
      [ta, tb,
       Touch.mk e.sx.toNat 0 1 (rows.map (fun r => Span.mk (e.sx.toNat + r * blocks) blocks)),
       Touch.mk e.sy.toNat 0 1 ((List.range t.n).map (fun j => Span.mk (e.sy.toNat + (cb + j) * blocks) blocks))]
    else [ta, tb]
  | .ld => [Touch.mk a.addr a.stride 4 ((List.range t.m).map (fun i => Span.mk (a.addr + i * a.stride) (4 * t.n)))]
  | .add col _ _ => [Touch.mk a.addr 0 4 [Span.mk a.addr (4 * (if col then t.n else t.m))]]
  | .sum i4 _ _ =>
    if t.tb then [Touch.mk a.addr a.stride 1 ((List.range t.k).map (fun k => rowSpan (a.addr + k * a.stride) 0 t.n 1 i4))]
    else [Touch.mk a.addr a.stride 1 ((List.range t.m).map (fun i => rowSpan (a.addr + i * a.stride) 0 t.k 1 i4))]
  | _ => []

/-- Output element size of a drain (R288). -/
def drainSize (kind : Nat) : Nat := match kind with | 0 => 4 | 1 => 2 | _ => 1

/-- What an entry writes. -/
def mopWrites (o : MOp) (e : QEntry) : List Touch :=
  let t := Tile.of e.x
  let a := Opd.of e.y
  match o with
  | .st => [Touch.mk a.addr a.stride 4 ((List.range t.m).map (fun i => Span.mk (a.addr + i * a.stride) (4 * t.n)))]
  | .drain kind _ _ =>
    let sz := drainSize kind
    [Touch.mk a.addr a.stride sz ((List.range t.m).map (fun i => Span.mk (a.addr + i * a.stride) (sz * t.n)))]
  | .sum _ _ _ =>
    let ad := (e.z.extractLsb' 0 22).toNat
    [Touch.mk ad 0 4 [Span.mk ad (4 * (if t.tb then t.n else t.m))]]
  | _ => []

/-- Spans in ascending address. -/
def insertSpan (x : Span) : List Span → List Span
  | [] => [x]
  | y :: r => if x.addr ≤ y.addr then x :: y :: r else y :: insertSpan x r

/-- R283 for one operand: alignment of its address, then of its stride, then its bytes in ascending order. Log 64 (DEDUCED,
unsafe). -/
def touchFault (lm : Nat) (t : Touch) : Option TrapInfo :=
  if t.addr % t.align ≠ 0 then some { cause := .lmalign, tval := BitVec.ofNat 64 t.addr }
  else if t.stride % t.align ≠ 0 then some { cause := .lmalign, tval := BitVec.ofNat 64 (t.addr + t.stride) }
  else
    let ss := (t.spans.filter (fun s => decide (lm < s.addr + s.len) && decide (s.len ≠ 0))).foldr insertSpan []
    match ss with
    | [] => none
    | s :: _ => some { cause := .lmrange, tval := BitVec.ofNat 64 (max s.addr lm) }

def firstSome {α β : Type} (f : α → Option β) : List α → Option β
  | [] => none
  | a :: r => match f a with | some b => some b | none => firstSome f r

/-- R283. -/
def mopFault (lm : Nat) (o : MOp) (e : QEntry) (s : VecState) (tidx : Nat) : Option TrapInfo :=
  firstSome (touchFault lm) (mopReads o e s tidx ++ mopWrites o e)

/-- Steps of an entry: K groups, rows or sums (R294). An mma with K = 0 takes one. Log 64 (DEDUCED, unsafe). -/
def mopSteps (o : MOp) (e : QEntry) : Nat :=
  let t := Tile.of e.x
  match o with
  | .mma _ _ => if t.k = 0 then 1 else (t.k + 15) / 16
  | .sum _ _ _ => if t.tb then t.n else t.m
  | _ => t.m

/-- Cycles of a step, the charge of R277 and R278. -/
def mopCycles (o : MOp) (e : QEntry) : Nat :=
  let t := Tile.of e.x
  let bm := (t.m + 127) / 128
  let bn := (t.n + 127) / 128
  match o with
  | .mma _ f => (if mfNibble f.f then 1 else if f.f = 0#4 ∨ f.f = 1#4 then 8 else 4) * bm * bn
  | .zero => 1
  | .sum _ _ _ => (t.k + 63) / 64
  | _ => bn

/-! ### Cells and operand elements -/

def VecState.cell (s : VecState) (r c : Nat) : Nat := (look 0#32 s.acc (r * 256 + c)).toNat

def VecState.setCell (s : VecState) (r c v : Nat) : VecState :=
  { s with acc := store 0#32 s.acc (r * 256 + c) (BitVec.ofNat 32 v) }

/-- Element k of a stored row (R103, R282). -/
def rowElem (rd : Nat → Byte) (base k size : Nat) (nib : Bool) : Nat :=
  if nib then
    let b := (rd (base + k / 2)).toNat
    if k % 2 = 0 then b % 16 else b / 16
  else readLE rd (base + k * size) size

/-- The value of a float-format operand element (R284): c4 through its codebook, mx4 through the preset. -/
def mfVal (f : BitVec 4) (s : VecState) (cb x : Nat) : FVal :=
  match f.toNat with
  | 0 => ffBf16.decode x
  | 1 => ffF16.decode x
  | 2 => ffE4m3.decode x
  | 3 => ffE5m2.decode x
  | 6 => match ffBf16.decode (look 0#16 s.cb (cb * 16 + x)).toNat with
    | .nan _ => .nan false
    | v => v
  | 7 => ffBf16.decode (e2m1Entry x)
  | _ => ffE4m3.decode x

/-- The value of an integer operand element. -/
def mfIntVal (f : BitVec 4) (u : Bool) (x : Nat) : Int :=
  if f = 5#4 then toSigned 4 x else if u then (x : Int) else toSigned 8 x

/-- An element scaled by its block's byte: 0xFF gives a quiet NaN (R284). -/
def mxScaled (v : FVal) (sc : Nat) : FVal := if sc = 0xFF then .nan false else v.scale ((sc : Int) - 127)

/-! ### One step -/

/-- The outcome of a step: the vector state (bank), bytes written to local memory, flags. -/
structure MRes where
  vec : VecState
  out : List (Nat × Byte)
  fl  : Flags
  deriving DecidableEq, Repr

/-- Group q of one cell (R122). -/
def mmaCell (f : MF) (acc0 : Nat) (terms : List (FVal × FVal)) (ints : List (Int × Int)) (pad : Nat) : Nat × Flags :=
  if mfInt f.f then
    let x := ints.foldl (fun (a : Int) p => a + p.1 * p.2) (toSigned 32 acc0)
    if f.s then satBits true 32 x else (toUnsigned 32 x, 0)
  else
    let t0 := Terms.none.push (ffF32.decode acc0)
    let r := terms.foldl (fun (a : Terms × Flags) p =>
      let q := a.1.pushProduct p.1 p.2
      (q.1, a.2 ||| q.2)) (t0, 0)
    let t := if pad = 0 then r.1 else r.1.push (.fin false 0 0)
    let o := t.fsum ffF32 Rnd.rne
    (o.1, r.2 ||| o.2 ||| (if t.pinf && t.ninf then flagNV else 0))

/-- One K group of mma or mma.g over every cell of the tile (R285). -/
def mmaStep (g : Bool) (f : MF) (e : QEntry) (s : VecState) (rd : Nat → Byte) (tidx q : Nat) : MRes :=
  let t := Tile.of e.x
  let a := Opd.of e.y
  let b := Opd.of e.z
  let sz := mfSize f.f
  let nb := mfNibble f.f
  let blocks := (t.k + 31) / 32
  let cb := bCol t tidx
  let ks := (List.range 16).filterMap (fun i => if 16 * q + i < t.k then some (16 * q + i) else none)
  let blk := 16 * q / 32
  let aRaw := fun i k => rowElem rd (a.addr + aRow g t e s tidx i * a.stride) k sz nb
  let bRaw := fun k j =>
    if t.tb then rowElem rd (b.addr + (cb + j) * b.stride) k sz nb
    else rowElem rd (b.addr + k * b.stride) (cb + j) sz nb
  let aVal := fun i k =>
    let v := mfVal f.f s a.sc (aRaw i k)
    if mfScaled f.f then mxScaled v (rd (e.sx.toNat + aRow g t e s tidx i * blocks + blk)).toNat else v
  let bVal := fun k j =>
    let v := mfVal f.f s b.sc (bRaw k j)
    if mfScaled f.f then mxScaled v (rd (e.sy.toNat + (cb + j) * blocks + blk)).toNat else v
  (List.range t.m).foldl (fun (r : MRes) i =>
    (List.range t.n).foldl (fun (r : MRes) j =>
      let acc0 := if q = 0 ∧ ¬ f.c then 0 else s.cell (t.row0 + i) (t.col0 + j)
      let x :=
        if t.k = 0 then (acc0, (0 : Flags))
        else if mfInt f.f then
          mmaCell f acc0 [] (ks.map (fun k => (mfIntVal f.f f.u (aRaw i k), mfIntVal f.f f.v (bRaw k j)))) 0
        else mmaCell f acc0 (ks.map (fun k => (aVal i k, bVal k j))) [] (16 - ks.length)
      { r with vec := r.vec.setCell (t.row0 + i) (t.col0 + j) x.1, fl := r.fl ||| x.2 }) r)
    { vec := s, out := [], fl := 0 }

/-- The n low bytes of x at address a. -/
def leBytes : Nat → Nat → Nat → List (Nat × Byte)
  | _, 0, _ => []
  | a, n + 1, x => (a, BitVec.ofNat 8 x) :: leBytes (a + 1) n (x / 256)

/-- R289. -/
def requant (acc mult shift bias zout : Nat) : Nat × Flags :=
  let t := (toSigned 32 acc + toSigned 32 bias) * toSigned 32 mult
  let t := toSigned 64 (toUnsigned 64 t)
  let sh := shift % 64
  let t := if sh = 0 then t else toSigned 64 (toUnsigned 64 (t + (2 ^ (sh - 1) : Nat)))
  let t := t / (2 ^ sh : Nat)
  satBits true 8 (t + toSigned 32 zout)

/-- One drained element of row i, column j (R288, R289). -/
def drainElem (kind : Nat) (q : Reg) (e : QEntry) (s : VecState) (t : Tile) (i j : Nat) : Nat × Flags :=
  let c := s.cell (t.row0 + i) (t.col0 + j)
  match kind with
  | 0 => (c, 0)
  | 1 =>
    let r : Rnd := { mode := vtRM e.vtype, seed := e.seed, g := BitVec.ofNat 64 ((t.row0 + i) * 256 + (t.col0 + j)) }
    convert .f32 .bf16 c r
  | _ => requant c (liveWord e s q.toNat j) (liveWord e s ((q.toNat + 1) % 32) j % 64)
      (liveWord e s ((q.toNat + 2) % 32) j) (liveWord e s ((q.toNat + 3) % 32) j)

/-- Row i of a drain, with `.clr` (R288). -/
def drainRow (kind : Nat) (q : Reg) (clr : Bool) (e : QEntry) (s : VecState) (i : Nat) : MRes :=
  let t := Tile.of e.x
  let a := Opd.of e.y
  let sz := drainSize kind
  (List.range t.n).foldl (fun (r : MRes) j =>
    let x := drainElem kind q e s t i j
    { vec := if clr then r.vec.setCell (t.row0 + i) (t.col0 + j) 0 else r.vec,
      out := r.out ++ leBytes (a.addr + i * a.stride + j * sz) sz x.1, fl := r.fl ||| x.2 })
    { vec := s, out := [], fl := 0 }

/-- R290: one cell. -/
def maddCell (isInt sat : Bool) (c u : Nat) : Nat × Flags :=
  if isInt then
    let x := toSigned 32 c + toSigned 32 u
    if sat then satBits true 32 x else (toUnsigned 32 x, 0)
  else ffF32.finish ((ffF32.decode c).add (ffF32.decode u) .rne) Rnd.rne

/-- R291: sum x. -/
def msumWord (i4 u sat : Bool) (e : QEntry) (rd : Nat → Byte) (x : Nat) : Nat × Flags :=
  let t := Tile.of e.x
  let a := Opd.of e.y
  let f : BitVec 4 := if i4 then 5#4 else 4#4
  let el := fun k =>
    if t.tb then rowElem rd (a.addr + k * a.stride) x 1 i4 else rowElem rd (a.addr + x * a.stride) k 1 i4
  let s := (List.range t.k).foldl (fun (acc : Int) k => acc + mfIntVal f u (el k)) 0
  let v := toSigned 32 (e.z.extractLsb' 32 32).toNat * s
  if sat then satBits true 32 v else (toUnsigned 32 v, 0)

/-- Step `q` of an entry (R285 to R291). -/
def mopStep (o : MOp) (e : QEntry) (s : VecState) (rd : Nat → Byte) (tidx q : Nat) : MRes :=
  let t := Tile.of e.x
  let a := Opd.of e.y
  match o with
  | .mma g f => mmaStep g f e s rd tidx q
  | .zero =>
    { vec := (List.range t.n).foldl (fun v j => v.setCell (t.row0 + q) (t.col0 + j) 0) s, out := [], fl := 0 }
  | .ld =>
    { vec := (List.range t.n).foldl
        (fun v j => v.setCell (t.row0 + q) (t.col0 + j) (readLE rd (a.addr + q * a.stride + 4 * j) 4)) s,
      out := [], fl := 0 }
  | .st =>
    { vec := s, out := (List.range t.n).flatMap
        (fun j => leBytes (a.addr + q * a.stride + 4 * j) 4 (s.cell (t.row0 + q) (t.col0 + j))), fl := 0 }
  | .drain kind r clr => drainRow kind r clr e s q
  | .add col isInt sat =>
    (List.range t.n).foldl (fun (r : MRes) j =>
      let u := readLE rd (a.addr + 4 * (if col then j else q)) 4
      let x := maddCell isInt sat (s.cell (t.row0 + q) (t.col0 + j)) u
      { r with vec := r.vec.setCell (t.row0 + q) (t.col0 + j) x.1, fl := r.fl ||| x.2 })
      { vec := s, out := [], fl := 0 }
  | .sum i4 u sat =>
    let x := msumWord i4 u sat e rd q
    { vec := s, out := leBytes ((e.z.extractLsb' 0 22).toNat + 4 * q) 4 x.1, fl := x.2 }

/-- The bytes step q reads, for the poison check of R295. -/
def mopStepReads (o : MOp) (e : QEntry) (s : VecState) (tidx q : Nat) : List Span :=
  let t := Tile.of e.x
  let a := Opd.of e.y
  let b := Opd.of e.z
  match o with
  | .mma g f =>
    let sz := mfSize f.f
    let nb := mfNibble f.f
    let n := min 16 (t.k - 16 * q)
    let blocks := (t.k + 31) / 32
    let cb := bCol t tidx
    let rows := (List.range t.m).map (aRow g t e s tidx)
    if n = 0 then []
    else rows.map (fun r => rowSpan (a.addr + r * a.stride) (16 * q) n sz nb) ++
      (if t.tb then (List.range t.n).map (fun j => rowSpan (b.addr + (cb + j) * b.stride) (16 * q) n sz nb)
       else (List.range n).map (fun k => rowSpan (b.addr + (16 * q + k) * b.stride) cb t.n sz nb)) ++
      (if mfScaled f.f then
         rows.map (fun r => ({ addr := e.sx.toNat + r * blocks + q / 2, len := 1 } : Span)) ++
         (List.range t.n).map (fun j => ({ addr := e.sy.toNat + (cb + j) * blocks + q / 2, len := 1 } : Span))
       else [])
  | .ld => [{ addr := a.addr + q * a.stride, len := 4 * t.n }]
  | .add col _ _ => if col then [{ addr := a.addr, len := 4 * t.n }] else [{ addr := a.addr + 4 * q, len := 4 }]
  | .sum i4 _ _ =>
    if t.tb then (List.range t.k).map (fun k => rowSpan (a.addr + k * a.stride) q 1 1 i4)
    else [rowSpan (a.addr + q * a.stride) 0 t.k 1 i4]
  | _ => []

/-- The 64-byte blocks of a bank row that hold a tile's cells (R274). -/
def tileBlocks (t : Tile) (row : Nat) : List Nat :=
  (List.range ((t.col0 + t.n - 1) / 16 - t.col0 / 16 + 1)).map (row * 16 + t.col0 / 16 + ·)

/-- The bank blocks step q reads, for the poison check of R295. Log 22 (DEDUCED, unsafe). -/
def mopStepBlocks (o : MOp) (e : QEntry) (q : Nat) : List Nat :=
  let t := Tile.of e.x
  match o with
  | .mma _ f => if t.k = 0 ∨ (q = 0 ∧ ¬ f.c) then [] else (List.range t.m).flatMap (fun i => tileBlocks t (t.row0 + i))
  | .st | .drain _ _ _ | .add _ _ _ => tileBlocks t (t.row0 + q)
  | _ => []

/-- The vector registers an M entry reads (R296). -/
def mopVecReads (o : MOp) (e : QEntry) : List Nat :=
  match o with
  | .mma true _ => [(Tile.of e.x).idx]
  | .drain 2 q _ => [q.toNat, (q.toNat + 1) % 32, (q.toNat + 2) % 32, (q.toNat + 3) % 32]
  | _ => []

/-- The 64-byte blocks of vector registers, register × 128 + block, in which the live words that a step reads lie (R285, R289). -/
def mopStepVec (o : MOp) (e : QEntry) : List Nat :=
  let t := Tile.of e.x
  let n := match o with
    | .mma _ _ => if t.k = 0 then 0 else t.m
    | _ => t.n
  let words := (List.range n).filter (fun i => decide (4 * i + 4 ≤ e.gl * e.w / 8))
  (mopVecReads o e).flatMap (fun r => words.map (fun i => r * 128 + i / 16))

/-- The codebooks an M entry reads (R242). -/
def mopCbReads (o : MOp) (e : QEntry) : List Nat :=
  match o with
  | .mma _ f => if mfCode f.f then [(Opd.of e.y).sc, (Opd.of e.z).sc] else []
  | _ => []

end Sys2Proof.Machine
end

