-- ==== Sys2Proof/Machine/MemState.lean ====
section
/-! DEFINITION. Storage and translation state of the module: memory at its homes, local memory and its full/empty
bits, caches, translations, link sets and knot tables (R45 to R61, R173 to R183, R256, R393). Plain data. -/

namespace Sys2Proof.Machine

/-- A populated range of physical addresses (R173). -/
structure Region where
  base : Nat
  size : Nat
  deriving DecidableEq, Repr

/-- An address space: its number, root, dirty map and partition (R174, R178), and whether it is checkpointed (R396). -/
structure Space where
  asn   : Nat
  root  : Nat
  dmap  : Nat
  part  : Nat
  ckpt  : Bool
  deriving DecidableEq, Repr

/-- An entry of a knot binding table: knot address, region base and length (R61), with the address space they lie in. -/
structure KnotEnt where
  asn  : Nat
  knot : Nat
  base : Nat
  len  : Nat
  deriving DecidableEq, Repr

/-- Whose write to a peer it is: that of a team bound to a slot, or of a stream, its ended teams' writes included (R75). -/
inductive Sender where
  | team (tk : Nat)
  | stream (k : Nat)
  deriving DecidableEq, Repr

/-- A write to a peer's memory that its link has not acknowledged (R58, R401): whose it is, the number of the team's engine
command that wrote (none: a write of the core), where it went, and whether the link went down first. Log 103 (DESIGN CHOICE,
unsafe). -/
structure Unack where
  who  : Sender
  cmd  : Option Nat
  asn  : Nat
  va   : Nat
  pa   : Nat
  dead : Bool
  deriving DecidableEq, Repr

/-- Storage, caches and translations. -/
structure MemSys where
  /-- Bytes at their homes by physical address (R55, R173); an unlisted byte reads 0. -/
  mem       : List Host.Cell
  /-- Poisoned 64-byte blocks of memory (R393). -/
  memPoison : List Nat
  /-- What instruction fetch reads (R57): bytes placed by the resident OS, by physical address. -/
  code      : List Host.Cell
  /-- Local memory of every core, byte off of core c at c × 3,145,728 + off (R19, R45). -/
  lm        : List Host.Cell
  /-- Full granules of local memory (R52). -/
  fe        : List (Nat × Bool)
  lmPoison  : List Nat
  cores     : List (Nat × Core)
  /-- Every cached translation of the module, newest first. -/
  tlb       : List TlbEnt
  spaces    : List Space
  populated : List Region
  /-- Link sets by team slot, physical lines (R256). -/
  links     : List (Nat × List Nat)
  /-- Knot tables: key partition × 65,536 + index (R61). -/
  knots     : List (Nat × KnotEnt)
  /-- Writes to peers in order, up to their acknowledgment (R401). -/
  unacked   : List Unack
  deriving DecidableEq, Repr

/-- HBM4E main memory, populated whole (R5, R173). Log 3 (DEDUCED, unsafe). -/
def hbmRegion : Region := { base := 0, size := 824633720832 }

/-- Storage at reset: nothing listed; region 0x00 populated as R173 gives it. Log 3 (DEDUCED, unsafe). -/
def MemSys.reset : MemSys :=
  { mem := [], memPoison := [], code := [], lm := [], fe := [], lmPoison := [], cores := [], tlb := [], spaces := [],
    populated := [hbmRegion], links := [], knots := [], unacked := [] }

/-- The memory's canonical form: addresses strictly rising and no entry equal to what an unlisted byte reads as. Log 4
(DESIGN CHOICE, safe). -/
abbrev Memory.wf (m : List Host.Cell) : Prop := canonical 0#8 m = true

end Sys2Proof.Machine
end

