-- ==== Sys2Proof/Machine/Mem.lean ====
section
/-! DEFINITION. Named operations over storage: homes, local memory, the L1, link sets, translation with its accessed
and dirty updates (R47 to R59, R173 to R183, R256, R393, R396). -/

namespace Sys2Proof.Machine

/-! ### Cores -/

def MemSys.core (m : MemSys) (c : Nat) : Core := look Core.reset m.cores c

def MemSys.setCore (m : MemSys) (c : Nat) (x : Core) : MemSys := { m with cores := put m.cores c x }

/-! ### Homes (R55) -/

/-- Whether a physical address is populated (R173, R177). -/
def MemSys.isPop (m : MemSys) (pa : Nat) : Bool :=
  m.populated.any (fun r => decide (r.base ≤ pa) && decide (pa < r.base + r.size))

/-- Log 1 (DESIGN CHOICE, unsafe). -/
def MemSys.byteAt (m : MemSys) (pa : Nat) : Byte := look 0#8 m.mem pa

/-- n bytes at their home, little-endian. -/
def MemSys.homeRead (m : MemSys) (pa n : Nat) : Nat := readLE m.byteAt pa n

/-- Who writes at a home, for link sets (R256): a team slot, or any other party. -/
abbrev Party := Option Nat

/-- R256: a write of a line at its home breaks the links of every party but the writer. -/
def MemSys.breakLinks (m : MemSys) (line : Nat) (who : Party) : MemSys :=
  { m with links := m.links.map (fun e => if who = some e.1 then e else (e.1, e.2.filter (fun l => l ≠ line))) }

/-- R256: the n bytes from an address are written by a party other than a team slot. -/
def MemSys.breakRange (m : MemSys) (pa n : Nat) : MemSys :=
  { m with links := m.links.map (fun e => (e.1, e.2.filter (fun l => !(decide (pa / 64 ≤ l) && decide (l < (pa + n + 63) / 64))))) }

/-- Writes n bytes at their home; an access never crosses a line. -/
def MemSys.homeWrite (m : MemSys) (pa n x : Nat) (who : Party) : MemSys :=
  { m.breakLinks (pa / 64) who with mem := storeLE m.mem pa n x }

def MemSys.poisoned (m : MemSys) (pa : Nat) : Bool := m.memPoison.contains (pa / 64)

/-- R393: a full-block copy unit rewrites a block and clears its poison. -/
def MemSys.unpoison (m : MemSys) (block : Nat) : MemSys := { m with memPoison := m.memPoison.filter (fun b => b ≠ block) }

/-! ### Local memory (R19, R52) -/

def lmKey (core off : Nat) : Nat := core * Config.lmBytes + off

/-- Log 1 (DESIGN CHOICE, unsafe). -/
def MemSys.lmByte (m : MemSys) (core off : Nat) : Byte := look 0#8 m.lm (lmKey core off)

def MemSys.lmRead (m : MemSys) (core off n : Nat) : Nat := readLE (m.lmByte core) off n

def MemSys.lmWrite (m : MemSys) (core off n x : Nat) : MemSys := { m with lm := storeLE m.lm (lmKey core off) n x }

/-- The full/empty bit of the granule that holds a byte. -/
def MemSys.isFull (m : MemSys) (core off : Nat) : Bool := look false m.fe (lmKey core off / 16)

def MemSys.setFull (m : MemSys) (core off : Nat) (b : Bool) : MemSys :=
  { m with fe := store false m.fe (lmKey core off / 16) b }

def MemSys.lmBad (m : MemSys) (core off : Nat) : Bool := m.lmPoison.contains (lmKey core off / 64)

/-! ### L1 data cache (R54) -/

/-- The 64 bytes of a line at its home. -/
def MemSys.lineData (m : MemSys) (line : Nat) : BitVec 512 := BitVec.ofNat 512 (m.homeRead (line * 64) 64)

/-- Writes the dirty bytes of a line at their home, byte by byte from `k` bytes left. -/
def writeBytes (data : BitVec 512) (dirty : BitVec 64) (base : Nat) : Nat → List Host.Cell → List Host.Cell
  | 0, mem => mem
  | k + 1, mem =>
    let mem := writeBytes data dirty base k mem
    if dirty.getLsbD k then store 0#8 mem (base + k) (data.extractLsb' (8 * k) 8) else mem

/-- The single writer of a dirty line, if one slot wrote it all (R256). -/
def lineParty (core : Nat) (l : Line) : Party :=
  if l.wr = 1#2 then some (2 * core) else if l.wr = 2#2 then some (2 * core + 1) else none

/-- Memory of a peer module (R173). -/
def isPeer (pa : Nat) : Bool := decide (16 ≤ pa / 2 ^ 44) && decide (pa / 2 ^ 44 ≤ 31)

/-- Where a line's first dirty byte lies: its virtual address. -/
def Line.firstDirty (l : Line) : Nat :=
  let off := ((List.range 64).find? (fun i => l.dirty.getLsbD i)).getD 0
  match l.vas with
  | v :: _ => v.2 * 64 + off
  | [] => l.pa * 64 + off

/-- What a line written back to a peer leaves to be acknowledged, for each slot that wrote it (R401). -/
def Line.sent (core : Nat) (l : Line) : List Unack :=
  if isPeer (l.pa * 64) then
    ([0, 1].filter (fun i => l.wr.getLsbD i)).map (fun i =>
      { who := .team (2 * core + i), cmd := none, asn := (l.vas.headD (0, 0)).1, va := l.firstDirty, pa := l.pa * 64, dead := false })
  else []

/-- Writes a line's dirty bytes back to the home (R54). A block poisoned at its home stays so, and one rewritten since stays
clean (R326); an error in the line itself poisons the block (R393). -/
def MemSys.writeBack (m : MemSys) (core : Nat) (l : Line) : MemSys :=
  if l.dirty = 0#64 then m
  else
    { m.breakLinks l.pa (lineParty core l) with
      mem := writeBytes l.data l.dirty (l.pa * 64) 64 m.mem
      memPoison := if l.lost && !m.memPoison.contains l.pa then l.pa :: m.memPoison else m.memPoison
      unacked := m.unacked ++ l.sent core }

/-- Writes back every dirty line of a core that `p` selects; the lines stay, clean. -/
def MemSys.cleanLines (m : MemSys) (core : Nat) (p : Line → Bool) : MemSys :=
  let c := m.core core
  let m := c.l1.foldl (fun (m : MemSys) l => if p l then m.writeBack core l else m) m
  m.setCore core { m.core core with
    l1 := c.l1.map (fun l => if p l then { l with dirty := 0#64, wr := 0#2, poison := l.poison || l.lost, lost := false } else l) }

/-- Drops every line of a core that `p` selects; a caller writes dirty ones back first. -/
def MemSys.dropLines (m : MemSys) (core : Nat) (p : Line → Bool) : MemSys :=
  m.setCore core { m.core core with l1 := (m.core core).l1.filter (fun l => !p l) }

/-- Writes back and drops the lines `p` selects. -/
def MemSys.flushLines (m : MemSys) (core : Nat) (p : Line → Bool) : MemSys := (m.cleanLines core p).dropLines core p

def findLine (ls : List Line) (pa : Nat) : Option Line := ls.find? (fun l => decide (l.pa = pa))

def replaceLine (ls : List Line) (x : Line) : List Line := ls.map (fun l => if l.pa = x.pa then x else l)

/-- Makes room for one line: a full L1 evicts its oldest (R54: an eviction may come at any time) whose home still answers
(R401). Log 20 (DESIGN CHOICE, safe). Log 104 (DESIGN CHOICE, safe). -/
def MemSys.makeRoom (m : MemSys) (core : Nat) : MemSys :=
  if (m.core core).l1.length < Config.l1Lines then m
  else
    match (m.core core).l1.find? (fun l => decide (l.dirty = 0#64) || m.isPop (l.pa * 64)) with
    | none => m
    | some l =>
      let m := m.writeBack core l
      m.setCore core { m.core core with l1 := (m.core core).l1.filter (fun x => decide (x.pa ≠ l.pa)) }

/-- The line holding pa, brought in from its home if absent, and noted under the virtual line that reached it. -/
def MemSys.fillLine (m : MemSys) (core pa asn va : Nat) : MemSys × Line :=
  match findLine (m.core core).l1 (pa / 64) with
  | some l =>
    let l := if l.vas.contains (asn, va / 64) then l else { l with vas := (asn, va / 64) :: l.vas }
    (m.setCore core { m.core core with l1 := replaceLine (m.core core).l1 l }, l)
  | none =>
    let m := m.makeRoom core
    let l : Line :=
      { pa := pa / 64, vas := [(asn, va / 64)], data := m.lineData (pa / 64), dirty := 0, wr := 0,
        poison := m.memPoison.contains (pa / 64), lost := false }
    (m.setCore core { m.core core with l1 := (m.core core).l1 ++ [l] }, l)

/-- n bytes of a line from offset off. -/
def Line.read (l : Line) (off n : Nat) : Nat := (l.data.extractLsb' (8 * off) (8 * n)).toNat

/-- Stores n bytes into a line. -/
def Line.write (l : Line) (off n x slot : Nat) : Line :=
  let msk : BitVec 512 := BitVec.ofNat 512 ((2 ^ (8 * n) - 1) * 2 ^ (8 * off))
  { l with
    data := (l.data &&& ~~~msk) ||| (BitVec.ofNat 512 (x % 2 ^ (8 * n) * 2 ^ (8 * off)))
    dirty := l.dirty ||| BitVec.ofNat 64 ((2 ^ n - 1) * 2 ^ off)
    wr := l.wr ||| (1#2 <<< slot) }

/-- A store into the L1 (R54). -/
def MemSys.l1Write (m : MemSys) (core slot pa asn va n x : Nat) : MemSys :=
  let r := m.fillLine core pa asn va
  r.1.setCore core { r.1.core core with l1 := replaceLine (r.1.core core).l1 (r.2.write (pa % 64) n x slot) }

/-- R55: the issuing core's line is written back and invalidated before an atomic. Log 17 (DEDUCED, unsafe). -/
def MemSys.evictLine (m : MemSys) (core pa : Nat) : MemSys := m.flushLines core (fun l => decide (l.pa = pa / 64))

/-- The lines of a region of virtual addresses (R62, R63). -/
def inRegion (asn base len : Nat) (l : Line) : Bool :=
  l.vas.any (fun v => decide (v.1 = asn) && decide (base < v.2 * 64 + 64) && decide (v.2 * 64 < base + len))

/-! ### Page walk (R174 to R176) -/

/-- A level of the table: index shift and bits, the page size of a leaf there (0 where none is allowed), whether
the next level is L0, and whether this level is L0. -/
structure PtLevel where
  shift : Nat
  bits  : Nat
  leaf  : Nat
  next0 : Bool
  last  : Bool
  deriving DecidableEq, Repr

def ptLevels : List PtLevel :=
  [{ shift := 48, bits := 9, leaf := 0, next0 := false, last := false },
   { shift := 39, bits := 9, leaf := 0, next0 := false, last := false },
   { shift := 30, bits := 9, leaf := 1073741824, next0 := false, last := false },
   { shift := 21, bits := 9, leaf := 2097152, next0 := true, last := false },
   { shift := 16, bits := 5, leaf := 65536, next0 := false, last := true }]

/-- Bit field [lo+n−1:lo] of an entry. -/
def fld (x lo n : Nat) : Nat := x / 2 ^ lo % 2 ^ n

/-- R175, R176: a well-formed leaf at a level that allows one. -/
def leafOk (l : PtLevel) (x : Nat) : Bool :=
  decide (l.leaf ≠ 0) && decide (fld x 52 12 = 0) && decide (fld x 14 2 = 0) && decide (fld x 7 1 = 0) &&
  decide (fld x 16 36 * 65536 % l.leaf = 0)

/-- R175, R176: a well-formed table pointer. -/
def tableOk (l : PtLevel) (x : Nat) : Bool :=
  !l.last && decide (fld x 52 12 = 0) && decide (fld x 2 6 = 0) && (l.next0 || decide (fld x 8 4 = 0))

/-- What a walk comes to. Log 81 (DEDUCED, unsafe). -/
inductive Walk where
  /-- The leaf's address, the leaf and its page size. -/
  | leaf (at' x size : Nat)
  /-- No valid, well-formed, populated entry. -/
  | none
  /-- An entry lies in a poisoned block (R393). -/
  | poison
  deriving DecidableEq, Repr

/-- The walk (R174, R176). -/
def walkFrom (m : MemSys) (va : Nat) : Nat → List PtLevel → Walk
  | _, [] => .none
  | tbl, l :: r =>
    let a := tbl + va / 2 ^ l.shift % 2 ^ l.bits * 8
    if !m.isPop a then .none
    else if m.poisoned a then .poison
    else
      let x := m.homeRead a 8
      if x % 2 = 0 then .none
      else if fld x 1 1 = 1 then
        if tableOk l x then walkFrom m va (fld x 8 44 * 256) r else .none
      else if leafOk l x then .leaf a x l.leaf else .none

/-- The leaf of a walk, if it reaches one. -/
def Walk.leaf? : Walk → Option (Nat × Nat × Nat)
  | .leaf a x n => some (a, x, n)
  | .none => Option.none
  | .poison => Option.none

/-! ### Translation (R177 to R183) -/

/-- Kinds of access in R177; atomics take the write column. -/
inductive Acc where
  | read | write | fetch
  deriving DecidableEq, Repr

def Acc.pageFault : Acc → Cause
  | .write => .pageStore
  | _ => .pageLoad

/-- Entries a place holds (R180): of the cluster TLB, the four ways of one set. -/
def TlbPlace.room : TlbPlace → Nat
  | .inst _ => 64
  | .data _ => 128
  | .bank _ _ => 16
  | .cluster _ => 4
  | .hub => 16384

/-- The TLB behind a core's own (R180). -/
def TlbPlace.backing : TlbPlace → Option TlbPlace
  | .inst c | .data c | .bank c _ => some (.cluster (c / 8))
  | .cluster _ | .hub => none

/-- Whether two entries compete for the same room: a place, or a set of a cluster's 4,096 sets. Log 80 (DESIGN CHOICE,
unsafe). -/
def TlbEnt.competes (e f : TlbEnt) : Bool :=
  decide (e.place = f.place) &&
  (match e.place with
   | .cluster _ => decide (e.va / e.size % 4096 = f.va / f.size % 4096)
   | _ => true)

/-- The newest n of the entries `p` selects, and every other. -/
def keepNewest (p : TlbEnt → Bool) : Nat → List TlbEnt → List TlbEnt
  | _, [] => []
  | n, f :: r =>
    if p f then (match n with | 0 => keepNewest p 0 r | n + 1 => f :: keepNewest p n r)
    else f :: keepNewest p n r

/-- An entry is cached in its place, where the oldest goes if no room is left. Log 80 (DESIGN CHOICE, unsafe). -/
def MemSys.tlbAdd (m : MemSys) (e : TlbEnt) : MemSys :=
  { m with tlb := e :: keepNewest e.competes (e.place.room - 1) m.tlb }

/-- The translation of an address that a place holds. -/
def MemSys.tlbFind (m : MemSys) (u : TlbPlace) (asn va : Nat) : Option TlbEnt :=
  m.tlb.find? (fun e => decide (e.place = u) && decide (e.asn = asn) && decide (e.va ≤ va) && decide (va < e.va + e.size))

/-- The translation an address has in the TLB behind a place. -/
def MemSys.backingFind (m : MemSys) (u : TlbPlace) (asn va : Nat) : Option TlbEnt :=
  match u.backing with
  | some b => m.tlbFind b asn va
  | none => none

/-- R179: A is set when a translation is first cached from a leaf whose A bit is clear, before the leaf's own checks. The
entry enters the place that asked and the TLB behind it. Log 82 (DESIGN CHOICE, unsafe). -/
def MemSys.cacheLeaf (m : MemSys) (u : TlbPlace) (asn va : Nat) (w : Nat × Nat × Nat) : MemSys × TlbEnt :=
  let leaf := if fld w.2.1 4 1 = 1 then w.2.1 else w.2.1 + 16
  let m := if fld w.2.1 4 1 = 1 then m else m.homeWrite w.1 8 leaf none
  let e : TlbEnt :=
    { place := u, asn := asn, va := va / w.2.2 * w.2.2, size := w.2.2, leafAt := w.1, leaf := leaf,
      dc := decide (fld w.2.1 5 1 = 1), marked := [] }
  let m := match u.backing with
    | some b => m.tlbAdd { e with place := b }
    | none => m
  (m.tlbAdd e, e)

/-- The translation in force for an address as a place sees it: its own (R182), that of the TLB behind it, or the walk's,
then cached; else whether the walk met poison. Log 82 (DESIGN CHOICE, unsafe). -/
def MemSys.lookup (m : MemSys) (u : TlbPlace) (asn root va : Nat) : MemSys × Except Bool TlbEnt :=
  match m.tlbFind u asn va with
  | some e => (m, .ok e)
  | none =>
    match m.backingFind u asn va with
    | some e => (m.tlbAdd { e with place := u }, .ok { e with place := u })
    | none =>
      match walkFrom m va root ptLevels with
      | .none => (m, .error false)
      | .poison => (m, .error true)
      | .leaf a x n => let r := m.cacheLeaf u asn va (a, x, n); (r.1, .ok r.2)

/-- Stored format of a page (R119): BLK as a block size, EF. -/
def pageBlk (leaf : Nat) : Nat := match fld leaf 12 2 with | 1 => 16 | 2 => 32 | 3 => 64 | _ => 0
def pageEF (leaf : Nat) : Nat := fld leaf 8 4

/-- R176: leaves that raise FORMAT whatever the access. -/
def leafFormatBad (leaf : Nat) : Bool :=
  (decide (pageBlk leaf ≠ 0) && !(decide (pageEF leaf = 11) || decide (pageEF leaf = 12) || decide (pageEF leaf = 13))) ||
  (decide (fld leaf 3 1 = 1) && decide (fld leaf 8 6 ≠ 0))

def leafPa (e : TlbEnt) (va : Nat) : Nat := fld e.leaf 16 36 * 65536 + va % e.size

/-- The checks of R177 in order, up to the page-format rules, which the access path makes (R119 to R121). -/
def checkLeaf (m : MemSys) (e : TlbEnt) (atH : Bool) (k : Acc) (va : Nat) : Except Cause Xlat :=
  let pa := leafPa e va
  if !m.isPop pa then .error k.pageFault
  else if decide (fld e.leaf 6 1 = 1) && !atH then .error .protection
  else if leafFormatBad e.leaf then .error .format
  else if decide (k = .write) && decide (fld e.leaf 2 1 = 0) then .error .protection
  else if decide (k = .fetch) && decide (fld e.leaf 3 1 = 0) then .error .protection
  else .ok { pa := pa, ent := e }

/-- Translation of one access through the TLB of a place (R46, R177, R180, R393). -/
def MemSys.translate (m : MemSys) (u : TlbPlace) (asn root : Nat) (atH : Bool) (k : Acc) (va : Word) : MemSys × Except Cause Xlat :=
  if va.toNat / 2 ^ 57 ≠ 0 then (m, .error k.pageFault)
  else
    match m.lookup u asn root va.toNat with
    | (m, .error true) => (m, .error .ueConsumed)
    | (m, .error false) => (m, .error k.pageFault)
    | (m, .ok e) => (m, checkLeaf m e atH k va.toNat)

/-- The address space a team's record names, for its dirty map (R178). -/
def MemSys.space? (m : MemSys) (asn : Nat) : Option Space := m.spaces.find? (fun s => decide (s.asn = asn))

/-- Two copies of one cached translation. -/
def TlbEnt.same (e f : TlbEnt) : Bool :=
  decide (f.place = e.place) && decide (f.asn = e.asn) && decide (f.va = e.va) && decide (f.size = e.size) && decide (f.leafAt = e.leafAt)

/-- A translation in use, with the D and the granules its TLB has noted for it since; as it was where the TLB holds it no more. -/
def MemSys.current (m : MemSys) (e : TlbEnt) : TlbEnt := (m.tlb.find? e.same).getD e

/-- R179, R396: before the first byte of a write, D in the leaf unless the cached translation carries it, and the dirty-map
bit of the granule unless already set through it (always, while the space is checkpointed). Granule g has bit g mod 8 of
byte g / 8 of the map. Log 83 (DESIGN CHOICE, unsafe). -/
def MemSys.markWrite (m : MemSys) (x : Xlat) (va : Nat) : MemSys :=
  let e := m.current x.ent
  let g := va / 65536
  let m := if e.dc then m
    else
      let leaf := m.homeRead e.leafAt 8
      m.homeWrite e.leafAt 8 (if fld leaf 5 1 = 1 then leaf else leaf + 32) none
  let sp := m.space? e.asn
  let ck := match sp with | some s => s.ckpt | none => false
  let m := match sp with
    | none => m
    | some s =>
      if e.marked.contains g && !ck then m
      else
        let a := s.dmap + g / 8
        let b := m.homeRead a 1
        m.homeWrite a 1 (if fld b (g % 8) 1 = 1 then b else b + 2 ^ (g % 8)) none
  let e' := { e with dc := true, marked := if e.marked.contains g then e.marked else g :: e.marked }
  { m with tlb := m.tlb.map (fun f => if e.same f then e' else f) }

/-- R183: drops every cached translation of a range. -/
def MemSys.invalidate (m : MemSys) (asn lo hi : Nat) : MemSys :=
  { m with tlb := m.tlb.filter (fun e => !(decide (e.asn = asn) && decide (e.va < hi) && decide (lo < e.va + e.size))) }

/-- Whether a table of an address space, or one below it, holds a valid leaf that satisfies p, given its bits and its size. -/
def leafAny (m : MemSys) (p : Nat → Nat → Bool) : List PtLevel → Nat → Bool
  | [], _ => false
  | l :: rest, tbl =>
    (List.range (2 ^ l.bits)).any (fun i =>
      let a := tbl + 8 * i
      let x := m.homeRead a 8
      m.isPop a && decide (x % 2 = 1) &&
      (if fld x 1 1 = 1 then tableOk l x && leafAny m p rest (fld x 8 44 * 256) else leafOk l x && p x l.leaf))

/-! ### Acknowledgments of peers (R58, R401) -/

/-- What a wait for acknowledgments comes to: nothing is outstanding, something is, or one can no longer come. -/
inductive AckWait where
  | done | waits
  | lost (va : Nat)
  deriving DecidableEq, Repr

/-- The writes `p` selects, the first lost one named. -/
def MemSys.ackWait (m : MemSys) (p : Unack → Bool) : AckWait :=
  match m.unacked.find? (fun u => p u && u.dead) with
  | some u => .lost u.va
  | none => if m.unacked.any p then .waits else .done

/-- Writes that have been acknowledged, or whose loss has been reported. -/
def MemSys.dropUnacked (m : MemSys) (p : Unack → Bool) : MemSys := { m with unacked := m.unacked.filter (fun u => !p u) }

/-- Every link that is up has acknowledged what it was sent. -/
def MemSys.acked (m : MemSys) : MemSys := m.dropUnacked (fun u => !u.dead)

/-- The writes to peers of a team's core that it is to wait for. -/
def Unack.ofCore (tk : Nat) (u : Unack) : Bool := decide (u.who = .team tk) && u.cmd.isNone

/-- The writes to peers that become a stream's own: those of a team whose slot is freed (R75). -/
def MemSys.handOver (m : MemSys) (tk k : Nat) : MemSys :=
  { m with unacked := m.unacked.map (fun u => if u.who = .team tk then { u with who := .stream k } else u) }

/-! ### Links (R256, R257) -/

def MemSys.linkSet (m : MemSys) (tk : Nat) : List Nat := look [] m.links tk

def MemSys.setLinks (m : MemSys) (tk : Nat) (ls : List Nat) : MemSys := { m with links := store [] m.links tk ls }

def MemSys.addLink (m : MemSys) (tk line : Nat) : MemSys :=
  let ls := m.linkSet tk
  if ls.contains line || decide (Config.linkLines ≤ ls.length) then m else m.setLinks tk (line :: ls)

/-! ### Physical regions (R173) -/

def regionOf (pa : Nat) : Nat := pa / 2 ^ 44

/-- R60: knots and progress words may not lie in host or peer memory. -/
def isHostOrPeer (pa : Nat) : Bool := decide (regionOf pa = 2) || (decide (16 ≤ regionOf pa) && decide (regionOf pa ≤ 31))

/-- R314: the stack of an HBM4E address. -/
def stackOf (pa : Nat) : Nat := pa % 2 ^ 44 / 4096 % 12

/-! ### Page-format rules of a scalar access (R121) -/

/-- Whether a physical address lies in the scale area of a blocked page of size `size` (R119). -/
def inScaleArea (e : TlbEnt) (va : Nat) : Bool :=
  decide (pageBlk e.leaf ≠ 0) && decide (7 * (e.size / 8) ≤ va % e.size)

end Sys2Proof.Machine
end

