-- ==== Sys2Proof/Machine/ModuleState.lean ====
section
/-! DEFINITION. The state of the hub die and of the module: stream slots and windows, partitions, near-memory jobs,
power, wear, temperature, links, bring-up (R40 to R43, R316, R327 to R405). Plain data. -/

namespace Sys2Proof.Machine

/-! ### Streams (R327 to R359) -/

/-- A logical buffer in either map (R333). -/
inductive LBuf where
  | undeclared
  | renamable (s fmt place : Nat) (desc : Option Nat)
  | fixed (s fmt place : Nat) (base : Word)
  deriving DecidableEq, Repr

/-- A task operand as resolved at decode (R341, R347): a physical buffer, a fixed region or a raw region. -/
inductive Ref where
  | desc (d : Nat) (base : Word) (size : Nat)
  | region (base : Word) (size : Nat)
  deriving DecidableEq, Repr

/-- What an entry asks for (R338). -/
inductive EntryOp where
  | buf (lb s fmt place : Nat)
  | bind (lb : Nat) (base : Word)
  | free (lb : Nat)
  | launch (ker gcnt gsz lmu : Nat) (args : List Word)
  | copy (src dst : Ref) (n : Nat)
  | nm (all : Bool) (addr : Word)
  | sig (knot inc : Word)
  | wait (knot thr : Word)
  | fence
  | fault
  deriving DecidableEq, Repr

/-- States of R340; removed entries are not kept. -/
inductive EntryState where
  | waiting | issued | complete | faulted
  deriving DecidableEq, Repr

/-- Reasons of R355. -/
inductive Reason where
  | team | malformed | kernel | undeclared | streamMem | copy | nmu | noBuffer
  deriving DecidableEq, Repr

def Reason.code : Reason → Nat
  | .team => 1 | .malformed => 2 | .kernel => 3 | .undeclared => 4 | .streamMem => 5 | .copy => 6 | .nmu => 7
  | .noBuffer => 8

/-- The fault an entry carries (R355, R357). -/
structure EntryFault where
  reason : Reason
  cause  : Nat
  gidx   : Nat
  tidx   : Nat
  tval   : Word
  deriving DecidableEq, Repr

/-- A gang of a task (R31). -/
inductive GangState where
  | waiting | bound | saved | ended
  deriving DecidableEq, Repr

/-- A window entry (R338 to R341), with the slot's state when its T-op was decoded (R339). -/
structure WEntry where
  id     : Nat
  seq    : Option Word
  op     : EntryOp
  st     : EntryState
  fault  : Option EntryFault
  ins    : List Ref
  outs   : List Ref
  raws   : List Ref
  /-- Logical buffers renamed by this entry with the descriptor each received (R341). -/
  renamed : List (Nat × Nat)
  /-- The descriptor to free at retirement for tbuf, tbind and tfree (R335 to R337). -/
  oldDesc : Option Nat
  after  : Bool
  spec   : Bool
  /-- Its place in the order tasks issued (R362). -/
  issueNo : Nat
  /-- Stream copies: units done (R343). -/
  units  : Nat
  gangs  : List GangState
  snapSpc : Word
  snapSeq : Word
  snapT   : List (Nat × Word)
  snapMap : List (Nat × LBuf)
  deriving DecidableEq, Repr

/-- The stream fault record (R357), held with the slot. -/
structure FaultRecord where
  topAddr : Word
  seq     : Word
  reason  : Nat
  cause   : Nat
  gidx    : Nat
  tidx    : Nat
  tval    : Word
  deriving DecidableEq, Repr

/-- QSTATE (R368). -/
inductive QState where
  | disabled | idle | fetching | parked | running
  deriving DecidableEq, Repr

/-- A launch record's fields (R367). -/
structure LaunchRec where
  entry   : Word
  args    : Word
  defbase : Word
  deflen  : Word
  status  : Word
  wdper   : BitVec 32
  cls     : BitVec 2
  debug   : Bool
  load    : Bool
  prot    : Bool
  zeros   : Bool
  app     : Word
  tag     : Word
  deriving DecidableEq, Repr

/-- Log 2 (DESIGN CHOICE, unsafe). -/
def LaunchRec.reset : LaunchRec :=
  { entry := 0, args := 0, defbase := 0, deflen := 0, status := 0, wdper := 0, cls := 0, debug := false, load := false,
    prot := false, zeros := true, app := 0, tag := 0 }

/-- Why a stream ends (R372, R373). -/
inductive EndStatus where
  | done | watchdog | powerKill | taskFault | tornDown | badRecord | loadFailed
  deriving DecidableEq, Repr

def EndStatus.code : EndStatus → Nat
  | .done => 0 | .watchdog => 0x10 | .powerKill => 0x11 | .taskFault => 0x12 | .tornDown => 0x20 | .badRecord => 0x21
  | .loadFailed => 0x22

/-- LEASESTAT.STATE (R382). -/
inductive LeaseState where
  | none | active | suspended | refused | expired | forfeited
  deriving DecidableEq, Repr

def LeaseState.code : LeaseState → Nat
  | .none => 0 | .active => 1 | .suspended => 2 | .refused => 3 | .expired => 4 | .forfeited => 5

/-- The fields of LEASE and LEASESTAT (R382), whether a request waits for the next epoch, and the LEFT of a lease that has expired
since the last epoch (R392). -/
structure Lease where
  dur     : BitVec 16
  watts   : BitVec 16
  left    : BitVec 32
  granted : BitVec 16
  st      : LeaseState
  req     : Bool
  lapsed  : Option (BitVec 32)
  deriving DecidableEq, Repr

/-- Log 2 (DESIGN CHOICE, unsafe). -/
def Lease.reset : Lease := { dur := 0, watts := 0, left := 0, granted := 0, st := .none, req := false, lapsed := none }

/-- A stream slot (R327, R368, R382, R390). -/
structure Stream where
  part     : Nat
  active   : Bool
  ending   : Option EndStatus
  endReason : Nat
  endCause : Nat
  discarded : Nat
  handle   : Word
  lrec     : LaunchRec
  spc      : Word
  t        : List (Nat × Word)
  smap     : List (Nat × LBuf)
  rmap     : List (Nat × LBuf)
  window   : List WEntry
  nextId   : Nat
  seq      : Word
  winstall : Word
  freestall : Word
  stopped  : Bool
  /-- A T-op whose decode holds has posted its system call (R353). -/
  posted   : Bool
  answered : Bool
  faultRec : Option FaultRecord
  qbase    : Word
  qsize    : BitVec 4
  tail     : Word
  head     : Word
  qen      : Bool
  qstate   : QState
  retries  : Nat
  /-- The slot has parked and reads no tag until the next kick (R369). -/
  parked   : Bool
  devq     : List (LaunchRec × Nat)
  fromHost : Bool
  /-- The context this stream belongs to: the number of the host record it descends from (R375). -/
  ctx      : Nat
  wdLeft   : BitVec 32
  lease    : Lease
  /-- CHARGE in 2^−20 WU / 100 (R390). -/
  wear     : Nat
  /-- Streams started in the slot: which of them this one is. -/
  serial   : Nat
  /-- The address space, number and root, that a context with a private code page runs in (R171). -/
  space    : Option (Nat × Nat)
  deriving DecidableEq, Repr

/-- Log 2 (DESIGN CHOICE, unsafe). -/
def Stream.reset : Stream :=
  { part := 0, active := false, ending := none, endReason := 0, endCause := 0, discarded := 0, handle := 0,
    lrec := LaunchRec.reset, spc := 0, t := [], smap := [], rmap := [], window := [], nextId := 0, seq := 0,
    winstall := 0, freestall := 0, stopped := false, posted := false, answered := false,
    faultRec := none, qbase := 0, qsize := 0, tail := 0, head := 0, qen := false, qstate := .disabled, retries := 0, parked := false,
    devq := [], fromHost := false, ctx := 0, wdLeft := 0, lease := Lease.reset, wear := 0, serial := 0, space := none }

/-! ### Partitions and applications (R40, R41, R186, R334) -/

/-- A physical-buffer descriptor (R334): its capacity is 2^cap bytes. -/
structure Desc where
  id    : Nat
  base  : Word
  cap   : Nat
  place : Nat
  deriving DecidableEq, Repr

/-- A loaded code object: its base, its resolver stub's address (R191), the form in force, and whether issue is held for a
swap (R190). -/
structure LoadedObj where
  base    : Nat
  stub    : Nat
  obj     : CodeObj
  sched   : Bool
  holdIssue : Bool
  deriving DecidableEq, Repr

/-- An application loaded in a partition (R374), with its kernel index table and stream programs (R186). -/
structure App where
  handle : Word
  kindex : List (Nat × Nat)
  programs : List (List Byte)
  objs   : List LoadedObj
  deriving DecidableEq, Repr

/-- A partition (R40, R41): its streams run in the address space `asn`; the others of its set are `more`, number and root. -/
structure Partition where
  pairs   : List Nat
  slots   : List Nat
  asn     : Nat
  root    : Nat
  more    : List (Nat × Nat)
  free    : List Desc
  descs   : List Desc
  apps    : List App
  keys    : List PubKey
  /-- Deferred pages backed, by address space and page number (R360). -/
  backed  : List (Nat × Nat)
  wdper   : BitVec 32
  debugOk : Bool
  draining : Bool
  nextHandle : Word
  deriving DecidableEq, Repr

/-! ### Near-memory jobs (R314 to R322) -/

/-- The share of one near-memory unit. -/
structure NmShare where
  stack  : Nat
  next   : Nat
  status : Nat
  deriving DecidableEq, Repr

/-- Who issued a near-memory command. Log 27 (DEDUCED, safe). -/
inductive NmOwner where
  | team (tk no : Nat)
  | task (k id : Nat)
  /-- Its team or task has ended; the command runs to completion (R324, R386). -/
  | gone
  deriving DecidableEq, Repr

/-- A near-memory command handed to the units (R315, R316). -/
structure NmJob where
  id     : Nat
  owner  : NmOwner
  /-- The stream slot it serves (R372). -/
  slot   : Nat
  all    : Bool
  asn    : Nat
  root   : Nat
  atH    : Bool
  opcode : Nat
  cmd    : NmCmd
  malformed : Bool
  preStatus : Nat
  shares : List NmShare
  flags  : BitVec 6
  count  : Nat
  /-- NM_SUMSQ's exact sum, and its result's physical address. -/
  sum    : Terms
  resPa  : Nat
  /-- Where the record goes: a physical address with its virtual one, or a byte of local memory. -/
  recG   : Bool
  recAddr : Nat
  recVa  : Nat
  ckr    : Word
  sync   : BitVec 2
  scope  : BitVec 2
  deriving DecidableEq, Repr

/-! ### Saved contexts (R169) -/

/-- The saved context of a pre-empted team: its slot's whole state, its local memory and full/empty bits. -/
structure SavedTeam where
  team : Team
  k    : Nat
  seq  : Word
  gidx : Nat
  tidx : Nat
  lm   : List Host.Cell
  fe   : List (Nat × Bool)
  lmPoison : List Nat
  unacked : List Unack
  deriving DecidableEq, Repr

/-! ### System calls (R157, R162, R353) -/

structure SysCall where
  caller : Caller
  num    : Nat
  deriving DecidableEq, Repr

/-! ### Power, temperature, links, bring-up -/

/-- Thermal levels (R387). -/
inductive Thermal where
  | l0 | l1 | l2 | trip
  deriving DecidableEq, Repr

/-- A cluster's shared parts (R16, R365, R366, R387): start phase, arm register, outstanding instruction fills,
thermal level, samples of dwell left. -/
structure Cluster where
  phase   : BitVec 6
  armMask : BitVec 16
  fills   : List (Nat × List Nat)
  level   : Thermal
  dwell   : Nat
  ballast : Nat
  deriving DecidableEq, Repr

/-- A lacet link (R400, R401). -/
structure Link where
  up      : Bool
  deriving DecidableEq, Repr

/-- Module run state (R403 to R405). -/
inductive Power where
  | off | halted | ready | frozen
  deriving DecidableEq, Repr

/-- A round record (R396). -/
structure RoundRecord where
  asn    : Nat
  number : Nat
  count  : Nat
  ue     : Bool
  deriving DecidableEq, Repr

/-- The answer to the last read or write of a host or peer (R58, R397): the data of a read, whether the request was
unsupported, and whether a poisoned block was met. -/
structure BusReply where
  data   : Nat
  ur     : Bool
  poison : Bool
  deriving DecidableEq, Repr

/-- What an interrupt message tells (R398, R403). -/
inductive MsiWhat where
  | freeze | overCurrent | trip | linkDown | noFirmware | ready | completion | cxl
  deriving DecidableEq, Repr

/-- An interrupt message sent: function and vector (R398). -/
structure Msi where
  fn   : Nat
  vec  : Nat
  what : MsiWhat
  deriving DecidableEq, Repr

end Sys2Proof.Machine
end

