-- ==== Sys2Proof/Machine/State.lean ====
section
/-! DEFINITION. The module's whole state as plain data, the outcomes that are no next state, and the state right after
reset. -/

namespace Sys2Proof.Machine

/-- Whose turn a step is: a team slot's next bundle, a stream slot's next T-op, a near-memory unit's next run, or an
event with what it brings. -/
inductive Turn where
  | bundle (tk : Nat)
  | top (k : Nat)
  | nmu (j stack : Nat)
  | ev (i : Instr)
  deriving DecidableEq, Repr

/-- How the bundle in execution stands. -/
inductive CurSt where
  | running
  /-- The bundle holds and will be tried again (R21, R82, R151). -/
  | held
  /-- A trap was taken or escalated, or the call was forwarded; no syllable follows. -/
  | stopped
  deriving DecidableEq, Repr

/-- The instruction in execution: the slot, the bundle's address, the syllable's word, where the team goes after the bundle,
and the scalar and control registers as the bundle's syllables read them (R78); for a T-op, its slot, address and header
word, `npc` being the address of the next one; for a near-memory command, its job and unit. Log 6 (DESIGN CHOICE, safe). -/
structure Cur where
  tk    : Nat
  addr  : Word
  word  : BitVec 32
  link  : Word
  npc   : Word
  regs  : List (Nat × Word)
  ctl   : Ctl
  st    : CurSt
  /-- Grant and width points of the bundle, and its writes to polynomial registers, applied at its commit (R78, R201, R206,
  R263). -/
  cuts  : List VOp
  /-- A trap the bundle raises once it has committed (R161). -/
  raise : Option TrapInfo
  /-- The strip the bundle's V syllable belongs to: the one open before its own grant point (R206, R213). -/
  strip : Nat
  /-- The bundle is a return: the landing counts it arms do not count it (R160). -/
  ret   : Bool
  k     : Nat
  taddr : Word
  tword : Word
  j     : Nat
  stack : Nat
  deriving DecidableEq, Repr

def Cur.reset : Cur :=
  { tk := 0, addr := 0, word := 0, link := 0, npc := 0, regs := [], ctl := Ctl.start, st := .running, cuts := [], raise := none,
    strip := 0, ret := false, k := 0,
    taddr := 0, tword := 0, j := 0, stack := 0 }

/-- The module. Lists of pairs are sparse: an unlisted team slot, core, cluster, stream slot or partition is at its
reset value. -/
structure State where
  /-- Off, halted at boot, ready, or frozen (R403 to R405). -/
  power    : Power
  /-- A link went down while the module was frozen (R405). -/
  lostLink : Bool
  ms       : MemSys
  /-- Team slots, key 2 × core + slot (R2, R18). -/
  teams    : List (Nat × Team)
  clusters : List (Nat × Cluster)
  streams  : List (Nat × Stream)
  parts    : List (Nat × Partition)
  jobs     : List NmJob
  nextJob  : Nat
  /-- Tasks issued so far: the order of R362. -/
  issueNo  : Nat
  /-- Host records started so far: the number of the next context (R375). -/
  nextCtx  : Nat
  saved    : List SavedTeam
  syscalls : List SysCall
  trans    : List Translation
  /-- Lacet links 0 to 15 (R400) and populated CXL ports (R399). -/
  links    : List (Nat × Link)
  cxl      : List Nat
  /-- The firmware's physical map (R173): what is populated while every link is up. -/
  physMap  : List Region
  /-- The answer to the last bus request (R397). -/
  reply    : BusReply
  /-- SV fuses and firmware-version fuses blown (R187, R403). -/
  svFuses  : Nat
  fwFuses  : Nat
  /-- The digest of the Lemfort root key and the operator key in the fuses, and the public half of the device's translation
  key (R188, R402, R403). -/
  rootDigest : Nat
  opKey    : PubKey
  devKey   : PubKey
  /-- The two firmware slots and the stored partitioning of the flash (R403). -/
  fwA      : Option FwImage
  fwB      : Option FwImage
  stored   : List PartReq
  /-- Power policy: watts of a pair where not the default 140, and policies waiting for the floors (R380). -/
  pairW    : List (Nat × Nat)
  pairNext : List (Nat × Nat)
  /-- Epochs passed, and lease energy begun per epoch, newest first, in microjoules (R379, R383). -/
  epoch    : Nat
  energy   : List (Nat × Nat)
  /-- Wear of each core as the flash record holds it, with the highest rate and the samples since (R389). -/
  flash    : List (Nat × Nat)
  rates    : List (Nat × Nat)
  wearAge  : List (Nat × Nat)
  rounds   : List RoundRecord
  msis     : List Msi
  /-- Free values taken so far: the model's own counter. -/
  fresh    : Nat
  /-- Turns to be taken next, in order, and how many the module has taken of itself: the model's own account of what happens
  when. -/
  agenda   : List Turn
  turns    : Nat
  cur      : Cur
  deriving DecidableEq, Repr

/-- Why the machine stops. -/
inductive Fault where
  /-- Raised by a meaning whose operand names a team slot, core, cluster, stream slot, partition, link or stack that the
  module does not have: no such event can come about. Safe. -/
  | noSuchUnit
  deriving DecidableEq, Repr

/-- Why an instruction has no meaning. -/
inductive Refusal where
  /-- Raised by the dispatch for an instruction with no meaning yet. Safe. -/
  | notModelled (mnemonic : String)
  deriving DecidableEq, Repr

/-- R387: a cluster at level 0, with PH(k) = k (R366). Log 2 (DESIGN CHOICE, unsafe). -/
def Cluster.reset (k : Nat) : Cluster :=
  { phase := BitVec.ofNat 6 k, armMask := 0, fills := [], level := .l0, dwell := 0, ballast := 0 }

/-- The module right after reset: nothing loaded, bound or trained; memory lists nothing. Log 2 (DESIGN CHOICE, unsafe). -/
def State.reset : State :=
  { power := .off, lostLink := false, ms := MemSys.reset, teams := [], clusters := [], streams := [], parts := [],
    jobs := [], nextJob := 0, issueNo := 0, nextCtx := 0, saved := [], syscalls := [], trans := [], links := [], cxl := [], physMap := [hbmRegion],
    reply := { data := 0, ur := false, poison := false }, svFuses := 0,
    fwFuses := 0, rootDigest := 0, opKey := { x := 0, y := 0 }, devKey := { x := 0, y := 0 }, fwA := none, fwB := none, stored := [], pairW := [], pairNext := [], epoch := 0, energy := [], flash := [], rates := [], wearAge := [], rounds := [],
    msis := [], fresh := 0, agenda := [], turns := 0, cur := Cur.reset }

end Sys2Proof.Machine
end

