-- ==== Sys2Proof/Machine/Operands.lean ====
section
/-! DEFINITION. Every operand form: scalar registers at either level (R123, R156), results and their latencies
(R80 to R85), captured operands (R22, R78), immediates and offsets (R79, R134 to R137), stream registers (R96). -/

namespace Sys2Proof.Machine

/-- A step's outcome. -/
abbrev Out := Host.Outcome State Fault Refusal

/-! ### Slots, streams, clusters, partitions -/

def State.team (s : State) (tk : Nat) : Team := look Team.reset s.teams tk

def State.setTeam (s : State) (tk : Nat) (t : Team) : State := { s with teams := put s.teams tk t }

def State.cluster (s : State) (c : Nat) : Cluster := look (Cluster.reset c) s.clusters c

def State.setCluster (s : State) (c : Nat) (x : Cluster) : State := { s with clusters := put s.clusters c x }

def State.stream (s : State) (k : Nat) : Stream := look Stream.reset s.streams k

def State.setStream (s : State) (k : Nat) (x : Stream) : State := { s with streams := put s.streams k x }

/-- A partition with nothing in it. Log 2 (DESIGN CHOICE, unsafe). -/
def Partition.reset : Partition :=
  { pairs := [], slots := [], asn := 0, root := 0, more := [], free := [], descs := [], apps := [], keys := [], backed := [], wdper := 0, debugOk := false,
    draining := false, nextHandle := 1 }

def State.part (s : State) (p : Nat) : Partition := look Partition.reset s.parts p

def State.setPart (s : State) (p : Nat) (x : Partition) : State := { s with parts := put s.parts p x }

/-- The address space, number and root, that a stream and its teams run in: its partition's, or, where its context has a private
code page, the one it was moved to (R41, R171). -/
def State.streamSpace (s : State) (k : Nat) : Nat × Nat :=
  match (s.stream k).space with
  | some x => x
  | none => ((s.part (s.stream k).part).asn, (s.part (s.stream k).part).root)

/-- Core and cluster of a team slot (R16, R18). -/
def coreOf (tk : Nat) : Nat := tk / 2
def clusterOf (tk : Nat) : Nat := tk / 16
/-- Series pair of a core (R15). -/
def pairOf (core : Nat) : Nat := core / 16

/-- A fresh value that nothing constrains. Log 5 (DESIGN CHOICE, safe). -/
def State.free (s : State) : BitVec 64 × State := (Config.freeValue s.fresh, { s with fresh := s.fresh + 1 })

/-! ### Scalar registers (R123, R156) -/

/-- The register bank a level names (R156). -/
def Team.bank (t : Team) : List (Nat × Word) :=
  match t.level with
  | .a => t.regs
  | .h => t.hregs

/-- A register of a bank: s0 reads zero. -/
def regOf (b : List (Nat × Word)) (r : Reg) : Word := if r = 0#5 then 0#64 else look 0#64 b r.toNat

/-- Writes a register of a bank: a write to s0 is discarded (R83, R123). -/
def setRegOf (b : List (Nat × Word)) (r : Reg) (v : Word) : List (Nat × Word) :=
  if r = 0#5 then b else store 0#64 b r.toNat v

def Team.reg (t : Team) (r : Reg) : Word := regOf t.bank r

def Team.setReg (t : Team) (r : Reg) (v : Word) : Team :=
  match t.level with
  | .a => { t with regs := setRegOf t.regs r v }
  | .h => { t with hregs := setRegOf t.hregs r v }

/-! ### Results and latencies (R80 to R84) -/

/-- A later-issued result that becomes readable at the same bundle replaces this one (R83); a load still performs its
access. -/
def cancelDue (r : Reg) (fs : List Flight) : List Flight :=
  fs.filterMap (fun f =>
    if f.reg = r ∧ f.left ≤ 1 then
      match f.load with
      | none => none
      | some _ => some { f with reg := 0#5 }
    else some f)

/-- Gives register r the result v at latency lat: at once in serial form or with latency 1, else in flight. -/
def Team.result (t : Team) (lat : Nat) (r : Reg) (v : Word) : Team :=
  if r = 0#5 then t
  else if lat ≤ 1 ∨ t.sched = false then ({ t with flights := cancelDue r t.flights } : Team).setReg r v
  else { t with flights := t.flights ++ [{ reg := r, val := v, load := none, left := lat }] }

/-- A load whose value is not bound yet. -/
def Team.pending (t : Team) (lat : Nat) (r : Reg) (l : PendLoad) : Team :=
  { t with flights := t.flights ++ [{ reg := r, val := 0#64, load := some l, left := lat }] }

/-- Results due at this boundary land in issue order, once every due load is bound (R82, R83). -/
def Team.land (t : Team) : Team :=
  if t.flights.any (fun f => decide (f.left = 0) && f.load.isSome) then t
  else
    let due := t.flights.filter (fun f => decide (f.left = 0))
    let t := due.foldl (fun (t : Team) f => t.setReg f.reg f.val) t
    { t with flights := t.flights.filter (fun f => decide (f.left ≠ 0)) }

/-- One more bundle of the team has committed: every count goes down, and due results land (R81 to R83, R160). -/
def Team.tick (t : Team) : Team :=
  ({ t with flights := t.flights.map (fun f => ({ f with left := f.left - 1 } : Flight)) } : Team).land

/-! ### The syllable in execution -/

def State.curTeam (s : State) : Team := s.team s.cur.tk

/-- A scalar source of an S syllable: S is first in its bundle, so the register as it stands. -/
def State.rd (s : State) (r : Reg) : Word := s.curTeam.reg r

/-- A scalar source of a V, M or C syllable: as it stood before the bundle (R22, R78). -/
def Cur.reg (c : Cur) (r : Reg) : Word := regOf c.regs r

/-- The result of an S syllable. -/
def State.write (s : State) (lat : Nat) (d : Reg) (v : Word) : State :=
  s.setTeam s.cur.tk (s.curTeam.result lat d v)

def State.setCtl (s : State) (c : Ctl) : State := s.setTeam s.cur.tk { s.curTeam with ctl := c }

def State.setCur (s : State) (st : CurSt) : State := { s with cur := { s.cur with st := st } }

/-- The bundle is held: nothing of it commits (R151). -/
def State.hold (s : State) : State := s.setCur .held

/-! ### Immediates and offsets -/

/-- Sign extension to 64 bits. -/
def sx {n : Nat} (i : BitVec n) : Word := i.signExtend 64

/-- A branch target: offsets count syllables from the branch syllable (R79). -/
def State.target {n : Nat} (s : State) (o : BitVec n) : Word := s.cur.addr + sx o * 4#64

/-- The target of a taken branch or jump, fetched after the bundle has committed (R78). -/
def State.jump (s : State) (pc : Word) : State := { s with cur := { s.cur with npc := pc } }

/-- Bytes of a size code (R86). -/
def szBytes (z : BitVec 2) : Nat := 2 ^ z.toNat

/-- The effective address of an SM syllable (R139): the offset counts in units of the size. -/
def State.smAddr (s : State) (a : Reg) (o : BitVec 7) (size : Nat) : Word := s.rd a + BitVec.ofNat 64 (o.toNat * size)

/-- A loaded value extended to 64 bits (R139). -/
def loadExt (size : Nat) (sxt : Bool) (x : Nat) : Word :=
  if sxt then
    (if decide (2 ^ (8 * size - 1) ≤ x % 2 ^ (8 * size)) then BitVec.ofInt 64 ((x % 2 ^ (8 * size) : Nat) - (2 ^ (8 * size) : Nat))
     else BitVec.ofNat 64 (x % 2 ^ (8 * size)))
  else BitVec.ofNat 64 (x % 2 ^ (8 * size))

/-! ### The scalar registers a syllable reads and writes, and its latency (R81, R85) -/

/-- R81, with the destination: the results an S syllable leaves in a scalar register. -/
def Instr.result : Instr → Option (Reg × Nat)
  | .add d _ _ | .sub d _ _ | .and d _ _ | .or d _ _ | .xor d _ _ | .sll d _ _ | .srl d _ _ | .sra d _ _ | .slt d _ _
  | .sltu d _ _ | .min d _ _ | .max d _ _ | .minu d _ _ | .maxu d _ _ | .andn d _ _ | .orn d _ _ | .rol d _ _
  | .ror d _ _ => some (d, 1)
  | .clz d _ | .ctz d _ | .popc d _ | .sextB d _ | .sextH d _ | .sextW d _ | .zextB d _ | .zextH d _ | .zextW d _ =>
    some (d, 1)
  | .mul d _ _ | .mulh d _ _ | .mulhu d _ _ | .mulhsu d _ _ => some (d, 3)
  | .div d _ _ | .divu d _ _ | .rem d _ _ | .remu d _ _ => some (d, 12)
  | .addi d _ _ | .andi d _ _ | .ori d _ _ | .xori d _ _ | .slti d _ _ | .sltiu d _ _ => some (d, 1)
  | .slli d _ _ | .srli d _ _ | .srai d _ _ => some (d, 1)
  | .lhi d _ | .lpc d _ | .jal d _ => some (d, 1)
  | .jalr d _ _ => some (d, 1)
  | .ld d _ c _ _ _ => some (d, if c = 0#3 then 5 else if c = 1#3 then 7 else 3)
  | .ldAcq d _ _ _ _ _ => some (d, 5)
  | .amoAdd d _ _ _ c | .amoAnd d _ _ _ c | .amoOr d _ _ _ c | .amoXor d _ _ _ c | .amoMin d _ _ _ c | .amoMax d _ _ _ c
  | .amoMinu d _ _ _ c | .amoMaxu d _ _ _ c | .amoSwap d _ _ _ c | .amoCas d _ _ _ c => some (d, if c then 4 else 8)
  | .kbind d _ _ | .ktry d _ _ _ => some (d, 5)
  | .setgl d _ | .setglH d _ _ => some (d, 2)
  | .addgl d _ _ => some (d, 1)
  | .crr d _ | .crs d _ _ | .crc d _ _ => some (d, 2)
  | _ => none

/-- The register a V syllable leaves a result in (R85). -/
def Instr.vResult : Instr → Option Reg
  | .kcount d _ | .kany d _ | .kfirst d _ => some d
  | .vext d _ _ _ => some d
  | _ => none

/-- Scalar sources of a syllable. -/
def Instr.scalarReads : Instr → List Reg
  | .add _ a b | .sub _ a b | .and _ a b | .or _ a b | .xor _ a b | .sll _ a b | .srl _ a b | .sra _ a b | .slt _ a b
  | .sltu _ a b | .min _ a b | .max _ a b | .minu _ a b | .maxu _ a b | .andn _ a b | .orn _ a b | .rol _ a b
  | .ror _ a b | .mul _ a b | .mulh _ a b | .mulhu _ a b | .mulhsu _ a b | .div _ a b | .divu _ a b | .rem _ a b
  | .remu _ a b => [a, b]
  | .clz _ a | .ctz _ a | .popc _ a | .sextB _ a | .sextH _ a | .sextW _ a | .zextB _ a | .zextH _ a | .zextW _ a => [a]
  | .addi _ a _ | .andi _ a _ | .ori _ a _ | .xori _ a _ | .slti _ a _ | .sltiu _ a _ => [a]
  | .slli _ a _ | .srli _ a _ | .srai _ a _ => [a]
  | .beq a b _ | .bne a b _ | .blt a b _ | .bge a b _ | .bltu a b _ | .bgeu a b _ => [a, b]
  | .jalr _ a _ => [a]
  | .ld _ a _ _ _ _ => [a]
  | .st d a _ _ _ => [d, a]
  | .ldAcq _ a _ _ _ _ => [a]
  | .stRel d a _ _ _ => [d, a]
  | .amoCas d a b _ _ => [d, a, b]
  | .amoAdd _ a b _ _ | .amoAnd _ a b _ _ | .amoOr _ a b _ _ | .amoXor _ a b _ _ | .amoMin _ a b _ _ | .amoMax _ a b _ _
  | .amoMinu _ a b _ _ | .amoMaxu _ a b _ _ | .amoSwap _ a b _ _ => [a, b]
  | .kbind d a b => [d, a, b]
  | .kacq a b _ | .krel a b _ => [a, b]
  | .ktry _ a b _ => [a, b]
  | .setgl _ a => [a]
  | .setglH _ a b => [a, b]
  | .stb a => [a]
  | .stbW a b => [a, b]
  | .addgl _ a _ => [a]
  | .crw a _ => [a]
  | .crs _ a _ | .crc _ a _ => [a]
  | .vadd o | .vsub o | .vmul o | .vmulh o | .vmulhU o | .vmin o | .vminU o | .vmax o | .vmaxU o | .vand o | .vor o
  | .vxor o | .vsll o | .vsrl o | .vsra o | .vsadd o | .vsaddU o | .vssub o | .vssubU o | .vmerge o | .vfadd o
  | .vfsub o | .vfmul o | .vfdiv o | .vfmin o | .vfmax o | .vcmpuLtu o | .vcmpuGeu o => if o.s then [o.b] else []
  | .ppdiv _ a b => [a, b]
  | .vslideUp o | .vslideDown o => [o.b]
  | .vbcast _ b _ => [b]
  | .vext _ _ b _ => [b]
  | .vins o => [o.a, o.b]
  | .vamoAdd o | .vamoMin o | .vamoMax o | .vamoSwap o => [o.a]
  | .vrep _ a _ => [a]
  | .vld o => [o.a, o.b]
  | .vst o => [o.a, o.b]
  | .vldx o | .tensorLoad o => [o.a]
  | .vstx o | .tensorStore o => [o.a]
  | .vgl _ a _ _ _ _ => [a]
  | .vsc _ a _ _ _ => [a]
  | .mma o | .mmaG o => [o.t, o.a, o.b]
  | .mzero t => [t]
  | .mld t a | .mst t a => [t, a]
  | .mdrainF32 t d _ | .mdrainBf16 t d _ => [t, d]
  | .mdrainI8 t d _ _ => [t, d]
  | .maddRow t a _ _ | .maddCol t a _ _ => [t, a]
  | .msum t a b _ _ _ => [t, a, b]
  | .cpy o | .cfill o | .cgath o => [o.d, o.a, o.l]
  | .cpyt o => [o.l]
  | .cnm d a _ _ _ | .cnmAll d a _ _ _ => [d, a]
  | .cpf a l _ _ => [a, l]
  | _ => []

/-! ### Stream registers (R96, R329) -/

/-- A stream register: t0 reads zero. -/
def Stream.reg (x : Stream) (r : TReg) : Word := if r = 0#4 then 0#64 else look 0#64 x.t r.toNat

/-- A write to t0 is discarded (R96). -/
def Stream.setReg (x : Stream) (r : TReg) (v : Word) : Stream :=
  if r = 0#4 then x else { x with t := store 0#64 x.t r.toNat v }

end Sys2Proof.Machine
end

