-- ==== Sys2Proof/Machine/Poly.lean ====
section
/-! DEFINITION. The product-polynomial accumulator (R262 to R273): every coefficient update exact, then rounded once
to f32 with RNE. -/

namespace Sys2Proof.Machine

def VecState.poly (s : VecState) (n : Nat) : Poly := look Poly.start s.p n

def VecState.setPoly (s : VecState) (n : Nat) (p : Poly) : VecState := { s with p := store Poly.start s.p n p }

/-- Coefficient j as f32 bits, the index −1 of R269 handled by its callers. -/
def Poly.coef (p : Poly) (j : Nat) : Nat := (look 0#32 p.c j).toNat

def Poly.val (p : Poly) (j : Nat) : FVal := ffF32.decode (p.coef j)

/-- The coefficient list from its bits: only nonzero patterns are listed. -/
def coefList (xs : List Nat) : List (Nat × BitVec 32) :=
  (xs.zipIdx.map (fun e => (e.2, BitVec.ofNat 32 e.1))).filter (fun e => e.2 ≠ 0#32)

/-- R266: rescale when `force` (R268) or when the largest exponent leaves −16 to 15. Log 61 (DEDUCED, safe). -/
def Poly.rescale (p : Poly) (force : Bool) : Poly × Flags :=
  let n := p.pdeg.toNat
  let cs := (List.range (n + 1)).map (fun j => p.val j)
  if cs.any (fun v => v.isNan || v.isInf) then (p, 0)
  else if cs.all FVal.isZero then (p, 0)
  else
    let lg := cs.foldl (fun (a : Option Int) v =>
      if v.isZero then a else some (match a with | none => v.lg | some b => max b v.lg)) none
    let e := lg.getD 0
    if (force && decide (e ≠ 0)) || decide (16 ≤ e) || decide (e < -16) then
      -- an exact zero is +0 (R265)
      let rs := cs.map (fun v => if v.isZero then (0, 0) else ffF32.encode (v.scale (-e)) Rnd.rne)
      let fl := rs.foldl (fun (a : Flags) r => a ||| r.2) 0
      let above := p.c.filter (fun x => decide (n < x.1))
      let ps := satInt true 32 (toSigned 32 p.ps.toNat + e)
      ({ p with c := coefList (rs.map Prod.fst) ++ above, ps := BitVec.ofInt 32 ps.1 },
        fl ||| (if ps.2 then flagOF else 0))
    else (p, 0)

/-- R268. -/
def Poly.init (p : Poly) : Poly := { p with c := [(0, 0x3F800000#32)], ps := 0, pn := 0 }

/-- R268: `ppinit.norm`. -/
def Poly.norm (p : Poly) : Poly × Flags :=
  let n := p.pdeg.toNat
  let q := { p with c := p.c.filter (fun x => decide (x.1 ≤ n)) }
  if (List.range (n + 1)).all (fun j => (q.val j).isZero) then ({ q with ps := 0 }, 0)
  else q.rescale true

/-- R269: one factor a + b·x, with whether the discarded term sets PT. -/
def Poly.factor (p : Poly) (a b : FVal) : Poly × Flags × Bool :=
  let n := p.pdeg.toNat
  let d := b.mul (p.val n)
  let zero : FVal := .fin false 0 0
  let rs := (List.range (n + 1)).map (fun j =>
    let t1 := a.mul (p.val j)
    let t2 := b.mul (if j = 0 then zero else p.val (j - 1))
    let s := if t1.1.isNan || t2.1.isNan then (FVal.nan false, (0 : Flags)) else t1.1.add t2.1 .rne
    -- an exact zero is +0 (R265)
    let v := if s.1.isZero then zero else s.1
    let r := ffF32.encode v Rnd.rne
    (r.1, t1.2 ||| t2.2 ||| s.2 ||| r.2))
  let fl := rs.foldl (fun (x : Flags) r => x ||| r.2) 0
  let pt := d.1.isNan || !d.1.isZero
  let q := { p with c := coefList (rs.map Prod.fst), pn := p.pn + 1 }
  let r := q.rescale false
  (r.1, fl ||| r.2, pt)

/-- A coefficient quotient: an exact numerator c − b × q, divided by a and rounded once (R270). -/
def quotCoef (c b q a : FVal) : Nat × Flags :=
  let t := b.mul q
  let s := if t.1.isNan then (FVal.nan false, t.2) else
    let u := c.add t.1.neg .rne
    (u.1, u.2 ||| t.2)
  match s.1 with
  | .nan _ => (ffF32.canonNan, s.2 ||| sigFlag c ||| sigFlag b ||| sigFlag a)
  | v =>
    let r := ffF32.div v a Rnd.rne
    -- an exact zero is +0 (R265)
    let bits := if (ffF32.decode r.1).isZero && r.2 = 0 then 0 else r.1
    (bits, s.2 ||| r.2)

/-- R270, with whether PX is set. -/
def Poly.divide (p : Poly) (a b : FVal) (pt : Bool) : Poly × Flags × Bool :=
  let n := p.pdeg.toNat
  let zero : FVal := .fin false 0 0
  if a.isNan || b.isNan then
    ({ p with c := coefList (List.replicate (n + 1) ffF32.canonNan), pn := p.pn - 1 }, sigFlag a ||| sigFlag b, false)
  else
    let absLt := a.isZero && !b.isZero || (match a, b with
      | .inf _, _ => false
      | _, .inf _ => true
      | .fin _ m e, .fin _ k f => (Dy.ofFVal (.fin false m e)).lt (Dy.ofFVal (.fin false k f))
      | _, _ => false)
    if !absLt || pt then
      let r := (List.range (n + 1)).foldl (fun (acc : List Nat × FVal × Flags) j =>
        let q := quotCoef (p.val j) b acc.2.1 a
        (acc.1 ++ [q.1], ffF32.decode q.1, acc.2.2 ||| q.2)) ([], zero, 0)
      let q := { p with c := coefList r.1, pn := p.pn - 1 }
      let s := q.rescale false
      (s.1, r.2.2 ||| s.2, absLt)
    else
      let r := (List.range n).foldl (fun (acc : List Nat × FVal × Flags) k =>
        let j := n - k
        let q := quotCoef (p.val j) a acc.2.1 b
        (q.1 :: acc.1, ffF32.decode q.1, acc.2.2 ||| q.2)) ([0], zero, 0)
      let q := { p with c := coefList r.1, pn := p.pn - 1 }
      let s := q.rescale false
      (s.1, r.2.2 ||| s.2, false)

/-- An element of FMT as an exact f32 value (R269). -/
def polyElem (fmt : Fmt) (x : Nat) : FVal := fmt.ff.decode x

/-- The four polynomial syllables, `ppmul` over factors and `ppmv` over elements `e.start` to `hi` − 1 (R268 to R272). -/
def polyV (op : VOp) (e : QEntry) (hi : Nat) (s : VecState) (pf : BitVec 16) : VRes :=
  let fmt := vtFmt e.vtype
  let w := fmt.width
  match op with
  | .ppinit norm d =>
    let n := d.toNat
    if norm then
      let r := (s.poly n).norm
      { vec := s.setPoly n r.1, pf := pf, fl := r.2, sc := none, run := none }
    else { vec := s.setPoly n (s.poly n).init, pf := clearPT pf n, fl := 0, sc := none, run := none }
  | .ppmul pb o =>
    let n := o.d.toNat
    let r := (List.range (min hi e.gl)).foldl (fun (acc : Poly × BitVec 16 × Flags) i =>
      if decide (i < e.start) || !s.mask o.m.toNat i then acc
      else
        let x := polyElem fmt (elem w (s.reg o.a.toNat) i)
        let one : FVal := .fin false 1 0
        let ab : FVal × FVal × Flags :=
          if pb then
            let t := one.add x.neg .rne
            let a := ffF32.finish t Rnd.rne
            (ffF32.decode a.1, x, a.2)
          else (x, polyElem fmt (elem w (s.reg o.b.toNat) i), 0)
        let q := acc.1.factor ab.1 ab.2.1
        (q.1, if q.2.2 then setPT acc.2.1 n else acc.2.1, acc.2.2 ||| ab.2.2 ||| q.2.1)) (s.poly n, pf, 0)
    { vec := s.setPoly n r.1, pf := r.2.1, fl := r.2.2, sc := none, run := none }
  | .ppdiv d =>
    let n := d.toNat
    let a := ffF32.decode (e.y.toNat % 2 ^ 32)
    let b := ffF32.decode (e.z.toNat % 2 ^ 32)
    let r := (s.poly n).divide a b (ptBit pf n)
    { vec := s.setPoly n r.1, pf := if r.2.2 then setPX pf n else pf, fl := r.2.1, sc := none, run := none }
  | .ppmvV d a m =>
    let r := mapElems 32 (min e.gl 64)
      (fun j => if decide (e.start ≤ j) && decide (j < hi) && s.mask m.toNat j then some ((s.poly a.toNat).coef j, 0) else none)
      (s.reg d.toNat)
    { vec := s.setReg d.toNat r.1, pf := pf, fl := 0, sc := none, run := none }
  | .ppmvP d a m =>
    let p := s.poly d.toNat
    let c := (List.range (min e.gl 64)).foldl (fun c j =>
      if decide (e.start ≤ j) && decide (j < hi) && s.mask m.toNat j then store 0#32 c j (BitVec.ofNat 32 (elem 32 (s.reg a.toNat) j)) else c) p.c
    { vec := s.setPoly d.toNat { p with c := c }, pf := pf, fl := 0, sc := none, run := none }
  | _ => { vec := s, pf := pf, fl := 0, sc := none, run := none }

end Sys2Proof.Machine
end

