-- ==== Sys2Proof/Machine/Ops.lean ====
section
/-! DEFINITION. The named operations shared by the meanings: taking a trap, escalating one and returning (R152 to
R163), queue entries (R20 to R22), lanes and grants (R145, R198 to R206, R217), local memory and siblings (R19, R48). -/

namespace Sys2Proof.Machine

/-! ### Landing slots (R159, R160) -/

def Ctl.ls (c : Ctl) (k : Nat) : Word := match k with | 0 => c.ls0 | 1 => c.ls1 | 2 => c.ls2 | _ => c.ls3

def Ctl.setLs (c : Ctl) (k : Nat) (v : Word) : Ctl :=
  match k with
  | 0 => { c with ls0 := v }
  | 1 => { c with ls1 := v }
  | 2 => { c with ls2 := v }
  | _ => { c with ls3 := v }

/-- The bits of LSM for slot k (R131): V, REG and LEFT. -/
def lsmBits (k : Nat) (r : Reg) (left : Nat) : Word :=
  BitVec.ofNat 64 ((2 ^ 15 + r.toNat * 2 ^ 8 + left % 16) * 2 ^ (16 * k))

/-- A result already due was superseded by a later one due at the same boundary (R83). -/
def superseded (f : Flight) (later : List Flight) : Bool :=
  later.any (fun g => decide (g.left = 0) && g.load.isNone && decide (g.reg = f.reg))

/-- The loads kept aside, each with its place among the results in flight. -/
def savePending : Nat → List Flight → List SavedLoad
  | _, [] => []
  | n, f :: r =>
    match f.load with
    | some l => { pos := n, reg := if f.left = 0 ∧ superseded f r then 0#5 else f.reg, load := l, left := f.left } :: savePending (n + 1) r
    | none => if f.left = 0 ∨ f.reg = 0#5 then savePending n r else savePending (n + 1) r

/-- The values captured into LS0 upward, in issue order. -/
def captureSlots (c : Ctl) : Nat → List Flight → Ctl
  | _, [] => c
  | k, f :: r =>
    if 4 ≤ k then c
    else captureSlots ({ c.setLs k f.val with lsm := c.lsm ||| lsmBits k f.reg f.left }) (k + 1) r

/-- R159: results already readable are written, the others go to the landing slots (none for s0, R84), and loads not bound
are kept. -/
def Team.capture (t : Team) : Team :=
  let due := t.flights.filter (fun f => decide (f.left = 0) && f.load.isNone)
  let vals := t.flights.filter (fun f => decide (f.left ≠ 0) && f.load.isNone && decide (f.reg ≠ 0#5))
  let saved := savePending 0 t.flights
  let t := due.foldl (fun (t : Team) f => t.setReg f.reg f.val) t
  let c : Ctl := { t.ctl with ls0 := 0, ls1 := 0, ls2 := 0, ls3 := 0, lsm := 0 }
  { t with flights := [], saved := saved, ctl := captureSlots c 0 vals }

/-- The landing slots that hold a result, as LSM and LS0 to LS3 stand (R160). -/
def slotFlights (c : Ctl) : List Flight :=
  (List.range 4).filterMap (fun k =>
    if c.lsm.getLsbD (16 * k + 15) then
      some { reg := c.lsm.extractLsb' (16 * k + 8) 5, val := c.ls k, load := none, left := (c.lsm.extractLsb' (16 * k) 4).toNat }
    else none)

/-- Puts each pending load back in its place. -/
def insertSaved : List Flight → List SavedLoad → List Flight
  | fs, [] => fs
  | fs, s :: r => insertSaved (fs.take s.pos ++ [{ reg := s.reg, val := 0, load := some s.load, left := s.left }] ++ fs.drop s.pos) r

/-- R160: arms the landing slots and reissues the pending loads. -/
def Team.rearm (t : Team) : Team :=
  ({ t with flights := insertSaved (slotFlights t.ctl) t.saved, saved := [] } : Team).land

/-! ### Queues (R20 to R22) -/

def Queues.all (q : Queues) : List QEntry := q.viq ++ q.mq ++ q.cq0 ++ q.cq1

def Queues.isEmpty (q : Queues) : Bool := q.viq.isEmpty && q.mq.isEmpty && q.cq0.isEmpty && q.cq1.isEmpty

/-- The entry oldest in issue order that carries a fault (R154). -/
def oldestFault (es : List QEntry) : Option QEntry :=
  es.foldl (fun (a : Option QEntry) e =>
    if e.fault.isNone then a
    else match a with
      | none => some e
      | some b => if e.no < b.no then some e else a) none

def qopCls : QOp → Class
  | .v _ => .v
  | .m _ => .m
  | .c _ => .c

/-- R166: the restart point of the oldest entry of a class, which ES, MK and CP show. -/
def oldestStart (es : List QEntry) : Nat :=
  match es.filter (fun e => e.counts) with
  | [] => 0
  | e :: r => (r.foldl (fun (b : QEntry) x => if x.no < b.no then x else b) e).start

/-- Skips grant and width points. -/
def nthCounting : List QEntry → Nat → Option QEntry
  | [], _ => none
  | e :: r, n => if !e.counts then nthCounting r n else match n with | 0 => some e | n + 1 => nthCounting r n

/-- The entry of the VIQ whose elements come next: the first one, or in a repeat frame the captured syllable the frame
has reached (R209, R244). -/
def viqCurrent (es : List QEntry) : Option QEntry :=
  match nthCounting es 0 with
  | none => none
  | some h =>
    match h.op with
    | .v (.rep _ _ _) => nthCounting es (h.idx + 1)
    | _ => some h

/-- Whether every syllable older than a queued entry has completed (R152). Older V entries have: the pipes run in order, and
the other syllables of a repeat frame are no older (R245). -/
def Team.olderDone (t : Team) (e : QEntry) : Bool :=
  match e.op with
  | .v _ => !(t.q.mq ++ t.q.cq0 ++ t.q.cq1).any (fun x => decide (x.no < e.no))
  | _ => !t.q.all.any (fun x => decide (x.no < e.no))

/-- The queued trap that comes next (R154), and whether its turn has come: every older syllable has completed. -/
def queuedTrap (t : Team) : Option (QEntry × TrapInfo × Bool) :=
  match oldestFault t.q.all with
  | none => none
  | some e =>
    match e.fault with
    | none => none
    | some i => some (e, i, t.olderDone e)

/-- Whether a queued trap stands before any bundle trap at the team's boundary (R154). -/
def Team.trapReady (t : Team) : Bool :=
  match queuedTrap t with
  | some x => x.2.2
  | none => false

/-! ### Grant and width points (R201, R205, R206) -/

/-- Bits below `n` of x, the others of y. -/
def splice {k : Nat} (n : Nat) (x y : BitVec k) : BitVec k :=
  BitVec.ofNat k (x.toNat % 2 ^ n + y.toNat / 2 ^ n * 2 ^ n)

/-- Registers and masks as `low` has them below a cut and as `high` has them from it on. -/
def VecState.graft (low high : VecState) (vbits kbits : Nat) : VecState :=
  { low with
    v := (List.range 32).foldl (fun m r => store 0#65536 m r (splice vbits (low.reg r) (high.reg r))) []
    k := (List.range 16).foldl (fun m r => store 0#8192 m r (splice kbits (look 0#8192 low.k r) (look 0#8192 high.k r))) []
    vPoison := low.vPoison.filter (fun b => decide (b % 128 * 512 < vbits)) ++
      high.vPoison.filter (fun b => decide (vbits ≤ b % 128 * 512)) }

/-- What a queued point does: everything from the cut on goes, or what a handler left there comes back. -/
def pointAct (overs : List (Nat × VecState)) (v : VecState) (e : QEntry) : VecState :=
  match e.op with
  | .v (.trunc vb kb) =>
    match find? overs e.no with
    | some o => v.graft o vb (kb.getD 8192)
    | none => v.trunc vb kb
  | _ => v

/-- Whether an entry is a grant or width point. -/
def QEntry.isPoint (e : QEntry) : Bool :=
  match e.op with
  | .v (.trunc _ _) => true
  | _ => false

/-- A layer seen under what the slot holds: the slot's below the layer's cut. -/
def UnderCut.over (u : UnderCut) (v : VecState) : VecState := v.graft u.vec u.vbits u.kbits

/-- A point at H-level lowers a layer's cut: from there on it keeps what the slot held before the point. -/
def UnderCut.lower (u : UnderCut) (v : VecState) (vb : Nat) (kb : Option Nat) : UnderCut :=
  { vec := u.over v, vbits := min u.vbits vb, kbits := min u.kbits (kb.getD 8192) }

/-- The layers of a queue from state v, one before each of its points, cut where the points behind it cut; and the state behind
them all. -/
def layersOf (overs : List (Nat × VecState)) : VecState → List QEntry → List UnderCut × VecState
  | v, [] => ([], v)
  | v, e :: r =>
    match e.op with
    | .v (.trunc vb kb) =>
      let x := layersOf overs (pointAct overs v e) r
      let u := match x.1 with
        | n :: _ => { vec := v, vbits := min vb n.vbits, kbits := min (kb.getD 8192) n.kbits : UnderCut }
        | [] => { vec := v, vbits := vb, kbits := kb.getD 8192 }
      (u :: x.1, x.2)
    | _ => layersOf overs v r

/-- A write to PDEGn, PSn, PNn or PFLAGS by its number (R128, R130). -/
def Team.setPolyCr (t : Team) (n : Nat) (v : Word) : Team :=
  let p := t.vec.poly (n % 8)
  let put := fun (p : Poly) => { t with vec := t.vec.setPoly (n % 8) p }
  if n ≤ 0x37 then put { p with pdeg := v.setWidth 6 }
  else if n ≤ 0x3F then put { p with ps := v.setWidth 32 }
  else if n ≤ 0x47 then put { p with pn := v.setWidth 32 }
  else { t with ctl := { t.ctl with pflags := v.setWidth 16 } }

/-- A polynomial syllable, or a write to a polynomial register, committed before is still to complete (R263); a captured
syllable stays in the queue until its frame's last pass. Log 106 (DESIGN CHOICE, unsafe). -/
def Team.polyBusy (t : Team) : Bool :=
  t.q.viq.any (fun e => match e.op with
    | .v o => VOp.isPoly o
    | _ => false)

/-- A point acts on the slot: at H-level, the syllables of the queue image go on seeing what it removes (R206). Log 85
(DEDUCED, safe). -/
def Team.actPoint (t : Team) (e : QEntry) : Team :=
  match e.op with
  | .v (.setp n v) => t.setPolyCr n v
  | .v (.trunc vb kb) =>
    let under := match t.image with
      | some q =>
        if q.isEmpty then t.under
        else
          let us := t.under.map (fun u => u.lower t.vec vb kb)
          if us.length ≤ (q.viq.filter QEntry.isPoint).length then us ++ [{ vec := t.vec, vbits := vb, kbits := kb.getD 8192 }] else us
      | none => t.under
    { t with vec := pointAct t.overs t.vec e, under := under, overs := drop t.overs e.no }
  | _ => t

/-! ### Taking a trap (R153 to R156) -/

/-- The bits of TPC, TVPC and a BKP address that a program address has (R131). -/
def maskPc : Word := 0x01FFFFFFFFFFFFFC#64

/-- R156: the H-level bank at handler entry. -/
def handlerBank (t : Team) (cause : Nat) (tval : Word) : List (Nat × Word) :=
  let b := (List.range 8).foldl (fun b i => store 0#64 b (i + 1) (look 0#64 t.regs (i + 1))) []
  let b := store 0#64 b 9 (BitVec.ofNat 64 cause)
  let b := store 0#64 b 10 tval
  store 0#64 b 29 t.bind.hdata

/-- The trap state of R153 at a boundary of an A-level team: what raised it, the address at which the team resumes,
and the faulting entry of a queued trap. -/
def Team.trapState (t : Team) (i : TrapInfo) (cls : Class) (q : Option QEntry) (tpc : Word) : Team :=
  let t := t.capture
  let clear := fun (es : List QEntry) =>
    es.map (fun e => if some e.no = q.map QEntry.no then { e with fault := none } else e)
  let at' := fun (k : Class) => match q with
    | some e => if qopCls e.op = k then e.start else 0
    | none => 0
  { t with
    ctl := { t.ctl with
      tcause := BitVec.ofNat 8 i.cause.code
      tval := i.tval
      tstatus := (if q.isSome then 8#4 else 0#4) ||| BitVec.ofNat 4 cls.code
      tvpc := match q with | some e => e.addr | none => 0#64
      tpc := tpc &&& maskPc
      es := BitVec.ofNat 16 (at' .v)
      mkp := BitVec.ofNat 16 (at' .m)
      cp := BitVec.ofNat 64 (at' .c) }
    image := some { t.q with viq := clear t.q.viq, mq := clear t.q.mq, cq0 := clear t.q.cq0, cq1 := clear t.q.cq1 }
    -- what comes after sees the state that the queued grants leave (R206)
    vec := (layersOf t.overs t.vec t.q.viq).2
    under := (layersOf t.overs t.vec t.q.viq).1
    q := Queues.empty }

/-- Enters the handler (R153, R156). -/
def Team.enterHandler (t : Team) (i : TrapInfo) : Team :=
  { t with hregs := handlerBank t i.cause.code i.tval, level := .h, pc := t.bind.tvec, entry := some { ctl := t.ctl, vec := t.vec, under := t.under, script := t.script } }

/-- TAKING A TRAP (R153): the trap registers, the landing slots, the queue image and the handler's first bundle. -/
def Team.takeTrap (t : Team) (i : TrapInfo) (cls : Class) (q : Option QEntry) (tpc : Word) : Team :=
  ({ t.trapState i cls q tpc with issued := false, acqBind := none, wake := none, held := false } : Team).enterHandler i

/-- R158: a trap raised at H-level, by a bundle or by a queued syllable, waits for ESCALATE_TRAP with its record (R131, R295). -/
def Team.escalate (t : Team) (i : TrapInfo) (cls : Class) (q : Option QEntry) : Team :=
  { t with
    status := .escalating
    esc := some { info := i, hpc := t.pc, cls := cls, qp := q.isSome, tvpc := (q.map QEntry.addr).getD 0#64, ended := false } }

/-- A bundle trap of the bundle at `tpc` (R152), at the team's level (R157, R158). -/
def Team.bundleTrap (t : Team) (i : TrapInfo) (cls : Class) (tpc : Word) : Team :=
  match t.level with
  | .a => t.takeTrap i cls none tpc
  | .h => t.escalate i cls none

/-- A bundle trap of the team in a slot; any trap clears the link set (R256). -/
def State.bundleTrap (s : State) (tk : Nat) (i : TrapInfo) (cls : Class) (tpc : Word) : State :=
  { s.setTeam tk ((s.team tk).bundleTrap i cls tpc) with ms := s.ms.setLinks tk [] }

/-- A trap of the S syllable in execution: its bundle does not commit. -/
def State.trapS (s : State) (c : Cause) (v : Word) : State :=
  (s.bundleTrap s.cur.tk { cause := c, tval := v } .s s.cur.addr).setCur .stopped

/-- A saved entry as it goes on: it faults again only if its cause remains (R154), and translates again what it had pinned
(R181, R183). A C entry enters its engine's four in progress again at its own point, and a `cnm` not handed over begins again
from its checks (R298, R324). -/
def QEntry.again (e : QEntry) : QEntry :=
  let e := { e with fault := none, probe := none }
  match e.op with
  | .c o =>
    let cnm := decide (o.kind = .cnm) || decide (o.kind = .cnmAll)
    { e with idx := if cnm && decide (e.start ≠ 0) then e.idx else 0, acq := e.acq && !(cnm && decide (e.start = 0)) }
  | _ => e

/-- A saved queue image as it goes on. -/
def Queues.again (q : Queues) : Queues :=
  { q with viq := q.viq.map QEntry.again, mq := q.mq.map QEntry.again, cq0 := q.cq0.map QEntry.again, cq1 := q.cq1.map QEntry.again }

/-- What the probe passes of a queue have pinned is free (R181). -/
def Queues.unpin (q : Queues) : Queues := { q with viq := q.viq.map (fun e => { e with probe := none }) }

/-- The point behind the image that puts back, once its syllables have run, what the handler left above its grants' cut. -/
def Team.backPoint (t : Team) (u : UnderCut) : QEntry :=
  { no := t.nextNo, bno := t.bno, hl := false, addr := 0, word := 0, op := .v (.trunc u.vbits (some u.kbits)), gl := 0,
    vtype := t.ctl.vtype, seed := 0, seb := 0, ntfw := 0, cka := 0, ckr := 0, x := 0, y := 0, z := 0, sx := 0, sy := 0, start := 0,
    cap := none, probe := none, grans := [], run := none, pfmt := none, fl := 0, pass := 0, idx := 0, acq := false, done := false,
    replayed := false, remirrored := false, strip := t.strip, ceNo := 0, fault := none }

/-- The queue image is reinstated (R163, R206): its syllables see the vector state of their layer, with what the handler
wrote where no point lies between; each point leaves the next layer from its cut on, and the last what the handler left. Log
85 (DEDUCED, safe). -/
def Team.reinstate (t : Team) (q : Queues) : Team :=
  match t.under with
  | [] => { t with q := q.again, image := none }
  | u :: us =>
    let ps := q.viq.filter QEntry.isPoint
    let overs := (ps.zip (us.map (fun x => x.over t.vec) ++ [t.vec])).foldl (fun m x => put m x.1.no x.2) t.overs
    let y := { t with q := q.again, image := none, under := [], vec := u.over t.vec, overs := overs }
    if us.length = ps.length then
      { y with
        q := { q.again with viq := q.again.viq ++ [t.backPoint (us.getLastD u)] }
        overs := put overs t.nextNo t.vec, nextNo := t.nextNo + 1 }
    else y

/-- The return of R163: the team's s1 to s8, the queue image, landing slots and pending loads, level and PC. -/
def Team.trapReturn (t : Team) : Team :=
  let regs := (List.range 8).foldl (fun b i => store 0#64 b (i + 1) (look 0#64 t.hregs (i + 1))) t.regs
  -- the faulting entry restarts where the handler left ES, MK or CP
  let restart := fun (cls : Class) (n : Nat) (hit : Option QEntry) (es : List QEntry) =>
    if t.ctl.tstatus.getLsbD 3 && decide ((t.ctl.tstatus.extractLsb' 0 2).toNat = cls.code) then
      es.map (fun e => if hit.map QEntry.no = some e.no ∧ e.addr = t.ctl.tvpc then { e with start := n } else e)
    else es
  let q := match t.image with | some q => q | none => Queues.empty
  let q := { q with
    viq := restart .v t.ctl.es.toNat (viqCurrent q.viq) q.viq
    mq := restart .m t.ctl.mkp.toNat q.mq.head? q.mq
    cq0 := restart .c t.ctl.cp.toNat q.cq0.head? q.cq0
    cq1 := restart .c t.ctl.cp.toNat q.cq1.head? q.cq1 }
  let t := t.reinstate q
  ({ t with
    regs := regs, hregs := [], entry := none, level := .a, pc := t.ctl.tpc, afterTret := true
    ctl := { t.ctl with es := 0, mkp := 0, cp := 0 } } : Team).rearm

/-- A queue that was empty and holds entries again takes the other slot's virtual time where that is later (R214, R277, R299). -/
def Team.rejoin (t other : Team) : Team :=
  let later := fun (es : List QEntry) (x y : Nat) => if es.isEmpty then x else max x y
  { t with
    vt := later t.q.viq t.vt other.vt, mvt := later t.q.mq t.mvt other.mvt
    cvt0 := later t.q.cq0 t.cvt0 other.cvt0, cvt1 := later t.q.cq1 t.cvt1 other.cvt1 }

/-- An event that ends a `wfe` has come to the slot (R165). -/
def Team.wakeUp (t : Team) : Team :=
  match t.wake with
  | some _ => { t with wake := some true }
  | none => t

/-! ### Lanes and grants (R145, R198, R203, R205, R208, R216, R217) -/

/-- The usable physical lanes of a core for a team, in ascending order: logical lane q is the q-th (R198, R216, R217). -/
def usable (lmap : Word) (prot : Bool) : List Nat :=
  if prot then (List.range 32).filter (fun l => !lmap.getLsbD l && !lmap.getLsbD (l + 32))
  else (List.range 64).filter (fun l => !lmap.getLsbD l)

/-- How many logical lanes there are (R198). -/
def lanes (lmap : Word) (prot : Bool) : Nat := (usable lmap prot).length

/-- Elements a row holds at width w (R198). -/
def epg (l w : Nat) : Nat := if w = 64 then l / 2 else l * 32 / w

/-- The row of element i, and the logical lanes it lies in (R198): at 64 bits, its low and its high half. -/
def elemRow (l w i : Nat) : Nat := i / epg l w
def elemLanes (l w i : Nat) : List Nat :=
  if w = 64 then [2 * (i % epg l w), 2 * (i % epg l w) + 1] else [i % epg l w / (32 / w)]

/-- The physical lane an element lies in (R198), its low half at 64 bits. -/
def physLane (lmap : Word) (prot : Bool) (w i : Nat) : Nat :=
  (usable lmap prot).getD ((elemLanes (lanes lmap prot) w i).headD 0) 0

/-- The 32-bit words a row holds at width w (R198): at 64 bits the last lane of an odd number of them holds none. -/
def rowWords (l w : Nat) : Nat := if w = 64 then 2 * (l / 2) else l

/-- The 32-bit word of a register in compact element order that row `row` holds in physical lane p at width w; none where the lane
holds no element (R198). Of a protected team lane l + 32 holds the second copy of what lane l holds (R216). -/
def wordAt (lmap : Word) (prot : Bool) (w row p : Nat) : Option Nat :=
  match (usable lmap prot).zipIdx.find? (fun x => decide (x.1 = if prot && decide (32 ≤ p) then p - 32 else p)) with
  | some x => if x.2 < rowWords (lanes lmap prot) w then some (row * rowWords (lanes lmap prot) w + x.2) else none
  | none => none

/-- VLMAX(w) (R198, R200). -/
def vlmax (l w : Nat) : Nat := 32 * epg l w

/-- Width of the format a team's VTYPE names. -/
def Ctl.width (c : Ctl) : Nat := (vtFmt c.vtype).width

def State.lanesOf (s : State) (tk : Nat) : Nat := lanes (s.ms.core (coreOf tk)).lmap (s.team tk).bind.prot

/-- VLMAX of a team at its width, on its core (R200). -/
def State.vlmaxOf (s : State) (tk : Nat) : Nat := vlmax (s.lanesOf tk) (s.team tk).ctl.width

/-- R203: a capacity in elements at width w, never less than 1. -/
def capElems (cap32 w : Nat) : Nat := max 1 (if w = 64 then cap32 / 2 else cap32 * (32 / w))

/-- R208: the capacity in force for a request, and the script moved on. -/
def Team.capFor (t : Team) (q : Word) : Nat × Team :=
  match t.script with
  | none => (capElems t.cap32 t.ctl.width, t)
  | some sc =>
    if q = 0#64 then (1, t)
    else
      let c := max 1 (sc.caps.getD sc.pos 1)
      (c, { t with script := some { sc with pos := min (sc.pos + 1) (sc.caps.length - 1) } })

/-- grant(q) of R145. -/
def grantOf (q : Word) (vl cap hold : Nat) : Nat := min q.toNat (min vl (max cap hold))

/-- The weight of a priority class (R363). -/
def clsWeight (cls : Nat) : Nat := match cls with | 0 => 8 | 1 => 4 | 2 => 2 | _ => 1

/-- Takes a grant for request q: GL, the script, and the point where elements at or above the new grant go (R205). -/
def State.grant (s : State) (q : Word) : State :=
  let tk := s.cur.tk
  let t := s.curTeam
  let c := t.capFor q
  let n := grantOf q (s.vlmaxOf tk) c.1 t.ctl.hold.toNat
  let o := t.ctl.gl.toNat
  -- the slot's strip ends: its charge is drawn (R214)
  let s := s.setTeam tk { c.2 with
    ctl := { c.2.ctl with gl := BitVec.ofNat 16 n }
    vt := (t.vt + 8 * t.charge / clsWeight t.bind.cls) % 2 ^ 64
    charge := 0, strip := t.strip + 1 }
  if n < o then { s with cur := { s.cur with cuts := s.cur.cuts ++ [.trunc (n * t.ctl.width) (some n)] } } else s

/-! ### Entering a queue (R20, R22) -/

/-- An entry for the syllable in execution, with everything it captures from the sequencer's side (R22, R78, R87). -/
def State.entry (s : State) (op : QOp) (x y z : Reg) : QEntry :=
  let c := s.cur.ctl
  let t := s.curTeam
  { no := t.nextNo, bno := t.bno, hl := decide (t.level = .h), addr := s.cur.addr, word := s.cur.word, op := op, gl := c.gl.toNat, vtype := c.vtype,
    seed := c.seed, seb := c.seb, ntfw := c.ntfw, cka := c.cka, ckr := c.ckr, x := s.cur.reg x, y := s.cur.reg y,
    z := s.cur.reg z, sx := 0, sy := 0, start := 0, cap := none, probe := none, grans := [], run := none, pfmt := none, fl := 0, pass := 0, idx := 0, acq := false,
    done := false, replayed := false, remirrored := false, strip := s.cur.strip, ceNo := 0, fault := none }

/-- The charge of a V syllable in element-beats over `groups` groups of `epg` elements (R212, R213, R264); protected mode
doubles that of a polynomial one (R273). Log 110 (DESIGN CHOICE, safe). -/
def vopBeats (op : VOp) (gl epg pdeg : Nat) (prot : Bool) : Nat :=
  let groups := fun (n : Nat) => (n + epg - 1) / max 1 epg
  let p := if prot then 2 else 1
  match op with
  | .fp2 .div _ => groups gl * 4
  | .fp1 .sqrt _ => groups gl * 4
  | .mem (.load .indexed _) | .mem (.store .indexed _) | .mem (.gl _) | .mem (.sc _) | .mem (.amo _ _) => groups gl * 2
  | .ppmul _ _ => p * (groups gl * epg)
  | .ppdiv _ => p * (pdeg + 1)
  | .ppinit _ _ => p
  | .ppmvV _ _ _ | .ppmvP _ _ _ => p * groups (min gl 64)
  | .rep _ _ _ | .trunc _ _ | .setp _ _ => 0
  | _ => groups gl

/-- The polynomial register a syllable divides. -/
def vopDiv : VOp → Nat
  | .ppdiv d => d.toNat
  | _ => 0

/-- How often a syllable committed now will execute: once, or once for each pass of the open frame (R213, R243). -/
def Team.passes (t : Team) : Nat :=
  match t.q.frame with
  | none => 1
  | some f =>
    match t.q.viq.find? (fun e => decide (e.no = f.head)) with
    | some e => (match e.op with | .v (.rep _ _ r) => r | _ => 1)
    | none => 1

/-- The charge an entry adds to the slot's strip (R213). -/
def State.vCharge (s : State) (op : VOp) (gl : Nat) : Nat :=
  let t := s.curTeam
  let e := epg (s.lanesOf s.cur.tk) s.cur.ctl.width
  t.passes * vopBeats op gl e (t.vec.poly (vopDiv op)).pdeg.toNat t.bind.prot

/-- The other slot of a core. -/
def otherSlot (tk : Nat) : Nat := tk + 1 - 2 * (tk % 2)

/-- A V syllable takes its place in the VIQ, inside an open frame or not (R209, R214, R243). -/
def State.pushV (s : State) (op : VOp) (x y z : Reg) : State :=
  let t := s.curTeam
  let e := s.entry (.v op) x y z
  let frame := match t.q.frame with
    | none => none
    | some f => if f.left ≤ 1 then none else some { f with left := f.left - 1 }
  let other := s.team (otherSlot s.cur.tk)
  let vt := if t.q.viq.isEmpty then max t.vt other.vt else t.vt
  let c := s.vCharge op e.gl
  -- behind a grant of its own bundle, the syllable belongs to the strip that grant has ended (R206, R213)
  let open' := decide (t.strip = s.cur.strip)
  s.setTeam s.cur.tk
    { t with q := { t.q with viq := t.q.viq ++ [e], frame := frame }, nextNo := t.nextNo + 1
             vt := if open' then vt else (vt + 8 * c / clsWeight t.bind.cls) % 2 ^ 64
             charge := if open' then t.charge + c else t.charge }

/-- A marker of a grant or width point, in queue order after the bundle's own V syllable (R201, R206); with nothing
queued it acts at once. The same of a write to a polynomial register, which the bundle's own V syllable does not see (R78,
R263); with no polynomial syllable queued it acts at once. -/
def State.cut (s : State) (op : VOp) : State :=
  let t := s.curTeam
  match op with
  | .trunc vb kb =>
    let e := s.entry (.v (.trunc vb kb)) 0 0 0
    if t.q.isEmpty then s.setTeam s.cur.tk (t.actPoint e)
    else s.setTeam s.cur.tk { t with q := { t.q with viq := t.q.viq ++ [e] }, nextNo := t.nextNo + 1 }
  | .setp n v =>
    if t.polyBusy then
      s.setTeam s.cur.tk { t with q := { t.q with viq := t.q.viq ++ [s.entry (.v (.setp n v)) 0 0 0] }, nextNo := t.nextNo + 1 }
    else s.setTeam s.cur.tk (t.setPolyCr n v)
  | _ => s

/-- An M syllable takes its place in the matrix queue, with the scale addresses its descriptors name (R276, R280); an idle slot
takes the later matrix virtual time (R277). -/
def State.pushM (s : State) (op : MOp) (x y z : Reg) (scaled : Bool) : State :=
  let t := s.curTeam
  let e := s.entry (.m op) x y z
  let e := if scaled then
    { e with sx := s.cur.reg (BitVec.ofNat 5 (Opd.of e.y).sc), sy := s.cur.reg (BitVec.ofNat 5 (Opd.of e.z).sc) } else e
  let mvt := if t.q.mq.isEmpty then max t.mvt (s.team (otherSlot s.cur.tk)).mvt else t.mvt
  s.setTeam s.cur.tk { t with q := { t.q with mq := t.q.mq ++ [e] }, nextNo := t.nextNo + 1, mvt := mvt }

/-- A C syllable takes its place in the queue its tag selects, behind every entry of either slot (R88, R298); an idle slot takes
the later virtual time of that engine (R299). -/
def State.pushC (s : State) (op : COp) (x y z : Reg) : State :=
  let t := s.curTeam
  let n := max t.ceNo (s.team (otherSlot s.cur.tk)).ceNo + 1
  let e := { s.entry (.c op) x y z with ceNo := n }
  let q := if op.tag.toNat < 8 then { t.q with cq0 := t.q.cq0 ++ [e] } else { t.q with cq1 := t.q.cq1 ++ [e] }
  let other := s.team (otherSlot s.cur.tk)
  let zero := decide (op.tag.toNat < 8)
  let cvt0 := if zero && t.q.cq0.isEmpty then max t.cvt0 other.cvt0 else t.cvt0
  let cvt1 := if !zero && t.q.cq1.isEmpty then max t.cvt1 other.cvt1 else t.cvt1
  s.setTeam s.cur.tk { t with q := q, nextNo := t.nextNo + 1, ceNo := n, cvt0 := cvt0, cvt1 := cvt1 }

/-! ### Local memory and siblings (R19, R27, R47, R48) -/

def Team.lmSize (t : Team) : Nat := t.bind.lmu * 65536
def Team.lmBase (t : Team) : Nat := t.bind.lmb * 65536

/-- The key of a team's gang (R27, R43). -/
def Team.sameGang (t u : Team) : Bool :=
  decide (u.bind.slot = t.bind.slot) && decide (u.bind.seq = t.bind.seq) && decide (u.bind.gidx = t.bind.gidx)

/-- Whether a slot still holds a team of a gang: bound, running or ended with its memory kept (R30). -/
def Team.present (t : Team) : Bool :=
  match t.status with
  | .empty => false
  | _ => true

/-- The teams of the gang of the team in a slot, on its cluster. -/
def State.gang (s : State) (tk : Nat) : List (Nat × Team) :=
  s.teams.filter (fun e => decide (clusterOf e.1 = clusterOf tk) && e.2.present && (s.team tk).sameGang e.2)

/-- The slot of sibling j (R27). -/
def State.sibling (s : State) (tk j : Nat) : Option Nat :=
  match (s.gang tk).filter (fun e => decide (e.2.bind.tidx = j)) with
  | [] => none
  | e :: _ => some e.1

end Sys2Proof.Machine
end

