-- ==== Sys2Proof/Machine/Control.lean ====
section
/-! DEFINITION. Control flow and the trap instructions of the team sequencer (R136 to R138, R161 to R165). -/

namespace Sys2Proof.Machine

/-- A branch: the target is fetched after the bundle has committed when the condition holds (R78, R136). -/
def State.branch (s : State) (c : Bool) (o : BitVec 13) : State := if c then s.jump (s.target o) else s

/-- Equal. -/
def execBeq (a b : Reg) (o : BitVec 13) (s : State) : Out := .next (s.branch (decide (s.rd a = s.rd b)) o)

/-- Not equal. -/
def execBne (a b : Reg) (o : BitVec 13) (s : State) : Out := .next (s.branch (decide (s.rd a ≠ s.rd b)) o)

/-- Signed less than. -/
def execBlt (a b : Reg) (o : BitVec 13) (s : State) : Out := .next (s.branch ((s.rd a).slt (s.rd b)) o)

/-- Signed greater or equal. -/
def execBge (a b : Reg) (o : BitVec 13) (s : State) : Out := .next (s.branch (!(s.rd a).slt (s.rd b)) o)

/-- Unsigned less than. -/
def execBltu (a b : Reg) (o : BitVec 13) (s : State) : Out := .next (s.branch ((s.rd a).ult (s.rd b)) o)

/-- Unsigned greater or equal. -/
def execBgeu (a b : Reg) (o : BitVec 13) (s : State) : Out := .next (s.branch (!(s.rd a).ult (s.rd b)) o)

/-- Jumps and links: the link is the address after the bundle's last syllable (R137). -/
def execJal (d : Reg) (o : BitVec 18) (s : State) : Out := .next ((s.jump (s.target o)).write 1 d s.cur.link)

/-- The target is read before the link is written (R137). -/
def execJalr (d a : Reg) (i : BitVec 13) (s : State) : Out :=
  .next ((s.jump ((s.rd a + sx i * 4#64) &&& ~~~3#64)).write 1 d s.cur.link)

/-- No effect (R138). -/
def execNop (s : State) : Out := .next s

/-! ### The trap instructions -/

/-- The trap a `trap` syllable raises once its bundle has committed (R154, R161). -/
def State.afterCommit (s : State) (c : Cause) : State :=
  { s with cur := { s.cur with raise := some { cause := c, tval := s.cur.word.setWidth 64 } } }

/-- The calls the resident OS serves (R162). -/
def listedCall (n : Nat) : Bool := decide (n = 1) || decide (n = 2) || decide (n = 3)

/-- The answer to a number R162 does not list. -/
def noSuchCall : Word := 0xFFFFFFFFFFFFFFFF#64

/-- `trap.sys`: SYSCALL at A-level, taken at the boundary after the bundle; at H-level a forwarded call, for which the
slot halts until the resident OS answers (R157, R161, R162). -/
def execTrapSys (c : BitVec 12) (s : State) : Out :=
  match s.curTeam.level with
  | .a => .next (s.afterCommit .syscall)
  | .h =>
    if listedCall c.toNat then
      let s := s.setTeam s.cur.tk { s.curTeam with status := .forwarded, call := some c.toNat }
      .next { s with syscalls := s.syscalls ++ [{ caller := .team s.cur.tk, num := c.toNat }] }
    else .next (s.setTeam s.cur.tk (s.curTeam.setReg 1#5 noSuchCall))

/-- `trap.brk`: BREAKPOINT after the bundle, escalated at H-level (R161). -/
def execTrapBrk (_c : BitVec 12) (s : State) : Out := .next (s.afterCommit .breakpoint)

/-- `tret` (R163): ILLEGAL at A-level; at H-level it waits for what was issued there, then returns. -/
def execTret (s : State) : Out :=
  match s.curTeam.level with
  | .a => .next (s.trapS .illegal (s.cur.word.setWidth 64))
  | .h =>
    if s.curTeam.q.isEmpty then
      .next { s.setTeam s.cur.tk (s.curTeam.trapReturn.rejoin (s.team (otherSlot s.cur.tk))) with
        cur := { s.cur with npc := s.curTeam.ctl.tpc, ret := true } }
    else .next s.hold

/-- `wfe` (R165): holds until an event for the slot comes after the hold's start. -/
def execWfe (s : State) : Out :=
  match s.curTeam.wake with
  | some true => .next (s.setTeam s.cur.tk { s.curTeam with wake := none })
  | _ => .next (s.setTeam s.cur.tk { s.curTeam with wake := some false }).hold

end Sys2Proof.Machine
end

