-- ==== Sys2Proof/Machine/VecMem.lean ====
section
/-! DEFINITION. Vector memory, vector atomics, links and progress words (R119 to R121, R246 to R259). -/

namespace Sys2Proof.Machine

/-! ### The fields of a memory syllable (R246) -/

/-- Space code of R45; the VA field codes 00 g, 01 lm, 10 cw (R87). -/
def vmSpace : VMem → Nat
  | .load _ o => o.c.toNat
  | .store _ o => o.c.toNat
  | .gl o => o.c.toNat
  | .sc o => o.c.toNat
  | .amo _ o => match o.c.toNat with | 0 => 0 | 1 => 2 | _ => 1

def vmMask : VMem → Nat
  | .load _ o => o.m.toNat
  | .store _ o => o.m.toNat
  | .gl o => o.m.toNat
  | .sc o => o.m.toNat
  | .amo _ o => o.m.toNat

def vmData : VMem → Reg
  | .load _ o => o.d
  | .store _ o => o.d
  | .gl o => o.d
  | .sc o => o.d
  | .amo _ o => o.d

/-- The column of R177 an element is checked in. -/
def vmAcc : VMem → Acc
  | .load _ _ | .gl _ => .read
  | _ => .write

def vmShape : VMem → VShape
  | .load sh _ => sh
  | .store sh _ => sh
  | _ => .indexed

/-- The register in [12:8] of an indexed or tensor access. -/
def vmIdx : VMem → Reg
  | .load _ o => o.b
  | .store _ o => o.b
  | .gl o => o.b
  | .sc o => o.b
  | .amo _ o => o.b

def vmIsAmo : VMem → Bool
  | .amo _ _ => true
  | _ => false

def vmIsSc : VMem → Bool
  | .sc _ => true
  | _ => false

/-- A load that reads `g:` at the home (R251, R257). -/
def vmHome : VMem → Bool
  | .load _ o => o.o
  | .gl _ => true
  | _ => false

/-- R259: the progress word of an ntf store, zero for a plain one. -/
def vmWord (o : VMem) (e : QEntry) : Word :=
  match o with
  | .store _ s => if s.n then e.ntfw &&& 0x01FFFFFFFFFFFFF8#64 else 0#64
  | _ => 0#64

/-! ### Addresses (R248, R254) -/

/-- A 32-bit word of the captured shape record, whose bytes outside the live part read zero (R202, R254). -/
def shapeWord (e : QEntry) (i : Nat) : Nat := elem 32 (e.cap.getD 0#65536) i % 2 ^ (e.gl * e.w - 32 * i)

/-- off(i); none for a tensor element beyond the extents (R254). Log 72 (DEDUCED, unsafe). -/
def vmOff (o : VMem) (e : QEntry) (i : Nat) : Option Int :=
  match vmShape o with
  | .strided => if vmIdx o = 0#5 then some (i : Int) else some (i * e.z.toInt)
  | .indexed => some (toSigned e.w (elem e.w (e.cap.getD 0#65536) i))
  | .tensor =>
    let x := fun j => shapeWord e (2 + j)
    let st := fun j => toSigned 32 (shapeWord e (6 + j))
    let n := e.seb.toNat + i
    if x 0 * x 1 * x 2 * x 3 ≤ n then none
    else
      some (BitVec.ofInt 64 ((n % x 0 : Nat) * st 0 + (n / x 0 % x 1 : Nat) * st 1 + (n / (x 0 * x 1) % x 2 : Nat) * st 2 +
        (n / (x 0 * x 1 * x 2) : Nat) * st 3)).toInt

/-- sa, with a tensor's base added (R254). -/
def vmBase (o : VMem) (e : QEntry) : Word :=
  match vmShape o with
  | .tensor => e.y + BitVec.ofNat 64 (shapeWord e 0 + shapeWord e 1 * 2 ^ 32)
  | _ => e.y

/-- The bit address of R248, modulo 2^67. -/
def bitAddr (sa : Word) (off : Int) (me : Nat) : Nat := ((8 * (sa.toNat : Int) + off * me) % (2 ^ 67 : Nat)).toNat

/-- ZF of a shape record (R254). -/
def vmZeroFill (o : VMem) (e : QEntry) : Bool :=
  match o with
  | .load .tensor _ => decide (shapeWord e 10 % 2 = 1)
  | _ => false

/-! ### Page formats (R119, R120) -/

/-- The element format a page's EF names. -/
def efFmt (ef : Nat) : Fmt := (Fmt.ofCode ef).getD .raw

/-- Memory width on a page (R248). -/
def pageWidth (leaf w : Nat) : Nat := if pageEF leaf = 0 then w else (efFmt (pageEF leaf)).width

/-- The 6-bit FMT field of a leaf (R119). -/
def pageFmt (leaf : Nat) : Nat := fld leaf 8 6

/-- The page format an access to `g:` has, with its memory width: that of the page of its first element (R121). The width is
first taken from the page of the base address, then from the register format, then from the others. Log 35 (DEDUCED,
unsafe). -/
def vmFormat (ms : MemSys) (t : Team) (u : TlbPlace) (o : VMem) (e : QEntry) (off : Int) : Nat × Nat :=
  let sa := vmBase o e
  let leafAt := fun (va : Nat) =>
    if va / 2 ^ 57 ≠ 0 then none
    else (ms.lookup u t.bind.asn t.bind.root va).2.toOption.map (fun x => x.leaf)
  let try' := fun (me : Nat) =>
    match leafAt (bitAddr sa off me / 8) with
    | some l => if vmIsAmo o || decide (pageWidth l e.w = me) then some (me, pageFmt l) else none
    | none => none
  let first := match leafAt sa.toNat with | some l => [pageWidth l e.w] | none => []
  -- an atomic's elements have the register width (R255)
  match firstSome try' (if vmIsAmo o then [e.w] else first ++ [e.w, 4, 8, 16, 32, 64]) with
  | some r => r
  | none => (e.w, 0)

/-! ### Checks of one element (R253) -/

/-- Where an element lies: a translated global byte, or a byte of a core's local memory. -/
inductive Loc where
  | g (x : Xlat) (va : Nat)
  | l (core off : Nat)
  deriving DecidableEq, Repr

/-- What stays fixed over the elements of an access. -/
structure VmCtx where
  tk   : Nat
  o    : VMem
  e    : QEntry
  me   : Nat
  fmt  : Nat
  deriving DecidableEq, Repr

def VmCtx.w (c : VmCtx) : Nat := c.e.w
def VmCtx.en (c : VmCtx) (v : VecState) (i : Nat) : Bool := v.mask (vmMask c.o) i

/-- The position of an element on its page, in elements of the memory width (R119). -/
def pagePos (x : Xlat) (bit me : Nat) : Nat := bit % (8 * x.ent.size) / me

def ti (c : Cause) (a : Nat) : TrapInfo := { cause := c, tval := BitVec.ofNat 64 a }

/-- Page-format rules of an element (R120, R121, R255). Log 72 (DEDUCED, unsafe). Log 101 (DESIGN CHOICE, unsafe). -/
def vmPageOk (c : VmCtx) (v : VecState) (x : Xlat) (bit i : Nat) : Bool :=
  let leaf := x.ent.leaf
  let blk := pageBlk leaf
  let bs := vtBS c.e.vtype
  let first := (List.range i).all (fun j => !c.en v j)
  if vmIsAmo c.o then
    decide (pageFmt leaf = c.fmt) && decide (blk = 0) && decide (bs = 0) &&
      (decide (pageEF leaf = 0) || decide (pageEF leaf = (vtFmt c.e.vtype).code))
  else
    decide (pageFmt leaf = c.fmt) && !(vmIsSc c.o && decide (blk ≠ 0)) && !inScaleArea x.ent (bit / 8) && (decide (bs = 0) || decide (bs = blk)) &&
    (decide (bs = 0) || decide (blk = 0) || (decide (c.e.gl % bs = 0) && (!first || decide (pagePos x bit c.me % blk = 0))))

/-- Local-memory location of an address in `lm:` or `cw:` (R47, R48). Log 54 (DEDUCED, safe). -/
def lmLoc (s : State) (tk : Nat) (sp va size : Nat) : Except TrapInfo Loc :=
  let t := s.team tk
  if va % size ≠ 0 then .error (ti (if sp = 1 then .misalign else .lmalign) va)
  else if sp = 1 then
    if va / 2 ^ 25 ≠ 0 then .error (ti .lmrange va)
    else
      let j := va / 2 ^ 22
      if t.bind.gsz ≤ j then .error (ti .lmrange va)
      else
        match s.sibling tk j with
        | none => .error (ti .lmrange va)
        | some u =>
          if (s.team u).lmSize ≤ va % 2 ^ 22 then .error (ti .lmrange va)
          else .ok (.l (coreOf u) ((s.team u).lmBase + va % 2 ^ 22))
  else if t.lmSize ≤ va then .error (ti .lmrange va)
  else .ok (.l (coreOf tk) (t.lmBase + va))

/-- The TLB an element is translated in: for an indexed access the bank of the lane that holds it, else the core's (R180).
Log 109 (DESIGN CHOICE, safe). -/
def vmPlace (s : State) (tk : Nat) (o : VMem) (w i : Nat) : TlbPlace :=
  match vmShape o with
  | .indexed => .bank (coreOf tk) (physLane (s.ms.core (coreOf tk)).lmap (s.team tk).bind.prot w i)
  | _ => .data (coreOf tk)

/-- Translation of an element: the one its probe pass has pinned, else a new one (R180, R181). -/
def vmXlat (s : State) (c : VmCtx) (va i : Nat) : MemSys × Except Cause Xlat :=
  let pin := match c.e.probe with | some p => find? p.pins i | none => none
  match pin with
  | some x =>
    -- a pinned translation that its TLB has let go stands there again
    (if s.ms.tlb.any x.ent.same then s.ms else s.ms.tlbAdd x.ent, .ok { x with ent := s.ms.current x.ent })
  | none =>
    let t := s.team c.tk
    s.ms.translate (vmPlace s c.tk c.o c.w i) t.bind.asn t.bind.root c.e.hl (vmAcc c.o) (BitVec.ofNat 64 va)

/-- The first four checks of R253. -/
def vmCheck (s : State) (c : VmCtx) (v : VecState) (bit i : Nat) : State × Except TrapInfo Loc :=
  let va := bit / 8
  if vmSpace c.o = 0 then
    if 8 ≤ c.me ∧ va % (c.me / 8) ≠ 0 then (s, .error (ti .misalign va))
    else
      match vmXlat s c va i with
      | (ms, .error k) => ({ s with ms := ms }, .error (ti k va))
      | (ms, .ok x) =>
        if vmPageOk c v x bit i then ({ s with ms := ms }, .ok (.g x va))
        else ({ s with ms := ms }, .error (ti .format va))
  else (s, lmLoc s c.tk (vmSpace c.o) va (c.me / 8))

/-! ### Reading and writing one element's bits -/

/-- UE_CONSUMED for a poisoned block: its `g:` address, or its `lm:` or `cw:` address with bit 63 set (R155). -/
def ueAt (g : Bool) (va : Nat) : TrapInfo := ti .ueConsumed (va / 64 * 64 + (if g then 0 else 2 ^ 63))

/-- n bytes of a global address, through the L1 or at the home, and whether they are poisoned. -/
def readG (s : State) (tk : Nat) (home : Bool) (pa va n : Nat) : State × Nat × Bool :=
  let core := coreOf tk
  if home then
    -- the team's own stores still in its L1 come first, and no older copy stays (R59)
    let ms := s.ms.evictLine core pa
    ({ s with ms := ms }, ms.homeRead pa n, ms.poisoned pa)
  else
    let r := s.ms.fillLine core pa (s.team tk).bind.asn va
    ({ s with ms := r.1 }, r.2.read (pa % 64) n, r.2.poison || r.2.lost)

/-- Bytes an element of `me` bits takes. -/
def meBytes (me : Nat) : Nat := if me < 8 then 1 else me / 8

/-- The element's bits out of its bytes (R103). -/
def pickBits (me bit x : Nat) : Nat := if me < 8 then x / 2 ^ (bit % 8) % 2 ^ me else x

/-- Reads the bits of an element: `va` is the address its space gives. -/
def readElem (s : State) (c : VmCtx) (l : Loc) (bit : Nat) : State × Except TrapInfo Nat :=
  match l with
  | .g x va =>
    let r := readG s c.tk (vmHome c.o) x.pa va (meBytes c.me)
    if r.2.2 then (r.1, .error (ueAt true va)) else (r.1, .ok (pickBits c.me bit r.2.1))
  | .l core off =>
    if s.ms.lmBad core off then (s, .error (ueAt false (bit / 8))) else (s, .ok (s.ms.lmRead core off (meBytes c.me)))

/-- A store of n bytes to `g:` through the L1, with D and the dirty map first (R54, R179). -/
def storeL1 (s : State) (tk : Nat) (x : Xlat) (va n v : Nat) : State :=
  { s with ms := (s.ms.markWrite x va).l1Write (coreOf tk) (tk % 2) x.pa x.ent.asn va n v }

/-- A write of n bytes at the home, the core's own line written back and dropped first (R55). -/
def storeHome (s : State) (tk : Nat) (x : Xlat) (va n v : Nat) (who : Party) : State :=
  { s with ms := (((s.ms.markWrite x va).evictLine (coreOf tk) x.pa).homeWrite x.pa n v who) }

/-- Stores an element's bits; an ntf store is written through to its home (R259). -/
def writeElem (s : State) (c : VmCtx) (l : Loc) (bit v : Nat) (through : Bool) : State :=
  match l with
  | .g x va =>
    let n := meBytes c.me
    let v := if c.me < 8 then
        let old := (readG s c.tk false x.pa va 1).2.1
        old - (old / 2 ^ (bit % 8) % 2 ^ c.me) * 2 ^ (bit % 8) + v % 2 ^ c.me * 2 ^ (bit % 8)
      else v
    let s := storeL1 s c.tk x va n v
    if through then { s with ms := s.ms.cleanLines (coreOf c.tk) (fun y => decide (y.pa = x.pa / 64)) } else s
  | .l core off => { s with ms := s.ms.lmWrite core off (meBytes c.me) v }

/-! ### Values (R120) -/

/-- The codebook VTYPE.CB names. -/
def vmCb (v : VecState) (e : QEntry) (c : Nat) : Nat := (look 0#16 v.cb (vtCB e.vtype * 16 + c)).toNat

/-- The exact value of an element of a page's format. -/
def pageVal (v : VecState) (e : QEntry) (ef : Fmt) (x : Nat) : FVal :=
  match ef with
  | .c4 => match ffBf16.decode (vmCb v e x) with | .nan _ => .nan false | y => y
  | f => f.val x

/-- Whether bytes move unchanged between a page of this FMT field and the register format (R120). -/
def rawMove (fmt : Nat) (w : Fmt) : Bool := decide (fmt % 16 = 0) || decide (fmt % 16 = w.code)

/-- A loaded element converted to VTYPE.FMT, scaled where `sc` gives its block's byte (R114, R120). -/
def decodeElem (c : VmCtx) (v : VecState) (x : Nat) (sc : Option Nat) (i : Nat) : Nat × Flags :=
  let dst := vtFmt c.e.vtype
  if rawMove c.fmt dst then (x, 0)
  else
    let ef := efFmt (c.fmt % 16)
    match sc with
    | some b =>
      let y := if b = 0xFF then FVal.nan false else (pageVal v c.e ef x).scale ((b : Int) - 127)
      let r := dst.enc y (c.e.rnd i)
      (r.1, r.2 ||| (if dst.isFloat then sigFlag y else 0))
    | none =>
      match ef with
      | .c4 => dst.enc (pageVal v c.e ef x) (c.e.rnd i)
      | f => convert f dst x (c.e.rnd i)

/-- A stored element converted to an unblocked page's format (R114, R120). The manual gives no code for a NaN or an infinity
stored as c4: `fv` stands for it. Log 5 (DESIGN CHOICE, safe). Log 100 (DESIGN CHOICE, unsafe). -/
def encodeElem (c : VmCtx) (v : VecState) (x i fv : Nat) : Nat × Flags :=
  let src := vtFmt c.e.vtype
  if rawMove c.fmt src then (x, 0)
  else
    match efFmt (c.fmt % 16) with
    | .c4 =>
      let y := src.val x
      if y.isNan || y.isInf then (fv % 16, 0) else blockElem .c4 (vmCb v c.e) 127 y (c.e.rnd i) fv
    | f => convert src f x (c.e.rnd i)

/-! ### One element performed (R249, R252, R255, R257) -/

/-- The slot's vector state. -/
def State.setVec (s : State) (tk : Nat) (v : VecState) : State := s.setTeam tk { s.team tk with vec := v }

/-- What performing one element comes to. -/
inductive ElemRes where
  | done (fl : Flags)
  /-- Done, having read a granule whole (R252). -/
  | read (g : Nat) (x : BitVec 128)
  | wait
  | fault (i : TrapInfo)
  deriving DecidableEq, Repr

/-- f(old, x) of R255. -/
def amoFn (a : VAmoOp) (fmt : Fmt) (old x : Nat) (r : Rnd) : Nat × Flags :=
  match a with
  | .swap => (x, 0)
  | .add =>
    if fmt.isFp then fmt.ff.finish ((fmt.ff.decode old).add (fmt.ff.decode x) r.mode) r
    else ((old + x) % 2 ^ fmt.width, 0)
  | .min => if fmt.isFp then fmt.ff.minmax false old x else (if fmt.intVal old ≤ fmt.intVal x then old else x, 0)
  | .max => if fmt.isFp then fmt.ff.minmax true old x else (if fmt.intVal x ≤ fmt.intVal old then old else x, 0)

/-- Address of element i for the access; none beyond a tensor. -/
def VmCtx.bit (c : VmCtx) (i : Nat) : Option Nat := (vmOff c.o c.e i).map (fun off => bitAddr (vmBase c.o c.e) off c.me)

/-- The granule an element of a local-memory access touches. -/
def VmCtx.granule (c : VmCtx) (i : Nat) : Option Nat := (c.bit i).map (fun b => b / 8 / 16)

/-- The scale byte of the block an element lies in, on a blocked page (R119); none where the access uses no scale, its bytes being
moved unchanged and no scale register written (R120). -/
def scaleByte (s : State) (c : VmCtx) (l : Loc) (bit : Nat) : State × Except TrapInfo (Option Nat) :=
  match l with
  | .l _ _ => (s, .ok none)
  | .g x va =>
    let blk := pageBlk x.ent.leaf
    if decide (blk = 0) || (decide (vtBS c.e.vtype = 0) && rawMove c.fmt (vtFmt c.e.vtype)) then (s, .ok none)
    else
      let d := 7 * (x.ent.size / 8) + pagePos x bit c.me / blk
      let base := va % x.ent.size
      let r := readG s c.tk (vmHome c.o) (x.pa - base + d) (va - base + d) 1
      if r.2.2 then (r.1, .error (ueAt true (va - base + d))) else (r.1, .ok (some r.2.1))

/-- A loaded element put into its register, and its block's scale into the next (R120). -/
def loadElem (s : State) (c : VmCtx) (l : Loc) (bit i : Nat) : State × ElemRes :=
  match readElem s c l bit with
  | (s, .error f) => (s, .fault f)
  | (s, .ok x) =>
    match scaleByte s c l bit with
    | (s, .error f) => (s, .fault f)
    | (s, .ok sc) =>
      let v := (s.team c.tk).vec
      let d := (vmData c.o).toNat
      let bs := vtBS c.e.vtype
      let y := if vmSpace c.o = 0 then decodeElem c v x (if bs = 0 then sc else none) i else (x, 0)
      let v := v.setReg d (setElem c.w (v.reg d) i y.1)
      let v := match sc with
        | some b => if bs = 0 then v else
            let d2 := (d + 1) % 32
            v.setReg d2 (setElem 8 (v.reg d2) (i / bs) b)
        | none => v
      let s := s.setVec c.tk v
      let s := match c.o, l with
        | .gl _, .g xl _ => { s with ms := s.ms.addLink c.tk (xl.pa / 64) }
        | _, _ => s
      (s, .done y.2)

/-- An element put into its register out of its granule's bytes. -/
def fromGranule (s : State) (c : VmCtx) (x : BitVec 128) (bit i : Nat) : State :=
  let v := (s.team c.tk).vec
  let d := (vmData c.o).toNat
  s.setVec c.tk (v.setReg d (setElem c.w (v.reg d) i (x.toNat / 2 ^ (bit % 128))))

/-- R252: an element of a full/empty load. Its granule is read for every element of the syllable at the first one that touches it,
once its bit is set, and from then on kept in `gs`. -/
def granElem (s : State) (c : VmCtx) (gs : List (Nat × BitVec 128)) (core off bit i : Nat) : State × ElemRes :=
  let g := bit / 128
  match find? gs g with
  | some x => (fromGranule s c x bit i, .done 0)
  | none =>
    if !s.ms.isFull core off then (s, .wait)
    else if s.ms.lmBad core off then (s, .fault (ueAt false (16 * g)))
    else
      let x := BitVec.ofNat 128 (s.ms.lmRead core (off / 16 * 16) 16)
      let s := if vmSpace c.o = 4 then { s with ms := s.ms.setFull core off false } else s
      (fromGranule s c x bit i, .read g x)

/-- An atomic element (R255). -/
def amoElem (s : State) (c : VmCtx) (a : VAmoOp) (l : Loc) (bit i : Nat) : State × ElemRes :=
  let v := (s.team c.tk).vec
  let d := (vmData c.o).toNat
  let n := c.w / 8
  let x := elem c.w (v.reg d) i
  let fin := fun (s : State) (old : Nat) => s.setVec c.tk (v.setReg d (setElem c.w (v.reg d) i old))
  match l with
  | .g xl va =>
    let s := { s with ms := s.ms.evictLine (coreOf c.tk) xl.pa }
    if s.ms.poisoned xl.pa then (s, .fault (ueAt true va))
    else
      let old := s.ms.homeRead xl.pa n
      let r := amoFn a (vtFmt c.e.vtype) old x (c.e.rnd i)
      (fin (storeHome s c.tk xl va n r.1 none) old, .done r.2)
  | .l core off =>
    if s.ms.lmBad core off then (s, .fault (ueAt false (bit / 8)))
    else
      let old := s.ms.lmRead core off n
      let r := amoFn a (vtFmt c.e.vtype) old x (c.e.rnd i)
      (fin { s with ms := s.ms.lmWrite core off n r.1 } old, .done r.2)

/-- A scatter-conditional element (R257). -/
def scElem (s : State) (c : VmCtx) (l : Loc) (bit i : Nat) : State × ElemRes :=
  match l with
  | .l _ _ => (s, .done 0)
  | .g x va =>
    let s := { s with ms := s.ms.evictLine (coreOf c.tk) x.pa }
    let ls := s.ms.linkSet c.tk
    if ls.contains (x.pa / 64) then
      let f := s.free
      let v := (s.team c.tk).vec
      let y := encodeElem c v (elem c.w (v.reg (vmData c.o).toNat) i) i f.1.toNat
      let n := meBytes c.me
      let old := s.ms.homeRead x.pa n
      let val := if c.me < 8 then
          old - (old / 2 ^ (bit % 8) % 2 ^ c.me) * 2 ^ (bit % 8) + y.1 % 2 ^ c.me * 2 ^ (bit % 8)
        else y.1
      let s := storeHome f.2 c.tk x va n val (some c.tk)
      let s := { s with ms := s.ms.setLinks c.tk (ls.filter (fun y => y ≠ x.pa / 64)) }
      (s.setVec c.tk (v.setMask (vmMask c.o) i false), .done y.2)
    else (s, .done 0)

/-- A plain or ntf store of one element outside blocked pages (R249, R252). -/
def storeElem (s : State) (c : VmCtx) (l : Loc) (bit i : Nat) : State × ElemRes :=
  let v := (s.team c.tk).vec
  let x := elem c.w (v.reg (vmData c.o).toNat) i
  match l with
  | .g _ _ =>
    let f := s.free
    let y := encodeElem c v x i f.1.toNat
    (writeElem f.2 c l bit y.1 (vmWord c.o c.e ≠ 0#64), .done y.2)
  | .l core off =>
    let s := writeElem s c l bit x false
    let last := (List.range (c.e.gl - (i + 1))).all (fun k =>
      !(c.en v (i + 1 + k) && decide (c.granule (i + 1 + k) = c.granule i)))
    if vmSpace c.o = 5 && last then ({ s with ms := s.ms.setFull core off true }, .done 0) else (s, .done 0)

/-- One enabled element, checked and performed (R249, R253), `gs` holding the granules read so far. -/
def elemStep (s : State) (c : VmCtx) (gs : List (Nat × BitVec 128)) (i : Nat) : State × ElemRes :=
  match c.bit i with
  | none =>
    if vmZeroFill c.o c.e then
      let v := (s.team c.tk).vec
      let d := (vmData c.o).toNat
      (s.setVec c.tk (v.setReg d (setElem c.w (v.reg d) i 0)), .done 0)
    else (s, .done 0)
  | some bit =>
    let v := (s.team c.tk).vec
    match vmCheck s c v bit i with
    | (s, .error f) => (s, .fault f)
    | (s, .ok l) =>
      match c.o, l with
      | .amo a _, _ => amoElem s c a l bit i
      | .sc _, _ => scElem s c l bit i
      | .store _ _, _ => storeElem s c l bit i
      | .load _ _, .l core off =>
        if vmSpace c.o = 3 ∨ vmSpace c.o = 4 then granElem s c gs core off bit i else loadElem s c l bit i
      | _, _ => loadElem s c l bit i

/-! ### Blocked stores (R118, R120, R121) -/

/-- The block an element falls in: page, and block on the page, with its position in the block. -/
structure BlkPos where
  page : Nat
  blk  : Nat
  pos  : Nat
  loc  : Loc
  i    : Nat
  deriving DecidableEq, Repr

/-- The block places of the enabled elements from i on that pass their checks, and the first from `e.start` on that does not. -/
def blockPlaces (s : State) (c : VmCtx) : Nat → Nat → State × List BlkPos × Option (Nat × TrapInfo)
  | 0, _ => (s, [], none)
  | k + 1, i =>
    if c.e.gl ≤ i then (s, [], none)
    else
      let v := (s.team c.tk).vec
      if !c.en v i then blockPlaces s c k (i + 1)
      else
        match c.bit i with
        | none => blockPlaces s c k (i + 1)
        | some bit =>
          match vmCheck s c v bit i with
          | (s, .error f) =>
            let r := blockPlaces s c k (i + 1)
            (r.1, r.2.1, if i < c.e.start then r.2.2 else some (i, f))
          | (s, .ok l) =>
            let r := blockPlaces s c k (i + 1)
            match l with
            | .l _ _ => r
            | .g x va =>
              let p := pagePos x bit c.me
              let b := pageBlk x.ent.leaf
              (r.1, { page := va - va % x.ent.size, blk := p / b, pos := p % b, loc := l, i := i } :: r.2.1, r.2.2)

/-- The scale an element is multiplied by before encoding (R120). -/
def storeScale (c : VmCtx) (v : VecState) (i : Nat) (y : FVal) : FVal :=
  let bs := vtBS c.e.vtype
  if bs = 0 then y
  else
    let b := elem 8 (v.reg (((vmData c.o).toNat + 1) % 32)) (i / bs)
    if b = 0xFF then .nan false else y.scale ((b : Int) - 127)

/-- Encodes and writes one covered block. -/
def writeBlock (s : State) (c : VmCtx) (ps : List BlkPos) (b : BlkPos) : State × Flags :=
  match b.loc with
  | .l _ _ => (s, 0)
  | .g x va =>
    let v := (s.team c.tk).vec
    let n := pageBlk x.ent.leaf
    let ef := efFmt (c.fmt % 16)
    let src := vtFmt c.e.vtype
    let f := s.free
    -- of two elements at one place, the higher-numbered one's value stays (R249)
    let xs := (List.range n).map (fun p =>
      match (ps.filter (fun q => decide (q.page = b.page) && decide (q.blk = b.blk) && decide (q.pos = p))).getLast? with
      | some q =>
        (storeScale c v q.i (src.val (elem c.w (v.reg (vmData c.o).toNat) q.i)), c.e.rnd q.i)
      | none => (FVal.fin false 0 0, Rnd.rne))
    let r := encodeBlock ef (vmCb v c.e) xs f.1.toNat
    let base := va % x.ent.size
    let paB := x.pa - base
    let s := r.2.1.zipIdx.foldl (fun (s : State) q =>
      let bit := (b.blk * n + q.2) * c.me
      let x' := { x with pa := paB + bit / 8 }
      writeElem s c (.g x' (b.page + bit / 8)) bit q.1 (vmWord c.o c.e ≠ 0#64)) f.2
    let d := 7 * (x.ent.size / 8) + b.blk
    let s := storeL1 s c.tk { x with pa := paB + d } (b.page + d) 1 r.1
    let s := if vmWord c.o c.e ≠ 0#64 then
        { s with ms := s.ms.cleanLines (coreOf c.tk) (fun y => decide (y.pa = (paB + d) / 64)) } else s
    (s, r.2.2)

/-- R121: a vector store to a blocked page, of its elements below `hi` (R215): whole blocks only, and the first element of
the first block left unwritten where one is not covered or reaches past `hi`. Log 35 (DEDUCED, unsafe). -/
def blockedStore (s : State) (c : VmCtx) (hi : Nat) : State × QEntry :=
  let r := blockPlaces s c c.e.gl 0
  let ps := r.2.1
  let s := r.1
  let n := match ps with
    | { loc := .g x _, .. } :: _ => pageBlk x.ent.leaf
    | _ => 0
  let same := fun (a b : BlkPos) => decide (a.page = b.page) && decide (a.blk = b.blk)
  let covered := fun (b : BlkPos) => (List.range n).all (fun p => ps.any (fun q => same q b && decide (q.pos = p)))
  let fails := r.2.2.filter (fun f => decide (f.1 < hi))
  let lim := match fails with | some f => f.1 | none => min hi c.e.gl
  let bad := ps.filter (fun b => decide (c.e.start ≤ b.i) && decide (b.i < hi) && !covered b)
  let lim2 := match bad with | b :: _ => min lim b.i | [] => lim
  let whole := fun (b : BlkPos) => covered b && ps.all (fun q => !same q b || decide (q.i < lim2))
  -- a block all of whose elements have been performed is written already
  let firsts := ps.filter (fun b => whole b && ps.all (fun q => !same q b || decide (b.i ≤ q.i)) &&
    ps.any (fun q => same q b && decide (c.e.start ≤ q.i)))
  let w := firsts.foldl (fun (a : State × Flags) b => let x := writeBlock a.1 c ps b; (x.1, a.2 ||| x.2)) (s, c.e.fl)
  let left := ps.filter (fun b => decide (c.e.start ≤ b.i) && !whole b)
  let es := match left with | b :: _ => min b.i lim | [] => lim
  let fault := match bad, fails with
    | b :: _, some f => if b.i < f.1 then
        (match b.loc with | .g _ va => some (ti .format va) | .l _ _ => none) else some f.2
    | b :: _, none => (match b.loc with | .g _ va => some (ti .format va) | .l _ _ => none)
    | [], some f => some f.2
    | [], none => none
  (w.1, { c.e with start := es, fl := w.2, fault := fault, done := fault.isNone && decide (c.e.gl ≤ es) })

/-! ### The loop (R249) -/

/-- The pinned translations, with what their TLBs have noted for them since (R179). -/
def Probe.refresh (m : MemSys) (p : Probe) : Probe :=
  { p with pins := p.pins.map (fun x => (x.1, { x.2 with ent := m.current x.2.ent })) }

/-- Elements from i on: at most k more of them (R215); the probe pass's first failing element faults (R180). -/
def elemLoop (c : VmCtx) (lim : Option (Nat × TrapInfo)) : Nat → State → QEntry → State × QEntry
  | 0, s, e => (s, e)
  | k + 1, s, e =>
    if e.gl ≤ e.start then (s, e)
    else
      let v := (s.team c.tk).vec
      if !c.en v e.start then elemLoop c lim k s { e with start := e.start + 1 }
      else
        match (lim.filter (fun f => decide (f.1 = e.start))) with
        | some f => (s, { e with fault := some f.2 })
        | none =>
          match elemStep s { c with e := { c.e with probe := e.probe } } e.grans e.start with
          | (s, .done fl) =>
            elemLoop c lim k s { e with start := e.start + 1, fl := e.fl ||| fl, probe := e.probe.map (Probe.refresh s.ms) }
          | (s, .read g x) => elemLoop c lim k s { e with start := e.start + 1, grans := (g, x) :: e.grans }
          | (s, .wait) => (s, e)
          | (s, .fault g) => (s, { e with fault := some g })

/-- R180, R181: the translations of the enabled elements from i on, and the lowest that fails one of the first four checks. -/
def probe (c : VmCtx) : Nat → State → Nat → State × Probe
  | 0, s, _ => (s, { pins := [], bad := none })
  | k + 1, s, i =>
    if c.e.gl ≤ i then (s, { pins := [], bad := none })
    else
      let v := (s.team c.tk).vec
      if !c.en v i then probe c k s (i + 1)
      else
        match c.bit i with
        | none => probe c k s (i + 1)
        | some bit =>
          match vmCheck s c v bit i with
          | (s, .error f) =>
            let r := probe c k s (i + 1)
            (r.1, { r.2 with bad := some (i, f) })
          | (s, .ok l) =>
            let r := probe c k s (i + 1)
            match l with
            | .g x _ => (r.1, { r.2 with pins := (i, x) :: r.2.pins })
            | .l _ _ => r

/-- R259: the progress word checked as a scalar store before the first element. -/
def checkWord (s : State) (tk : Nat) (hl : Bool) (w : Word) : State × Except TrapInfo Xlat :=
  let t := s.team tk
  match s.ms.translate (.data (coreOf tk)) t.bind.asn t.bind.root hl .write w with
  | (ms, .error k) => ({ s with ms := ms }, .error { cause := k, tval := w })
  | (ms, .ok x) =>
    if isHostOrPeer x.pa then ({ s with ms := ms }, .error { cause := .protection, tval := w })
    else if pageBlk x.ent.leaf ≠ 0 then ({ s with ms := ms }, .error { cause := .format, tval := w })
    -- raising the word reads it (R393)
    else if ms.poisoned x.pa then ({ s with ms := ms }, .error (ueAt true w.toNat))
    else ({ s with ms := ms }, .ok x)

/-- R259: raises the progress word to v, a 64-bit sum, at its home. Log 57 (DEDUCED, safe). -/
def publish (s : State) (tk : Nat) (x : Xlat) (w : Word) (v : Nat) : State :=
  let ms := s.ms.evictLine (coreOf tk) x.pa
  let old := ms.homeRead x.pa 8
  let v := v % 2 ^ 64
  if old < v then storeHome { s with ms := ms } tk x w.toNat 8 v none else { s with ms := ms }

/-- An entry with its index or shape register captured (R222, R249). -/
def vmCaptured (v : VecState) (o : VMem) (e : QEntry) : QEntry :=
  match e.cap with
  | some _ => e
  | none => { e with cap := some (match vmShape o with | .strided => 0#65536 | _ => v.reg (vmIdx o).toNat) }

/-- The first enabled element still to be performed. -/
def vmFirst (v : VecState) (o : VMem) (e : QEntry) : Option Nat :=
  ((List.range (e.gl - e.start)).find? (fun k => v.mask (vmMask o) (e.start + k))).map (e.start + ·)

/-- What stays fixed over the elements of a captured entry: the page format its first element has found, or finds now (R121). -/
def vmCtx (s : State) (tk : Nat) (o : VMem) (e : QEntry) : VmCtx :=
  let first := vmFirst (s.team tk).vec o e
  let f := match e.pfmt with
    | some f => f
    | none =>
      if vmSpace o = 0 then
        vmFormat s.ms (s.team tk) (vmPlace s tk o e.w (first.getD 0)) o e
          (match first with | some i => (vmOff o e i).getD 0 | none => 0)
      else (e.w, 0)
  { tk := tk, o := o, e := e, me := f.1, fmt := f.2 }

/-- The probe pass of an entry: an indexed access is probed once, before its first element (R180). -/
def vmProbe (s : State) (c : VmCtx) : State × Option Probe :=
  match vmShape c.o, c.e.probe with
  | .indexed, none => let x := probe c (c.e.gl - c.e.start) s c.e.start; (x.1, some x.2)
  | _, q => (s, q)

/-- What comes before an entry's next elements: the start of a vgl clears the link set (R256), and the progress word of an ntf
store is checked (R259). -/
def vmBegin (s : State) (tk : Nat) (o : VMem) (e : QEntry) : State × Except TrapInfo (Option Xlat) :=
  let s := match o with
    | .gl _ => if e.start = 0 then { s with ms := s.ms.setLinks tk [] } else s
    | _ => s
  if vmWord o e = 0#64 then (s, .ok none)
  else match checkWord s tk e.hl (vmWord o e) with
    | (s, .error f) => (s, .error f)
    | (s, .ok x) => (s, .ok (some x))

/-- Performs up to n more elements of a memory syllable (0: all of them). -/
def vmRun (s : State) (tk : Nat) (e : QEntry) (o : VMem) (n : Nat) : State × QEntry :=
  let e := vmCaptured (s.team tk).vec o e
  match vmBegin s tk o e with
  | (s, .error f) => (s, { e with fault := some f })
  | (s, .ok word) =>
    let c := vmCtx s tk o e
    let isStore := match o with | .store _ _ => true | _ => false
    let r :=
      if isStore && decide (vmSpace o = 0) && decide (16 ≤ c.fmt) then blockedStore s c (if n = 0 then e.gl else e.start + n)
      else
        let p := vmProbe s c
        let e := { e with probe := p.2 }
        let bad := match p.2 with | some x => x.bad | none => none
        let n := if n = 0 then e.gl - e.start else n
        let r := elemLoop { c with e := e } bad n p.1 e
        let e := { r.2 with done := decide (e.gl ≤ r.2.start) && r.2.fault.isNone }
        (r.1, if e.fault.isSome then { e with probe := none } else e)
    -- the first element performed fixes the page format of the access (R121)
    let first := match vmFirst (s.team tk).vec o e with | some i => decide (i < r.2.start) | none => false
    let r := (r.1, if first then { r.2 with pfmt := some (c.me, c.fmt) } else r.2)
    let s := match word with
      | some x => if r.2.done || decide (e.start < r.2.start) then publish r.1 tk x (vmWord o e) (e.seb.toNat + r.2.start) else r.1
      | none => r.1
    let s := match o with
      | .sc _ => if r.2.done then { s with ms := s.ms.setLinks tk [] } else s
      | _ => s
    (s, r.2)

end Sys2Proof.Machine
end

