-- ==== Sys2Proof/Machine/CopyDesc.lean ====
section
/-! DEFINITION. Copy address descriptors, the checks made with the bundle, the extent checks before the first unit, and
the shape records of `cpyt` (R300 to R311, R315). -/

namespace Sys2Proof.Machine

/-! ### Descriptors (R300) -/

structure CDesc where
  sp   : Nat
  dec  : Bool
  addr : Nat
  deriving DecidableEq, Repr

def CDesc.of (x : Word) : CDesc :=
  { sp := (x.extractLsb' 61 3).toNat, dec := x.getLsbD 60, addr := (x.extractLsb' 0 57).toNat }

/-- A descriptor that R301 refuses: `dec` and `cw` say whether DEC and the cluster window are allowed. -/
def cdescBad (x : Word) (dec cw : Bool) : Bool :=
  decide (2 < (CDesc.of x).sp) || decide (x.extractLsb' 57 3 ≠ 0#3) || ((CDesc.of x).dec && !dec) ||
  (decide ((CDesc.of x).sp = 1) && !cw)

/-- The checks of R301, R307, R308 and R309 on the values a C syllable will capture. -/
def copBad (k : CKind) (x y z : Word) : Bool :=
  match k with
  | .cpy => cdescBad x false true || cdescBad y true true || ((CDesc.of y).dec && decide ((CDesc.of y).sp ≠ 0)) ||
      decide (2 ^ 40 < z.toNat)
  | .cfill => cdescBad x false true || decide (2 ^ 40 < z.toNat)
  | .cgath => cdescBad x false true || cdescBad y false false || decide (2 ^ 40 ≤ z.toNat)
  | .cpyt => !(decide (z = 1#64) || decide (z = 2#64) || decide (z = 4#64) || decide (z = 8#64) || decide (z = 16#64))
  | .cnm | .cnmAll => cdescBad x false false || cdescBad y false false
  | .cpf => cdescBad y false true
  | .cfence => false

/-- R308: row size and count. -/
def rowSize (z : Word) : Nat := (z.extractLsb' 20 20).toNat
def rowCount (z : Word) : Nat := (z.extractLsb' 0 20).toNat

/-- A `cw:` address that names the team itself is used as the equivalent `lm:` address (R48). Log 62 (DEDUCED, unsafe). -/
def CDesc.own (d : CDesc) (tidx : Nat) : CDesc :=
  if d.sp = 1 ∧ d.addr / 2 ^ 25 = 0 ∧ d.addr / 2 ^ 22 = tidx then { d with sp := 2, addr := d.addr % 2 ^ 22 } else d

/-! ### Extent checks (R310) -/

/-- The cause of a misaligned address in a space (R47). -/
def alignCause (sp : Nat) : Cause := if sp = 2 then .lmalign else .misalign

/-- The core and offset at which an extent of local memory begins, with the bytes its owner holds from there. -/
def CDesc.home (s : State) (tk : Nat) (d : CDesc) : Option (Nat × Nat × Nat) :=
  let t := s.team tk
  if d.sp = 2 then
    if d.addr / 2 ^ 22 ≠ 0 then none else some (coreOf tk, t.lmBase + d.addr, t.lmSize - d.addr)
  else if d.addr / 2 ^ 25 ≠ 0 ∨ t.bind.gsz ≤ d.addr / 2 ^ 22 then none
  else
    match s.sibling tk (d.addr / 2 ^ 22) with
    | none => none
    | some u => some (coreOf u, (s.team u).lmBase + d.addr % 2 ^ 22, (s.team u).lmSize - d.addr % 2 ^ 22)

/-- R310 step 2 for one address: alignment, the bits above the field and the sibling, every byte of the extent. Log 62
(DEDUCED, unsafe). -/
def extentFault (s : State) (tk : Nat) (x : Word) (n al : Nat) : Option TrapInfo :=
  let d := CDesc.of x
  if d.addr % al ≠ 0 then some (ti (alignCause d.sp) d.addr)
  else if d.sp = 0 then none
  else
    let d := d.own (s.team tk).bind.tidx
    match CDesc.home s tk d with
    | none => some (ti .lmrange d.addr)
    | some h => if h.2.2 < n then some (ti .lmrange (d.addr + h.2.2)) else none

/-- R310 step 1: the length. -/
def lengthBad (k : CKind) (vtype : BitVec 13) (y z : Word) : Bool :=
  match k with
  | .cpy => decide (z.toNat % 16 ≠ 0) || ((CDesc.of y).dec && decide (z.toNat % max 1 ((vtFmt vtype).width / 8) ≠ 0))
  | .cfill => decide (z.toNat % 16 ≠ 0)
  | .cgath => decide (rowSize z % 16 ≠ 0)
  | _ => false

/-- R310: the first failing check of a copy made before its first unit. -/
def copyExtentFault (s : State) (tk : Nat) (k : CKind) (vtype : BitVec 13) (x y z : Word) : Option TrapInfo :=
  let n := z.toNat
  let orElse' := fun (a b : Option TrapInfo) => match a with | some f => some f | none => b
  if lengthBad k vtype y z then some (ti (alignCause (CDesc.of x).sp) (CDesc.of x).addr)
  else
    match k with
    | .cpy =>
      orElse' (extentFault s tk y n 16) (extentFault s tk x n 16)
    | .cfill => extentFault s tk x n 16
    | .cgath =>
      orElse' (extentFault s tk y (8 * rowCount z) 8) (extentFault s tk x (rowSize z * rowCount z) 16)
    | _ => none

/-! ### Shape records captured by `cpyt` (R254, R307) -/

/-- Words 0 to 10 of the destination record and 16 to 26 of the source record; bytes outside the live part read zero. -/
def captureShapes (e : QEntry) (d a : Reg) (v : VecState) : BitVec 65536 :=
  let w := fun (r : Reg) (i : Nat) => elem 32 (v.reg r.toNat) i % 2 ^ (e.gl * e.w - 32 * i)
  (List.range 11).foldl (fun c i => setElem 32 (setElem 32 c i (w d i)) (16 + i) (w a i)) 0#65536

/-- A captured shape record. -/
structure Shape where
  base : Word
  e0   : Nat
  e1   : Nat
  e2   : Nat
  e3   : Nat
  s0   : Int
  s1   : Int
  s2   : Int
  s3   : Int
  zf   : Bool
  deriving DecidableEq, Repr

def Shape.of (cap : BitVec 65536) (o : Nat) : Shape :=
  let w := fun i => elem 32 cap (o + i)
  { base := BitVec.ofNat 64 (w 0 + w 1 * 2 ^ 32), e0 := w 2, e1 := w 3, e2 := w 4, e3 := w 5,
    s0 := toSigned 32 (w 6), s1 := toSigned 32 (w 7), s2 := toSigned 32 (w 8), s3 := toSigned 32 (w 9),
    zf := decide (w 10 % 2 = 1) }

def Shape.count (x : Shape) : Nat := x.e0 * x.e1 * x.e2 * x.e3

/-- Address of element n with elements of `sl` bytes, within the record's space (R254, R307). -/
def Shape.addr (x : Shape) (sl n : Nat) : Nat :=
  let off : Int := (n % x.e0 : Nat) * x.s0 + (n / x.e0 % x.e1 : Nat) * x.s1 + (n / (x.e0 * x.e1) % x.e2 : Nat) * x.s2 +
    (n / (x.e0 * x.e1 * x.e2) : Nat) * x.s3
  (((CDesc.of x.base).addr + off * sl) % (2 ^ 64 : Nat)).toNat

/-! ### Units -/

/-- Units of a command (R303, R307, R308). -/
def copyUnits (k : CKind) (cap : Option (BitVec 65536)) (z : Word) : Nat :=
  match k with
  | .cpy | .cfill => (z.toNat + 255) / 256
  | .cpyt => ((Shape.of (cap.getD 0#65536) 0).count * z.toNat + 255) / 256
  | .cgath => rowCount z * ((rowSize z + 255) / 256)
  | _ => 0

end Sys2Proof.Machine
end

