-- ==== Sys2Proof/Machine/Scoreboard.lean ====
section
/-! DEFINITION. The range scoreboard (R23, R24, R311, R325) and the interlocks between the queues over vector registers
and codebooks (R209, R242, R296): what each queued syllable and each load in flight still touches, in issue order. -/

namespace Sys2Proof.Machine

/-! ### Local-memory granules -/

/-- What an access reads and writes of its slot's local memory, and a core access of its siblings' (R67); `whole` stands for the
whole allocation (R311). -/
structure LmTouch where
  core    : Bool
  wholeRd : Bool
  wholeWr : Bool
  rd : List Span
  wr : List Span
  deriving DecidableEq, Repr

def LmTouch.none : LmTouch := { core := false, wholeRd := false, wholeWr := false, rd := [], wr := [] }

def LmTouch.reads (x : LmTouch) : Bool := x.wholeRd || x.rd.any (fun s => decide (s.len ≠ 0))
def LmTouch.writes (x : LmTouch) : Bool := x.wholeWr || x.wr.any (fun s => decide (s.len ≠ 0))

/-- Where sibling j's local memory stands in a touch: at (j + 1) × 2^22, the slot's own below. -/
def windowBase : Nat := 2 ^ 22

/-- Whether two runs share a unit of n bytes. -/
def Span.meets (n : Nat) (a b : Span) : Bool :=
  decide (a.len ≠ 0) && decide (b.len ≠ 0) && decide (a.addr / n ≤ (b.addr + b.len - 1) / n) &&
  decide (b.addr / n ≤ (a.addr + a.len - 1) / n)

/-- Whether two runs share a 16-byte granule of the slot's memory (R23), or a byte of a sibling's (R67, R68). -/
def sameGranule (a b : Span) : Bool := Span.meets (if a.addr < windowBase then 16 else 1) a b

/-- Whether a run lies in the slot's own memory. -/
def Span.own (a : Span) : Bool := decide (a.len ≠ 0) && decide (a.addr < windowBase)

def meet (wa wb : Bool) (a b : List Span) : Bool :=
  (wa && (wb || b.any Span.own)) || (wb && a.any Span.own) || a.any (fun x => b.any (fun y => sameGranule x y))

/-- Whether order must be kept between two accesses: read after write, write after read, write after write (R23), and between
two core accesses read after read of a byte (R59, R67). -/
def LmTouch.clash (x y : LmTouch) : Bool :=
  meet x.wholeWr y.wholeRd x.wr y.rd || meet x.wholeRd y.wholeWr x.rd y.wr || meet x.wholeWr y.wholeWr x.wr y.wr ||
  (x.core && y.core &&
    ((x.wholeRd && (y.wholeRd || y.rd.any Span.own)) || (y.wholeRd && x.rd.any Span.own) ||
      x.rd.any (fun a => y.rd.any (fun b => Span.meets 1 a b))))

/-- A run of `lm:` addresses; one that lies outside the allocation will fault and touches nothing. -/
def lmSpan (t : Team) (sp va n : Nat) : List Span :=
  let d : CDesc := CDesc.own { sp := if sp = 1 then 1 else 2, dec := false, addr := va } t.bind.tidx
  if d.sp = 2 ∧ d.addr < t.lmSize then [{ addr := d.addr, len := min n (t.lmSize - d.addr) }] else []

/-- A run of `lm:` or `cw:` addresses of a core access, the siblings' memory included (R24, R67). -/
def winSpan (t : Team) (sp va n : Nat) : List Span :=
  if sp = 1 ∧ va / 2 ^ 22 ≠ t.bind.tidx then
    (if va / 2 ^ 22 < t.bind.gsz then [{ addr := va + windowBase, len := n }] else [])
  else lmSpan t sp va n

/-- The whole cluster window beside the slot's own memory. -/
def allWins : List Span := [{ addr := windowBase, len := 9 * windowBase }]

/-! ### What a V entry touches -/

def vmReads : VMem → Bool
  | .load _ _ | .gl _ | .amo _ _ => true
  | _ => false

def vmWrites : VMem → Bool
  | .store _ _ | .sc _ | .amo _ _ => true
  | _ => false

/-- Local memory a memory syllable touches, whatever its mask; `known` says that its index or shape register holds what
it will read. -/
def vmTouch (t : Team) (o : VMem) (e : QEntry) (known : Bool) : LmTouch :=
  if vmSpace o = 0 then LmTouch.none
  else if vmShape o ≠ .strided ∧ ¬ known ∧ e.cap.isNone then
    let all : List Span := if vmSpace o = 1 then allWins else []
    { core := true, wholeRd := vmReads o, wholeWr := vmWrites o,
      rd := if vmReads o then all else [], wr := if vmWrites o then all else [] }
  else
    let e := match e.cap with
      | some _ => e
      | none => { e with cap := some (t.vec.reg (vmIdx o).toNat) }
    let sp := if vmSpace o = 1 then 1 else 2
    let ss := (List.range e.gl).flatMap (fun i =>
      match vmOff o e i with
      | none => []
      | some off => winSpan t sp (bitAddr (vmBase o e) off e.w / 8) (e.w / 8))
    -- full/empty codes act on whole granules (R252)
    { core := true, wholeRd := false, wholeWr := false, rd := if vmReads o then ss else [],
      wr := if vmWrites o || decide (vmSpace o = 4) then ss else [] }

/-- One execution of a V syllable that is still to come: its place in issue order and the entry, shifted as its pass
shifts it (R244). -/
structure VPend where
  no : Nat
  e  : QEntry
  op : VOp
  deriving DecidableEq, Repr

/-- The captured syllables that follow a frame's head. -/
def captured : Nat → List QEntry → List QEntry
  | 0, _ => []
  | _, [] => []
  | n + 1, e :: r => if e.counts then e :: captured n r else captured (n + 1) r

def vopOf (e : QEntry) : VOp :=
  match e.op with
  | .v o => o
  | _ => .trunc 0 none

def maxNo (es : List QEntry) (d : Nat) : Nat := es.foldl (fun n e => max n e.no) d

/-- The executions a frame still has: those of its first pass in issue order, later passes at the frame's close. -/
def framePend (h : QEntry) (c stride r : Nat) (qs : List QEntry) : List VPend :=
  let last := maxNo qs h.no
  let first := if h.pass = 0 ∧ r ≠ 0 then
      (qs.drop h.idx).map (fun q => ({ no := q.no, e := q, op := vopOf q } : VPend))
    else []
  let passes := if qs.length = c then (List.range (min 32 (r - h.pass))).map (h.pass + ·) else []
  first ++ passes.flatMap (fun p =>
    if p = 0 then []
    else qs.map (fun q => ({ no := last, e := q, op := VOp.shift (BitVec.ofNat 5 (p * stride)) (vopOf q) } : VPend)))

/-- How many list places n captured syllables take, the points between them included. -/
def frameLen : Nat → List QEntry → Nat
  | 0, _ => 0
  | _, [] => 0
  | c + 1, e :: r => if e.counts then 1 + frameLen c r else 1 + frameLen (c + 1) r

def asPend (e : QEntry) : VPend := { no := e.no, e := e, op := vopOf e }

/-- Every V execution still to come, in queue order. -/
def viqPend : Nat → List QEntry → List VPend
  | 0, _ => []
  | _, [] => []
  | k + 1, e :: r =>
    match e.op with
    | .v (.rep c st n) =>
      framePend e c st n (captured c r) ++ ((r.take (frameLen c r)).filter (fun x => !x.counts)).map asPend ++
        viqPend k (r.drop (frameLen c r))
    | .v _ => asPend e :: viqPend k r
    | _ => viqPend k r

def Team.vPend (t : Team) : List VPend := viqPend t.q.viq.length t.q.viq

/-- Whether an execution still to come writes a vector register. -/
def pendWrites (ps : List VPend) (before r : Nat) : Bool :=
  ps.any (fun p => decide (p.no < before) && (VOp.writes p.op).contains r)

/-- What a V execution touches of local memory. -/
def vTouch (t : Team) (ps : List VPend) (p : VPend) : LmTouch :=
  match p.op with
  | .mem o => vmTouch t o p.e (!pendWrites ps p.no (vmIdx o).toNat)
  | _ => LmTouch.none

/-! ### What M and C entries touch -/

def mTouch (t : Team) (ps : List VPend) (e : QEntry) : LmTouch :=
  match e.op with
  | .m o =>
    let v := t.vec
    let unknown := (mopVecReads o e).any (pendWrites ps e.no)
    let f := fun (ts : List Touch) => ts.flatMap (fun x => x.spans.flatMap (fun s => lmSpan t 2 s.addr s.len))
    { core := false, wholeRd := unknown && (match o with | .mma _ _ => true | _ => false), wholeWr := false,
      rd := f (mopReads o e v t.bind.tidx), wr := f (mopWrites o e) }
  | _ => LmTouch.none

/-- A run of a copy address descriptor, a sibling's memory included (R67 code O1). -/
def descSpan (t : Team) (x : Word) (n : Nat) : List Span :=
  let d := CDesc.of x
  if d.sp = 0 then [] else winSpan t d.sp d.addr n

/-- What a C entry touches (R67, R311, R325). Rows known only at run time count as reads of the whole allocation, and of the whole
cluster window. -/
def cTouch (t : Team) (e : QEntry) : LmTouch :=
  match e.op with
  | .c o =>
    match o.kind with
    | .cpy => { LmTouch.none with rd := descSpan t e.y e.z.toNat, wr := descSpan t e.x e.z.toNat }
    | .cfill => { LmTouch.none with wr := descSpan t e.x e.z.toNat }
    | .cgath => { LmTouch.none with wholeRd := true, rd := allWins, wr := descSpan t e.x (rowSize e.z * rowCount e.z) }
    | .cpyt =>
      match e.cap with
      | none => { LmTouch.none with wholeRd := true, wholeWr := true, rd := allWins, wr := allWins }
      | some c =>
        let x := Shape.of c 0
        let y := Shape.of c 16
        let sp := (CDesc.of x.base).sp
        { LmTouch.none with
          wholeRd := true
          rd := if (CDesc.of y.base).sp = 1 then allWins else []
          wr := if sp = 0 then [] else
            ((List.range x.count).filter (fun n => x.zf || decide (n < min y.count x.count))).flatMap (fun n =>
              winSpan t sp (x.addr e.z.toNat n) e.z.toNat) }
    | .cnm | .cnmAll => { LmTouch.none with rd := descSpan t e.y 64, wr := descSpan t e.x 16 }
    | _ => LmTouch.none
  | _ => LmTouch.none

/-! ### Conflicts with what is older -/

/-- Loads in flight that have performed nothing and are older than issue number `no` (R23, R159). -/
def Team.loadsBefore (t : Team) (no : Nat) : List PendLoad :=
  t.flights.filterMap (fun f =>
    match f.load with
    | some l => if l.before ≤ no then some l else none
    | none => none)

def loadTouch (t : Team) (l : PendLoad) : LmTouch :=
  let ss := lmSpan t 2 l.ea.toNat l.size
  { LmTouch.none with core := true, rd := ss, wr := if l.fec then ss else [] }

def copOf (e : QEntry) : COp :=
  match e.op with
  | .c o => o
  | _ => { kind := .cfence, d := 0, a := 0, sync := 0, scope := 0, tag := 0 }

/-- A near-memory command that its units have and have not completed (R325). -/
def QEntry.handedOver (e : QEntry) : Bool :=
  (decide ((copOf e).kind = .cnm) || decide ((copOf e).kind = .cnmAll)) && decide (1 ≤ e.start) && !e.done

/-- The near-memory commands of the queue image that their units have and have not completed (R325). -/
def Team.handedCnm (t : Team) : List QEntry :=
  match t.image with
  | none => []
  | some q => (q.cq0 ++ q.cq1).filter QEntry.handedOver

/-- Whether an access that takes issue number `no` must wait for an older access of the slot to local memory (R23). -/
def Team.lmWaits (t : Team) (no : Nat) (x : LmTouch) : Bool :=
  (x.reads || x.writes) &&
  (let ps := t.vPend
   ps.any (fun p => decide (p.no < no) && x.clash (vTouch t ps p)) ||
   t.q.mq.any (fun e => decide (e.no < no) && x.clash (mTouch t ps e)) ||
   (t.q.cq0 ++ t.q.cq1).any (fun e => decide (e.no < no) && !e.done && x.clash (cTouch t e)) ||
   t.handedCnm.any (fun e => x.clash (cTouch t e)) ||
   (t.loadsBefore no).any (fun l => x.clash (loadTouch t l)))

/-- The vector registers an older M or C entry is still to read (R296, R307). -/
def Team.engineReads (t : Team) (no : Nat) : List Nat :=
  t.q.mq.flatMap (fun e => match e.op with | .m o => if e.no < no then mopVecReads o e else [] | _ => []) ++
  (t.q.cq0 ++ t.q.cq1).flatMap (fun e =>
    match e.op with
    | .c o => if e.no < no ∧ o.kind = .cpyt ∧ e.cap.isNone then [o.d.toNat, o.a.toNat] else []
    | _ => [])

/-- The codebooks an older M entry is still to read (R242). -/
def Team.engineCbs (t : Team) (no : Nat) : List Nat :=
  t.q.mq.flatMap (fun e => match e.op with | .m o => if e.no < no then mopCbReads o e else [] | _ => [])

/-- Whether a V execution must wait for an older M or C entry or load (R23, R209, R242, R296). -/
def Team.vWaits (t : Team) (p : VPend) : Bool :=
  (VOp.writes p.op).any (fun r => (t.engineReads p.no).contains r) ||
  (match VOp.writesCb p.op with | some c => (t.engineCbs p.no).contains c | none => false) ||
  (match p.op with
   | .mem o =>
     let x := vmTouch t o p.e true
     (x.reads || x.writes) &&
     (let ps := t.vPend
      t.q.mq.any (fun e => decide (e.no < p.no) && x.clash (mTouch t ps e)) ||
      (t.q.cq0 ++ t.q.cq1).any (fun e => decide (e.no < p.no) && !e.done && x.clash (cTouch t e)) ||
      t.handedCnm.any (fun e => x.clash (cTouch t e)) ||
      (t.loadsBefore p.no).any (fun l => x.clash (loadTouch t l)))
   | _ => false)

/-- Whether an M entry must wait: for older V writers of what it reads, and for local memory (R242, R296). -/
def Team.mWaits (t : Team) (e : QEntry) : Bool :=
  match e.op with
  | .m o =>
    let ps := t.vPend
    (mopVecReads o e).any (pendWrites ps e.no) ||
    (mopCbReads o e).any (fun c => ps.any (fun p => decide (p.no < e.no) && decide (VOp.writesCb p.op = some c))) ||
    t.lmWaits e.no (mTouch t ps e)
  | _ => false

/-- A memory syllable among V executions older than issue number `no`. -/
def memBefore (ps : List VPend) (no : Nat) : Bool :=
  ps.any (fun p => decide (p.no < no) && (match p.op with | .mem _ => true | _ => false))

/-- A release whose own earlier accesses stand in the queue image or among the loads kept with the trap context: it is
performed after `tret`, and nothing at H-level waits for it (R62, R159, R166). Log 74 (DEDUCED, unsafe). -/
def Team.relStuck (t : Team) (k : KRel) : Bool :=
  (match t.image with
   | some q => memBefore (viqPend q.viq.length q.viq) k.before
   | none => false) ||
  t.saved.any (fun l => decide (l.load.bno < k.bno))

/-- The releases that can be performed as the team stands, oldest first (R143). -/
def Team.liveRels (t : Team) : List KRel := t.krels.filter (fun k => !t.relStuck k)

/-- Whether a release of the team is still to come that an engine command must follow (R67 to R70). Log 13 (DEDUCED, safe). -/
def Team.relWaits (t : Team) (no : Nat) : Bool := t.liveRels.any (fun k => decide (k.before ≤ no))

/-- Whether a memory syllable of the vector queue older than issue number `no` is still to complete (R62, R65). -/
def Team.vMemBefore (t : Team) (no : Nat) : Bool := memBefore t.vPend no

/-! ### Bytes of `g:` (R66 to R71) -/

/-- A vector load whose overtake bit is set (R71 note 5). -/
def vmOvertake : VMem → Bool
  | .load _ o => o.v
  | .gl o => o.v
  | _ => false

/-- Whether a `g:` access of a queued memory syllable may touch a byte of va to va + n − 1. -/
def vmMeets (s : State) (tk : Nat) (o : VMem) (e : QEntry) (known : Bool) (va n : Nat) : Bool :=
  if vmShape o ≠ .strided ∧ ¬ known ∧ e.cap.isNone then true
  else
    let t := s.team tk
    let e := match e.cap with
      | some _ => e
      | none => { e with cap := some (t.vec.reg (vmIdx o).toNat) }
    let f := vmFormat s.ms t (vmPlace s tk o e.w e.start) o e ((vmOff o e e.start).getD 0)
    -- a blocked page's scales lie outside the elements (R119)
    decide (16 ≤ f.2) ||
    ((List.range (e.gl - e.start)).any (fun k =>
      match vmOff o e (e.start + k) with
      | none => false
      | some off =>
        let a := bitAddr (vmBase o e) off f.1 / 8
        decide (a < va + n) && decide (va < a + max 1 (f.1 / 8)))) ||
    -- an ntf store also writes its progress word (R259)
    (let w := (vmWord o e).toNat; decide (w ≠ 0) && decide (w < va + n) && decide (va < w + 8))

/-- Whether a V execution must wait for anything older: `vWaits`, or a release whose COUNT it touches (R67 to R70). Log 19
(DEDUCED, safe). -/
def State.vHolds (s : State) (tk : Nat) (p : VPend) : Bool :=
  let t := s.team tk
  t.vWaits p ||
  (match p.op with
   | .mem o => decide (vmSpace o = 0) &&
     t.liveRels.any (fun k => decide (k.before ≤ p.no) && vmMeets s tk o p.e true k.knot.toNat 8)
   | _ => false)

end Sys2Proof.Machine
end

