-- ==== Sys2Proof/Machine/ScalarMem.lean ====
section
/-! DEFINITION. Scalar memory: loads, stores, acquiring loads, releasing stores, atomics (R45 to R59, R65, R82, R121,
R139 to R141, R159, R401). -/

namespace Sys2Proof.Machine

/-! ### Order against queued vector accesses (R66 to R71, R250) -/

/-- Whether a scalar `g:` access must wait for an older queued access or an older release that touches a common byte (R66 to
R70, R250). Log 19 (DEDUCED, safe). -/
def gWaits (s : State) (tk va n : Nat) : Bool :=
  let t := s.team tk
  let ps := t.vPend
  t.liveRels.any (fun k => decide (k.knot.toNat < va + n) && decide (va < k.knot.toNat + 8)) ||
  ps.any (fun p =>
    match p.op with
    | .mem o => decide (vmSpace o = 0) && !vmOvertake o &&
        vmMeets s tk o p.e (!pendWrites ps p.no (vmIdx o).toNat) va n
    | _ => false)

/-- A load in flight that has performed nothing (R159). -/
def Team.hasPending (t : Team) : Bool := t.flights.any (fun f => f.load.isSome)

/-- What a releasing store, a fence or a release waits for: earlier releases, vector accesses and loads (R62, R65 to R70,
R143). Log 13 (DEDUCED, safe). -/
def relReady (t : Team) : Bool := t.liveRels.isEmpty && !t.vMemBefore t.nextNo && !t.hasPending

/-! ### Writing dirty lines back (R54, R65, R401) -/

/-- The first byte of a dirty line whose home is no longer populated. -/
def lostAddr (m : MemSys) (l : Line) : Option Nat :=
  if l.dirty = 0#64 || m.isPop (l.pa * 64) then none else some l.firstDirty

/-- Writes back the dirty lines `p` selects and drops those whose link is down, naming the first of these (R401); what is
written back is acknowledged before this is over. -/
def State.publishLines (s : State) (core : Nat) (p : Line → Bool) : State × Option Nat :=
  let ls := (s.ms.core core).l1
  let lost := ls.filter (fun l => p l && (lostAddr s.ms l).isSome)
  let ms := s.ms.dropLines core (fun l => p l && (lostAddr s.ms l).isSome)
  let bad := match lost with | l :: _ => lostAddr s.ms l | [] => none
  ({ s with ms := { ms.cleanLines core p with unacked := s.ms.unacked } }, bad)

/-- The wait of a fence, a release or `texit` for the peers' acknowledgments of the writes `p` selects, at system scope (R58,
R401). -/
def State.ackWait (s : State) (e : BitVec 2) (p : Unack → Bool) : AckWait := if e = 3#2 then s.ms.ackWait p else .done

/-- A lost write is reported once; a link that is up may still acknowledge the others. -/
def State.reported (s : State) (p : Unack → Bool) : State := { s with ms := s.ms.dropUnacked (fun u => p u && u.dead) }

/-- Drops the lines an acquire names, dirty ones written back first (R63, R65). Log 14 (DEDUCED, unsafe). -/
def State.acquireLines (s : State) (core : Nat) (p : Line → Bool) : State :=
  { s with ms := s.ms.flushLines core (fun l => p l && (lostAddr s.ms l).isNone) }

/-! ### Loads and stores (R139) -/

/-- Translation of a scalar access with its page-format rules (R121, R139, R141, R177). -/
def scalarXlat (s : State) (tk : Nat) (k : Acc) (ea : Word) (size : Nat) : State × Except TrapInfo Xlat :=
  if ea.toNat % size ≠ 0 then (s, .error { cause := .misalign, tval := ea })
  else
    let t := s.team tk
    match s.ms.translate (.data (coreOf tk)) t.bind.asn t.bind.root (decide (t.level = .h)) k ea with
    | (ms, .error c) => ({ s with ms := ms }, .error { cause := c, tval := ea })
    | (ms, .ok x) =>
      if inScaleArea x.ent ea.toNat || (decide (k = .write) && decide (pageBlk x.ent.leaf ≠ 0)) then
        ({ s with ms := ms }, .error { cause := .format, tval := ea })
      else ({ s with ms := ms }, .ok x)

/-- A bundle trap of the S syllable in execution. -/
def State.trapI (s : State) (i : TrapInfo) : State := s.trapS i.cause i.tval

/-- Space code of R45 as `lmLoc` names spaces. -/
def lmCode (c : BitVec 3) : Nat := if c = 1#3 then 1 else 2

/-- A load that waits: in scheduled form it is in flight and binds later, in serial form its bundle is held (R53, R80,
R82). -/
def State.loadLater (s : State) (lat : Nat) (d : Reg) (l : PendLoad) : State :=
  let t := s.curTeam
  if t.sched then s.setTeam s.cur.tk (t.pending lat d l) else s.hold

/-- A load from `g:` through the L1 (R54). -/
def State.loadG (s : State) (lat : Nat) (d : Reg) (ea : Word) (size : Nat) (sxt : Bool) : State :=
  let tk := s.cur.tk
  match scalarXlat s tk .read ea size with
  | (s, .error f) => s.trapI f
  | (s, .ok x) =>
    let r := readG s tk false x.pa ea.toNat size
    if r.2.2 then r.1.trapI (ueAt true ea.toNat)
    else r.1.write lat d (loadExt size sxt r.2.1)

/-- A load from local memory or the cluster window, with the full/empty qualifiers (R48, R52, R53). -/
def State.loadL (s : State) (lat : Nat) (d : Reg) (c : BitVec 3) (ea : Word) (size : Nat) (sxt : Bool) : State :=
  let tk := s.cur.tk
  let t := s.curTeam
  let fec := decide (c = 4#3)
  let fe := decide (c = 3#3) || fec
  match lmLoc s tk (lmCode c) ea.toNat size with
  | .error f => s.trapI f
  | .ok (.g _ _) => s
  | .ok (.l core off) =>
    let span := winSpan t (lmCode c) ea.toNat size
    let touch : LmTouch := { LmTouch.none with core := true, rd := span, wr := if fec then span else [] }
    let own := match span with | x :: _ => x.addr | [] => ea.toNat
    let later : PendLoad :=
      { ea := BitVec.ofNat 64 own, size := size, sx := sxt, fe := fe, fec := fec, before := t.nextNo, bno := t.bno }
    if t.lmWaits t.nextNo touch then (if own < windowBase then s.loadLater lat d later else s.hold)
    else if s.ms.lmBad core off then s.trapI (ueAt false ea.toNat)
    else if fe && !s.ms.isFull core off then s.loadLater lat d later
    else
      let v := loadExt size sxt (s.ms.lmRead core off size)
      ({ s with ms := if fec then s.ms.setFull core off false else s.ms } : State).write lat d v

/-- `ld` (R139). -/
def execLd (d a : Reg) (c : BitVec 3) (z : BitVec 2) (x : Bool) (o : BitVec 7) (s : State) : Out :=
  let size := szBytes z
  let ea := s.smAddr a o size
  if c = 0#3 then
    if gWaits s s.cur.tk ea.toNat size then .next s.hold else .next (s.loadG 5 d ea size x)
  else .next (s.loadL (if c = 1#3 then 7 else 3) d c ea size x)

/-- A store into `g:` through the L1 (R54). -/
def State.storeG (s : State) (ea : Word) (size : Nat) (v : Word) : State × Bool :=
  let tk := s.cur.tk
  match scalarXlat s tk .write ea size with
  | (s, .error f) => (s.trapI f, false)
  | (s, .ok x) => (storeL1 s tk x ea.toNat size v.toNat, true)

/-- A store into local memory or the cluster window; `lm.fill` sets the granule's bit with the data (R52). -/
def State.storeLm (s : State) (c : BitVec 3) (ea : Word) (size : Nat) (v : Word) : State :=
  let tk := s.cur.tk
  let t := s.curTeam
  match lmLoc s tk (lmCode c) ea.toNat size with
  | .error f => s.trapI f
  | .ok (.g _ _) => s
  | .ok (.l core off) =>
    if t.lmWaits t.nextNo { LmTouch.none with core := true, wr := winSpan t (lmCode c) ea.toNat size } then s.hold
    else
      let ms := s.ms.lmWrite core off size v.toNat
      { s with ms := if c = 5#3 then ms.setFull core off true else ms }

/-- `st` (R139). -/
def execSt (d a : Reg) (c : BitVec 3) (z : BitVec 2) (o : BitVec 7) (s : State) : Out :=
  let size := szBytes z
  let ea := s.smAddr a o size
  if c = 0#3 then
    if gWaits s s.cur.tk ea.toNat size then .next s.hold else .next (s.storeG ea size (s.rd d)).1
  else .next (s.storeLm c ea size (s.rd d))

/-- `ld.acq` (R65, R140): after earlier releases (R67), a load, and then for a scope wider than team no `g:` line stays. -/
def execLdAcq (d a : Reg) (e z : BitVec 2) (x : Bool) (o : BitVec 7) (s : State) : Out :=
  let size := szBytes z
  let ea := s.smAddr a o size
  if !s.curTeam.liveRels.isEmpty || gWaits s s.cur.tk ea.toNat size then .next s.hold
  else
    let s' := s.loadG 5 d ea size x
    if s'.cur.st = .running ∧ e ≠ 0#2 then .next (s'.acquireLines (coreOf s.cur.tk) (fun _ => true)) else .next s'

/-- `st.rel` (R65, R140): after everything earlier, with the core's dirty lines written back for a scope wider than
team, a store performed at that scope. -/
def execStRel (d a : Reg) (e z : BitVec 2) (o : BitVec 7) (s : State) : Out :=
  let size := szBytes z
  let ea := s.smAddr a o size
  let core := coreOf s.cur.tk
  if !relReady s.curTeam || decide (s.ackWait e (Unack.ofCore s.cur.tk) = .waits) then .next s.hold
  else if e = 0#2 then .next (s.storeG ea size (s.rd d)).1
  else
    match s.ackWait e (Unack.ofCore s.cur.tk) with
    | .lost a => .next ((s.reported (Unack.ofCore s.cur.tk)).trapS .pageStore (BitVec.ofNat 64 a))
    | _ =>
    match scalarXlat s s.cur.tk .write ea size with
    | (s, .error f) => .next (s.trapI f)
    | (s, .ok _) =>
      match s.publishLines core (fun _ => true) with
      | (s, some a) => .next (s.trapS .pageStore (BitVec.ofNat 64 a))
      | (s, none) =>
        let r := s.storeG ea size (s.rd d)
        .next (if r.2 then (r.1.publishLines core (fun _ => true)).1 else r.1)

/-! ### Atomics (R141) -/

/-- The ten functions of R141 on w-bit values. -/
inductive AmoFn where
  | add | and | or | xor | min | max | minu | maxu | swap | cas
  deriving DecidableEq, Repr

/-- new, from old, b and c. -/
def amoNew (f : AmoFn) (w old b c : Nat) : Nat :=
  match f with
  | .add => (old + b) % 2 ^ w
  | .and => old &&& b
  | .or => old ||| b
  | .xor => old ^^^ b
  | .min => if toSigned w b < toSigned w old then b else old
  | .max => if toSigned w old < toSigned w b then b else old
  | .minu => if b < old then b else old
  | .maxu => if old < b then b else old
  | .swap => b
  | .cas => if old = c then b else old

/-- A scalar atomic: at the home in `g:` (R55), in the array in `lm:`, where it leaves the granule's bit alone. -/
def State.amo (s : State) (f : AmoFn) (d a b : Reg) (dw lm : Bool) : State :=
  let size := if dw then 8 else 4
  let w := 8 * size
  let ea := s.rd a
  let x := (s.rd b).toNat % 2 ^ w
  let c := (s.rd d).toNat % 2 ^ w
  let tk := s.cur.tk
  let t := s.curTeam
  if lm then
    match lmLoc s tk 2 ea.toNat size with
    | .error i => s.trapI i
    | .ok (.g _ _) => s
    | .ok (.l core off) =>
      let span := lmSpan t 2 ea.toNat size
      if t.lmWaits t.nextNo { LmTouch.none with core := true, rd := span, wr := span } then s.hold
      else if s.ms.lmBad core off then s.trapI (ueAt false ea.toNat)
      else
        let old := s.ms.lmRead core off size
        ({ s with ms := s.ms.lmWrite core off size (amoNew f w old x c) } : State).write 4 d (loadExt size true old)
  else if gWaits s tk ea.toNat size then s.hold
  else
    match scalarXlat s tk .write ea size with
    | (s, .error i) => s.trapI i
    | (s, .ok xl) =>
      let s := { s with ms := s.ms.evictLine (coreOf tk) xl.pa }
      if s.ms.poisoned xl.pa then s.trapI (ueAt true ea.toNat)
      else
        let old := s.ms.homeRead xl.pa size
        (storeHome s tk xl ea.toNat size (amoNew f w old x c) none).write 8 d (loadExt size true old)

/-- new := old + b. -/
def execAmoAdd (d a b : Reg) (z c : Bool) (s : State) : Out := .next (s.amo .add d a b z c)

/-- new := old AND b. -/
def execAmoAnd (d a b : Reg) (z c : Bool) (s : State) : Out := .next (s.amo .and d a b z c)

/-- new := old OR b. -/
def execAmoOr (d a b : Reg) (z c : Bool) (s : State) : Out := .next (s.amo .or d a b z c)

/-- new := old XOR b. -/
def execAmoXor (d a b : Reg) (z c : Bool) (s : State) : Out := .next (s.amo .xor d a b z c)

/-- The lesser, signed. -/
def execAmoMin (d a b : Reg) (z c : Bool) (s : State) : Out := .next (s.amo .min d a b z c)

/-- The greater, signed. -/
def execAmoMax (d a b : Reg) (z c : Bool) (s : State) : Out := .next (s.amo .max d a b z c)

/-- The lesser, unsigned. -/
def execAmoMinu (d a b : Reg) (z c : Bool) (s : State) : Out := .next (s.amo .minu d a b z c)

/-- The greater, unsigned. -/
def execAmoMaxu (d a b : Reg) (z c : Bool) (s : State) : Out := .next (s.amo .maxu d a b z c)

/-- new := b. -/
def execAmoSwap (d a b : Reg) (z c : Bool) (s : State) : Out := .next (s.amo .swap d a b z c)

/-- new := b where old equals c, which sd held. -/
def execAmoCas (d a b : Reg) (z c : Bool) (s : State) : Out := .next (s.amo .cas d a b z c)

/-! ### Loads that bind later (R82, R159, R160) -/

/-- Binds a load in flight if nothing older is in its way and its granule is full: its value, or the trap of a poisoned
block. -/
def bindLoad (s : State) (tk : Nat) (l : PendLoad) : Option (State × Except TrapInfo Word) :=
  let t := s.team tk
  let core := coreOf tk
  let off := t.lmBase + l.ea.toNat
  let older := { t with flights := t.flights.filter (fun f =>
    match f.load with | some m => decide (m.bno < l.bno) | none => false) }
  if older.lmWaits l.before (loadTouch t l) then none
  else if s.ms.lmBad core off then some (s, .error (ueAt false l.ea.toNat))
  else if l.fe && !s.ms.isFull core off then none
  else
    some ({ s with ms := if l.fec then s.ms.setFull core off false else s.ms },
      .ok (loadExt l.size l.sx (s.ms.lmRead core off l.size)))

/-- Gives flight i its value; a load into s0 leaves no result (R84). -/
def setFlight (fs : List Flight) (i : Nat) (v : Word) : List Flight :=
  fs.zipIdx.filterMap (fun x =>
    if x.2 = i then (if x.1.reg = 0#5 then none else some { x.1 with val := v, load := none }) else some x.1)

/-- SCALAR_RESULT_READY (R82): the i-th result in flight gets its value, and results due at the held bundle land. Log 21
(DEDUCED, safe). -/
def execScalarResultReady (tk i : Nat) (s : State) : Out :=
  if Config.teams ≤ tk then .fault .noSuchUnit
  else
    let t := s.team tk
    if t.status ≠ .running then .next s
    else
      match t.flights[i]? with
      | none => .next s
      | some f =>
        match f.load with
        | none => .next s
        | some l =>
          match bindLoad s tk l with
          | none => .next s
          | some (s, .ok v) => .next (s.setTeam tk ({ t with flights := setFlight t.flights i v } : Team).land)
          | some (s, .error x) =>
            -- a queued trap at the boundary comes first (R154)
            if t.trapReady then .next s
            else .next ((s.setTeam tk { t with flights := t.flights.eraseIdx i }).bundleTrap tk x .s t.pc)

end Sys2Proof.Machine
end

