-- ==== Sys2Proof/Machine/Sync.lean ====
section
/-! DEFINITION. Fences, knots and gang barriers (R60 to R65, R142 to R144, R401). -/

namespace Sys2Proof.Machine

/-! ### Fences (R65, R142) -/

/-- `fence`: after every earlier access and release, the core's dirty lines go to their homes; a scope wider than team
then drops every `g:` line. -/
def execFence (e : BitVec 2) (s : State) : Out :=
  let core := coreOf s.cur.tk
  if !relReady s.curTeam || decide (s.ackWait e (Unack.ofCore s.cur.tk) = .waits) then .next s.hold
  else
    match s.ackWait e (Unack.ofCore s.cur.tk) with
    | .lost a => .next ((s.reported (Unack.ofCore s.cur.tk)).trapS .pageStore (BitVec.ofNat 64 a))
    | _ =>
    match s.publishLines core (fun _ => true) with
    | (s, some a) => .next (s.trapS .pageStore (BitVec.ofNat 64 a))
    | (s, none) => .next (if e = 0#2 then s else { s with ms := s.ms.dropLines core (fun _ => true) })

/-! ### Knots (R60, R61, R143) -/

/-- The checks common to the four knot instructions, in order: alignment, translation, page format (R121), host or peer
memory, poison (R393). Log 17 (DEDUCED, unsafe). -/
def knotXlat (s : State) (tk : Nat) (k : Acc) (knot : Word) : State × Except TrapInfo Xlat :=
  if knot.toNat % 16 ≠ 0 then (s, .error { cause := .misalign, tval := knot })
  else
    let t := s.team tk
    match s.ms.translate (.data (coreOf tk)) t.bind.asn t.bind.root (decide (t.level = .h)) k knot with
    | (ms, .error c) => ({ s with ms := ms }, .error { cause := c, tval := knot })
    | (ms, .ok x) =>
      if inScaleArea x.ent knot.toNat then ({ s with ms := ms }, .error { cause := .format, tval := knot })
      else if isHostOrPeer x.pa then ({ s with ms := ms }, .error { cause := .protection, tval := knot })
      else
        -- the team's own stores come first, and no older copy stays in its L1 (R59)
        let ms := ms.evictLine (coreOf tk) x.pa
        if ms.poisoned x.pa then ({ s with ms := ms }, .error (ueAt true knot.toNat)) else ({ s with ms := ms }, .ok x)

/-- The key of the first entry of a partition's knot binding table. -/
def knotKey (part idx : Nat) : Nat := part * Config.knotEntries + idx

/-- The number under which a team's knots are bound: a context with a private code page keeps its partition's (R171). -/
def State.knotAsn (s : State) (tk : Nat) : Nat :=
  match (s.stream (s.team tk).bind.slot).space with
  | none => (s.team tk).bind.asn
  | some _ => (s.part (s.stream (s.team tk).bind.slot).part).asn

/-- The partition of a team (R41, R42). -/
def State.partOf (s : State) (tk : Nat) : Nat := (s.stream (s.team tk).bind.slot).part

/-- The index of the entry a bound knot names (R60): its handle is valid and the entry names the knot. -/
def boundIdx (s : State) (part asn : Nat) (knot : Word) (pa : Nat) : Option Nat :=
  let h := s.ms.homeRead (pa + 8) 8
  if fld h 63 1 = 0 then none
  else
    match find? s.ms.knots (knotKey part (h % 65536)) with
    | none => none
    | some e => if e.asn = asn ∧ e.knot = knot.toNat then some (h % 65536) else none

/-- A knot's region: base and length, or none for an unbound knot, whose region is the whole of `g:` (R61). -/
def knotRegion (s : State) (part asn : Nat) (knot : Word) (pa : Nat) : Option (Nat × Nat) :=
  match boundIdx s part asn knot pa with
  | none => none
  | some i => (find? s.ms.knots (knotKey part i)).map (fun e => (e.base, e.len))

/-- The lowest free index of a partition's table, walking the sorted entries (R61). -/
def lowestFree (part : Nat) : List (Nat × KnotEnt) → Nat → Option Nat
  | [], i => if i < Config.knotEntries then some i else none
  | e :: r, i =>
    if e.1 < knotKey part i then lowestFree part r i
    else if e.1 = knotKey part i then lowestFree part r (i + 1)
    else if i < Config.knotEntries then some i else none

/-- The lines of a knot's region. -/
def regionLines (asn : Nat) (r : Option (Nat × Nat)) (l : Line) : Bool :=
  match r with
  | none => true
  | some x => inRegion asn x.1 x.2 l

/-- Writes a knot's handle word at its home (R61). -/
def writeHandle (s : State) (x : Xlat) (knot : Word) (v : Nat) : State :=
  { s with ms := (s.ms.markWrite x knot.toNat).homeWrite (x.pa + 8) 8 v (none : Party) }

/-- The effect of R61 on a knot whose checks have passed: the result, and the table and handle as they come to be. Log 16
(DEDUCED, safe). -/
def bindKnot (s : State) (tk : Nat) (x : Xlat) (knot base len : Word) : State × Word :=
  let part := s.partOf tk
  let asn := s.knotAsn tk
  let ent : KnotEnt := { asn := asn, knot := knot.toNat, base := base.toNat, len := len.toNat }
  let setEnt := fun (s : State) (i : Nat) => { s with ms := { s.ms with knots := put s.ms.knots (knotKey part i) ent } }
  match boundIdx s part asn knot x.pa with
  | some i =>
    if len = 0#64 then
      (writeHandle { s with ms := { s.ms with knots := drop s.ms.knots (knotKey part i) } } x knot 0, 1#64)
    else (setEnt s i, 1#64)
  | none =>
    if len = 0#64 then (s, 1#64)
    else
      match lowestFree part s.ms.knots 0 with
      | some i => (writeHandle (setEnt s i) x knot (2 ^ 63 + i), 1#64)
      | none => (s, 0#64)

/-- `kbind` (R61, R143). Log 16 (DEDUCED, safe). -/
def execKbind (d a b : Reg) (s : State) : Out :=
  let knot := s.rd a
  let base := s.rd b
  let len := s.rd d
  if gWaits s s.cur.tk knot.toNat 16 then .next s.hold
  else
  match knotXlat s s.cur.tk .write knot with
  | (s, .error f) => .next (s.trapI f)
  | (s, .ok x) =>
    if base.toNat % 256 ≠ 0 ∨ len.toNat % 256 ≠ 0 ∨ 2 ^ 40 < len.toNat then .next (s.trapS .misalign knot)
    else
      let r := bindKnot s s.cur.tk x knot base len
      .next (r.1.write 5 d r.2)

/-- COUNT, read at the knot's home. -/
def knotCount (s : State) (pa : Nat) : Nat := s.ms.homeRead pa 8

/-- The region an acquire drops: the one read at its issue (R61). -/
def acqRegion (s : State) (knot : Word) (pa : Nat) : Option (Nat × Nat) :=
  match s.curTeam.acqBind with
  | some r => r
  | none => knotRegion s (s.partOf s.cur.tk) (s.knotAsn s.cur.tk) knot pa

/-- `kacq` (R63, R143): holds until COUNT reaches the threshold, then drops the region's lines. -/
def execKacq (a b : Reg) (_e : BitVec 2) (s : State) : Out :=
  let knot := s.rd a
  let thr := s.rd b
  if !s.curTeam.liveRels.isEmpty || gWaits s s.cur.tk knot.toNat 8 then .next s.hold
  else
    match knotXlat s s.cur.tk .read knot with
    | (s, .error f) => .next (s.trapI f)
    | (s, .ok x) =>
      let r := acqRegion s knot x.pa
      if knotCount s x.pa < thr.toNat then
        .next (s.setTeam s.cur.tk { s.curTeam with acqBind := some r }).hold
      else
        let s := s.acquireLines (coreOf s.cur.tk) (regionLines s.curTeam.bind.asn r)
        .next (s.setTeam s.cur.tk { s.curTeam with acqBind := none })

/-- `ktry` (R64, R143). -/
def execKtry (d a b : Reg) (_e : BitVec 2) (s : State) : Out :=
  let knot := s.rd a
  let thr := s.rd b
  if !s.curTeam.liveRels.isEmpty || gWaits s s.cur.tk knot.toNat 8 then .next s.hold
  else
    match knotXlat s s.cur.tk .read knot with
    | (s, .error f) => .next (s.trapI f)
    | (s, .ok x) =>
      if knotCount s x.pa < thr.toNat then .next (s.write 5 d 0#64)
      else
        let r := knotRegion s (s.partOf s.cur.tk) (s.knotAsn s.cur.tk) knot x.pa
        .next ((s.acquireLines (coreOf s.cur.tk) (regionLines s.curTeam.bind.asn r)).write 5 d 1#64)

/-- `krel` (R62, R143): commits at once; its release is performed later. -/
def execKrel (a b : Reg) (e : BitVec 2) (s : State) : Out :=
  let knot := s.rd a
  let inc := s.rd b
  match knotXlat s s.cur.tk .write knot with
  | (s, .error f) => .next (s.trapI f)
  | (s, .ok x) =>
    let t := s.curTeam
    let r := knotRegion s (s.partOf s.cur.tk) (s.knotAsn s.cur.tk) knot x.pa
    .next (s.setTeam s.cur.tk { t with
      krels := t.krels ++ [{ knot := knot, pa := x.pa, inc := inc, scope := e, region := r, before := t.nextNo, bno := t.bno }] })

/-- Adds an increment to a knot's COUNT at its home, indivisibly (R62, R72). -/
def State.knotAdd (s : State) (pa inc : Nat) : State :=
  { s with ms := s.ms.homeWrite pa 8 ((knotCount s pa + inc) % 2 ^ 64) (none : Party) }

/-- D and the dirty map for a write of the S9's own to an address of an address space (R179). -/
def State.markAt (s : State) (u : TlbPlace) (asn root : Nat) (atH : Bool) (va : Word) : State :=
  match s.ms.translate u asn root atH .write va with
  | (ms, .ok x) => { s with ms := ms.markWrite x va.toNat }
  | (ms, .error _) => { s with ms := ms }

/-- KNOT_RELEASE_PERFORMED (R62): the oldest release of the slot that its earlier accesses let be performed; a lost line
traps, after any queued trap of the boundary (R154, R401). Log 15 (DEDUCED, unsafe). -/
def execKnotReleasePerformed (tk : Nat) (s : State) : Out :=
  if Config.teams ≤ tk then .fault .noSuchUnit
  else
    let t := s.team tk
    match t.liveRels with
    | [] => .next s
    | k :: _ =>
      let early := t.flights.any (fun f => match f.load with | some l => decide (l.bno < k.bno) | none => false)
      if t.status = .empty ∨ t.status = .halted ∨ t.vMemBefore k.before ∨ early ∨
          s.ackWait k.scope (Unack.ofCore tk) = .waits then .next s
      else
        let s0 := s
        let s := s.setTeam tk { t with krels := t.krels.erase k }
        match s.ackWait k.scope (Unack.ofCore tk) with
        | .lost a =>
          if t.trapReady then .next s0
          else .next ((s.reported (Unack.ofCore tk)).bundleTrap tk { cause := .pageStore, tval := BitVec.ofNat 64 a } .s t.pc)
        | _ =>
        match s.publishLines (coreOf tk) (regionLines t.bind.asn k.region) with
        | (s, some a) =>
          if t.trapReady then .next s0
          else .next (s.bundleTrap tk { cause := .pageStore, tval := BitVec.ofNat 64 a } .s t.pc)
        | (s, none) =>
          let s := { s with ms := s.ms.evictLine (coreOf tk) k.pa }
          .next ((s.markAt (.data (coreOf tk)) t.bind.asn t.bind.root (decide (t.level = .h)) k.knot).knotAdd k.pa k.inc.toNat)

/-! ### Gang barriers (R144) -/

/-- An earlier store of the team to `lm:` or `cw:` is still queued. Log 107 (DESIGN CHOICE, unsafe). -/
def Team.lmStoreBefore (t : Team) : Bool :=
  t.vPend.any (fun p => match p.op with | .mem o => vmWrites o && decide (vmSpace o ≠ 0) | _ => false)

/-- `gbar.arr`: the arrival, seen by the siblings, whose `wfe` it ends (R165). -/
def execGbarArr (s : State) : Out :=
  if s.curTeam.lmStoreBefore then .next s.hold
  else
    let tk := s.cur.tk
    let t := s.curTeam
    let s := s.setTeam tk { t with ctl := { t.ctl with gph := t.ctl.gph + 1 } }
    .next ((s.gang tk).foldl (fun (s : State) u => if u.1 = tk then s else s.setTeam u.1 (s.team u.1).wakeUp) s)

/-- Whether a team counts as arrived at every later phase (R30, R144). -/
def Team.hasEnded (t : Team) : Bool :=
  match t.status with
  | .ended | .exiting => true
  | .escalating => (match t.esc with | some e => e.ended | none => false)
  | _ => false

/-- `gbar.wait d`: holds until every sibling has ended or has arrived PH − d times. -/
def execGbarWait (u : BitVec 5) (s : State) : Out :=
  let tk := s.cur.tk
  let target : Int := s.curTeam.ctl.gph.toNat - u.toNat
  if (s.gang tk).all (fun j => decide (j.1 = tk) || j.2.hasEnded || decide (target ≤ j.2.ctl.gph.toNat)) then .next s
  else .next s.hold

end Sys2Proof.Machine
end

