-- ==== Sys2Proof/Machine/Grant.lean ====
section
/-! DEFINITION. Grants and strip loops (R145 to R148, R205, R208, R260). -/

namespace Sys2Proof.Machine

/-- The grant a request would take now, no script entry used. Log 102 (DESIGN CHOICE, unsafe). -/
def State.grantNow (s : State) (q : Word) : Nat :=
  let t := s.curTeam
  grantOf q (s.vlmaxOf s.cur.tk) (t.capFor q).1 t.ctl.hold.toNat

/-- `wait_watch()` of R147: the progress word at its home is at least SEB + GL, or the trap of an address that does not
translate. Log 17 (DEDUCED, unsafe). -/
def watchOk (s : State) (w : Word) (need : Nat) : State × Except TrapInfo Bool :=
  let t := s.curTeam
  match s.ms.translate (.data (coreOf s.cur.tk)) t.bind.asn t.bind.root (decide (t.level = .h)) .read w with
  | (ms, .error c) => ({ s with ms := ms }, .error { cause := c, tval := w })
  | (ms, .ok x) =>
    if inScaleArea x.ent w.toNat then ({ s with ms := ms }, .error { cause := .format, tval := w })
    else
    let ms := ms.evictLine (coreOf s.cur.tk) x.pa
    if ms.poisoned x.pa then ({ s with ms := ms }, .error (ueAt true w.toNat))
    else ({ s with ms := ms }, .ok (decide (need ≤ ms.homeRead x.pa 8)))

/-- The acquire of R75 and R147 on the whole of `g:`. -/
def State.acquireAll (s : State) : State := s.acquireLines (coreOf s.cur.tk) (fun _ => true)

/-- Sets SC, SEB and WATCH. -/
def State.setStrip (s : State) (sc seb watch : Word) : State :=
  s.setCtl { s.curTeam.ctl with sc := sc, seb := seb, watch := watch }

/-- `setgl` and `setgl.h` (R146): HOLD, the grant, SEB and the result. -/
def State.setGrant (s : State) (h : BitVec 8) (d : Reg) (q : Word) : State :=
  let s := s.setCtl { s.curTeam.ctl with hold := h, seb := 0#64 }
  let s := s.grant q
  s.write 2 d (BitVec.ofNat 64 s.curTeam.ctl.gl.toNat)

/-- A free-standing grant that releases any held minimum. -/
def execSetgl (d a : Reg) (s : State) : Out := .next (s.setGrant 0#8 d (s.rd a))

/-- A free-standing grant with a held minimum of up to 64. -/
def execSetglH (d a b : Reg) (s : State) : Out :=
  .next (s.setGrant (BitVec.ofNat 8 (min (s.rd b).toNat 64)) d (s.rd a))

/-- Starts a strip loop (R147). -/
def execStb (a : Reg) (s : State) : Out := .next ((s.setStrip (s.rd a) 0#64 0#64).grant (s.rd a))

/-- Starts a strip loop that watches a progress word (R147). -/
def execStbW (a b : Reg) (s : State) : Out :=
  let w := s.rd b
  let q := s.rd a
  if w.toNat % 8 ≠ 0 then .next (s.trapS .misalign w)
  else if w = 0#64 then .next ((s.setStrip q 0#64 0#64).grant q)
  else if !s.curTeam.liveRels.isEmpty || gWaits s s.cur.tk w.toNat 8 then .next s.hold
  else
    match watchOk s w (s.grantNow q) with
    | (s, .error f) => .next (s.trapI f)
    | (s, .ok false) => .next s.hold
    | (s, .ok true) => .next ((s.setStrip q 0#64 w).grant q).acquireAll

/-- SC after a strip: never below zero. -/
def stripLeft (c : Ctl) : Word := if c.sc.toNat ≤ c.gl.toNat then 0#64 else c.sc - BitVec.ofNat 64 c.gl.toNat

/-- SEB after a strip. -/
def stripBase (c : Ctl) : Word := c.seb + BitVec.ofNat 64 c.gl.toNat

/-- Closes a strip (R148): falls through when nothing is left, else grants, waits under a WATCH and jumps. -/
def execSte (o : BitVec 18) (s : State) : Out :=
  let c := s.curTeam.ctl
  let sc := stripLeft c
  let seb := stripBase c
  let go := fun (s : State) => (((s.setStrip sc seb c.watch).grant sc).jump (s.target o))
  if sc = 0#64 then .next (s.setStrip 0#64 seb c.watch)
  else if c.watch = 0#64 then .next (go s)
  else if !s.curTeam.liveRels.isEmpty || gWaits s s.cur.tk c.watch.toNat 8 then .next s.hold
  else
    match watchOk s c.watch (seb.toNat + s.grantNow sc) with
    | (s, .error f) => .next (s.trapI f)
    | (s, .ok false) => .next s.hold
    | (s, .ok true) => .next (go s).acquireAll

end Sys2Proof.Machine
end

