-- ==== Sys2Proof/Machine/CtlReg.lean ====
section
/-! DEFINITION. The control-register instructions over every register of the map (R125 to R131, R201, R215, R263). -/

namespace Sys2Proof.Machine

/-! ### Reading -/

/-- Fields of the polynomial registers in sequencer view (R130). -/
def polyOf (t : Team) (n : Nat) : Poly := t.vec.poly (n % 8)

/-- PDEGn, PSn, PNn and PFLAGS, whose access waits for the polynomial syllables (R263). -/
def isPolyCr (n : Nat) : Bool := decide (0x30 ≤ n) && decide (n ≤ 0x48)

/-- The registers listed in R127 as their field maps give them; none for a number the map does not list. -/
def readCr (s : State) (tk n : Nat) : Option Word :=
  let t := s.team tk
  let c := t.ctl
  let z := fun {k : Nat} (x : BitVec k) => some (x.setWidth 64)
  if 0x30 ≤ n ∧ n ≤ 0x37 then z (polyOf t n).pdeg
  else if 0x38 ≤ n ∧ n ≤ 0x3F then some ((polyOf t n).ps.signExtend 64)
  else if 0x40 ≤ n ∧ n ≤ 0x47 then z (polyOf t n).pn
  else if 0x108 ≤ n ∧ n ≤ 0x10B then some (c.ls (n - 0x108))
  else if 0x110 ≤ n ∧ n ≤ 0x117 then some (look 0#64 c.bkp (n - 0x110))
  else
    match n with
    | 0x000 => some (BitVec.ofNat 64 (t.bind.tidx % 8))
    | 0x001 => some (BitVec.ofNat 64 (t.bind.gidx % 65536))
    | 0x010 => some (BitVec.ofNat 64 (c.hold.toNat * 65536 + c.gl.toNat))
    | 0x011 => some c.sc
    | 0x012 => z c.es
    | 0x013 => z c.vtype
    | 0x014 => some (BitVec.ofNat 64 (s.vlmaxOf tk))
    | 0x015 => some c.seed
    | 0x016 => z c.fflags
    | 0x017 => some (s.ms.core (coreOf tk)).lmap
    | 0x018 => some (ofBool64 t.bind.prot)
    | 0x019 => some c.seb
    | 0x01A => z c.gph
    | 0x020 => z c.mkp
    | 0x021 => some c.cp
    | 0x022 => some c.cka
    | 0x023 => some c.ckr
    | 0x024 => some c.ntfw
    | 0x025 => some c.watch
    | 0x048 => z c.pflags
    | 0x100 => z c.tcause
    | 0x101 => some c.tpc
    | 0x102 => some c.tvpc
    | 0x103 => some c.tval
    | 0x104 => z c.tstatus
    | 0x105 => some t.bind.tvec
    | 0x10C => some c.lsm
    | 0x120 => z (s.stream t.bind.slot).wdLeft
    | _ => none

/-! ### Writing -/

def maskKnot : Word := 0xFFFFFFFFFFFFFFF0#64
def maskPaddr : Word := 0x01FFFFFFFFFFFFF8#64
def maskBkp : Word := 0x01FFFFFFFFFFFFFD#64
def maskLsm : Word := 0x9F0F9F0F9F0F9F0F#64

/-- VTYPE after a write: RM and FMT are RWL, and FMT also keeps its value when GL exceeds VLMAX at the new width
(R128, R201). -/
def newVtype (s : State) (tk : Nat) (v : Word) : BitVec 13 :=
  let t := s.team tk
  let old := t.ctl.vtype
  let rm := v.extractLsb' 5 3
  let rm := if (RMode.ofCode rm.toNat).isSome then rm else old.extractLsb' 5 3
  let fmt := v.extractLsb' 0 5
  let ok := match Fmt.ofCode fmt.toNat with
    | some f => f.isReg && decide (t.ctl.gl.toNat ≤ vlmax (s.lanesOf tk) f.width)
    | none => false
  let fmt := if ok then fmt else old.extractLsb' 0 5
  v.extractLsb' 10 3 ++ v.extractLsb' 8 2 ++ rm ++ fmt

/-- A write to VTYPE (R201): a narrower width drops the bytes that leave the live part, in queue order. -/
def writeVtype (s : State) (v : Word) : State :=
  let t := s.curTeam
  let vt := newVtype s s.cur.tk v
  let w := t.ctl.width
  let w' := (vtFmt vt).width
  let s := s.setCtl { t.ctl with vtype := vt }
  if w' < w then { s with cur := { s.cur with cuts := s.cur.cuts ++ [.trunc (t.ctl.gl.toNat * w') none] } } else s

/-- A write to a register: read-only fields keep their value; `hl` opens the registers that only H-level writes. -/
def writeCr (s : State) (n : Nat) (v : Word) : State :=
  let t := s.curTeam
  let c := t.ctl
  let hl := decide (t.level = .h)
  -- a polynomial syllable of the same bundle does not see the new value (R78)
  if isPolyCr n then { s with cur := { s.cur with cuts := s.cur.cuts ++ [.setp n v] } }
  else if n = 0x13 then writeVtype s v
  else if n = 0x15 then s.setCtl { c with seed := v }
  else if n = 0x16 then s.setCtl { c with fflags := v.setWidth 6 }
  else if n = 0x22 then s.setCtl { c with cka := v &&& maskKnot }
  else if n = 0x23 then s.setCtl { c with ckr := v &&& maskKnot }
  else if n = 0x24 then s.setCtl { c with ntfw := v &&& maskPaddr }
  else if !hl then s
  else if 0x108 ≤ n ∧ n ≤ 0x10B then s.setCtl (c.setLs (n - 0x108) v)
  else if 0x110 ≤ n ∧ n ≤ 0x117 then s.setCtl { c with bkp := store 0#64 c.bkp (n - 0x110) (v &&& maskBkp) }
  else
    match n with
    | 0x011 => s.setCtl { c with sc := v }
    | 0x012 => s.setCtl { c with es := v.setWidth 16 }
    | 0x019 => s.setCtl { c with seb := v }
    | 0x020 => s.setCtl { c with mkp := v.setWidth 16 }
    | 0x021 => s.setCtl { c with cp := v }
    | 0x101 => s.setCtl { c with tpc := v &&& maskPc }
    | 0x10C => s.setCtl { c with lsm := v &&& maskLsm }
    | _ => s

/-! ### The instructions -/

/-- A number no team may name at its level (R126): the cause and the syllable's word. -/
def crFault (s : State) (n : Nat) : Option Cause :=
  if decide (0x100 ≤ n) && decide (n ≤ 0x1FF) && decide (s.curTeam.level = .a) then some .protection
  else if (readCr s s.cur.tk n).isNone then some .illegal
  else none

/-- The shape of the four: the checks, the wait of R263, then `f` on the register's value. -/
def State.onCr (s : State) (n : BitVec 12) (f : Word → State) : State :=
  match crFault s n.toNat with
  | some c => s.trapS c (s.cur.word.setWidth 64)
  | none =>
    if isPolyCr n.toNat && s.curTeam.polyBusy then s.hold
    else f ((readCr s s.cur.tk n.toNat).getD 0#64)

/-- sd := CR. -/
def execCrr (d : Reg) (n : BitVec 12) (s : State) : Out := .next (s.onCr n (fun v => s.write 2 d v))

/-- CR := sa. -/
def execCrw (a : Reg) (n : BitVec 12) (s : State) : Out := .next (s.onCr n (fun _ => writeCr s n.toNat (s.rd a)))

/-- CR := old OR sa; sd := old. -/
def execCrs (d a : Reg) (n : BitVec 12) (s : State) : Out :=
  .next (s.onCr n (fun v => (writeCr s n.toNat (v ||| s.rd a)).write 2 d v))

/-- CR := old AND NOT sa; sd := old. -/
def execCrc (d a : Reg) (n : BitVec 12) (s : State) : Out :=
  .next (s.onCr n (fun v => (writeCr s n.toNat (v &&& ~~~(s.rd a))).write 2 d v))

end Sys2Proof.Machine
end

