-- ==== Sys2Proof/Machine/VecIssue.lean ====
section
/-! DEFINITION. The V syllables (R220 to R273): each enters its slot's queue with what it captures (R22, R209), where
VIQ_ISSUE performs it. -/

namespace Sys2Proof.Machine

/-- The scalar register a scalar-capable syllable captures: s0 where b names a vector (R87). -/
def scalOf (o : VSc) : Reg := if o.s then o.b else 0#5

/-- A compare of two vectors, as the queue holds it. -/
def plainSc (o : VV) : VSc := { d := o.d, a := o.a, b := o.b, x := o.x, y := o.y, m := o.m, s := false }

/-! ### Integer arithmetic, compares and selection (R223, R229, R232) -/

/-- R223. -/
def execVadd (o : VSc) (s : State) : Out := .next (s.pushV (.int .add o) 0#5 0#5 (scalOf o))

/-- R223. -/
def execVsub (o : VSc) (s : State) : Out := .next (s.pushV (.int .sub o) 0#5 0#5 (scalOf o))

/-- R223. -/
def execVmul (o : VSc) (s : State) : Out := .next (s.pushV (.int .mul o) 0#5 0#5 (scalOf o))

/-- R223. -/
def execVmulh (o : VSc) (s : State) : Out := .next (s.pushV (.int .mulh o) 0#5 0#5 (scalOf o))

/-- R223. -/
def execVmulhU (o : VSc) (s : State) : Out := .next (s.pushV (.int .mulhU o) 0#5 0#5 (scalOf o))

/-- R223. -/
def execVmin (o : VSc) (s : State) : Out := .next (s.pushV (.int .min o) 0#5 0#5 (scalOf o))

/-- R223. -/
def execVminU (o : VSc) (s : State) : Out := .next (s.pushV (.int .minU o) 0#5 0#5 (scalOf o))

/-- R223. -/
def execVmax (o : VSc) (s : State) : Out := .next (s.pushV (.int .max o) 0#5 0#5 (scalOf o))

/-- R223. -/
def execVmaxU (o : VSc) (s : State) : Out := .next (s.pushV (.int .maxU o) 0#5 0#5 (scalOf o))

/-- R223. -/
def execVand (o : VSc) (s : State) : Out := .next (s.pushV (.int .and o) 0#5 0#5 (scalOf o))

/-- R223. -/
def execVor (o : VSc) (s : State) : Out := .next (s.pushV (.int .or o) 0#5 0#5 (scalOf o))

/-- R223. -/
def execVxor (o : VSc) (s : State) : Out := .next (s.pushV (.int .xor o) 0#5 0#5 (scalOf o))

/-- R223. -/
def execVsll (o : VSc) (s : State) : Out := .next (s.pushV (.int .sll o) 0#5 0#5 (scalOf o))

/-- R223. -/
def execVsrl (o : VSc) (s : State) : Out := .next (s.pushV (.int .srl o) 0#5 0#5 (scalOf o))

/-- R223. -/
def execVsra (o : VSc) (s : State) : Out := .next (s.pushV (.int .sra o) 0#5 0#5 (scalOf o))

/-- R223. -/
def execVsadd (o : VSc) (s : State) : Out := .next (s.pushV (.int .sadd o) 0#5 0#5 (scalOf o))

/-- R223. -/
def execVsaddU (o : VSc) (s : State) : Out := .next (s.pushV (.int .saddU o) 0#5 0#5 (scalOf o))

/-- R223. -/
def execVssub (o : VSc) (s : State) : Out := .next (s.pushV (.int .ssub o) 0#5 0#5 (scalOf o))

/-- R223. -/
def execVssubU (o : VSc) (s : State) : Out := .next (s.pushV (.int .ssubU o) 0#5 0#5 (scalOf o))

/-- R229. -/
def execVcmpuLtu (o : VSc) (s : State) : Out := .next (s.pushV (.cmp .ltu o) 0#5 0#5 (scalOf o))

/-- R229. -/
def execVcmpuGeu (o : VSc) (s : State) : Out := .next (s.pushV (.cmp .geu o) 0#5 0#5 (scalOf o))

/-- R229. -/
def execVcmpEq (o : VV) (s : State) : Out := .next (s.pushV (.cmp .eq (plainSc o)) 0#5 0#5 0#5)

/-- R229. -/
def execVcmpNe (o : VV) (s : State) : Out := .next (s.pushV (.cmp .ne (plainSc o)) 0#5 0#5 0#5)

/-- R229. -/
def execVcmpLt (o : VV) (s : State) : Out := .next (s.pushV (.cmp .lt (plainSc o)) 0#5 0#5 0#5)

/-- R229. -/
def execVcmpGe (o : VV) (s : State) : Out := .next (s.pushV (.cmp .ge (plainSc o)) 0#5 0#5 0#5)

/-- R232. -/
def execVmerge (o : VSc) (s : State) : Out := .next (s.pushV (.merge o) 0#5 0#5 (scalOf o))

/-! ### Floating point and conversion (R224 to R229) -/

/-- R224. -/
def execVfadd (o : VSc) (s : State) : Out := .next (s.pushV (.fp2 .add o) 0#5 0#5 (scalOf o))

/-- R224. -/
def execVfsub (o : VSc) (s : State) : Out := .next (s.pushV (.fp2 .sub o) 0#5 0#5 (scalOf o))

/-- R224. -/
def execVfmul (o : VSc) (s : State) : Out := .next (s.pushV (.fp2 .mul o) 0#5 0#5 (scalOf o))

/-- R224. -/
def execVfdiv (o : VSc) (s : State) : Out := .next (s.pushV (.fp2 .div o) 0#5 0#5 (scalOf o))

/-- R226. -/
def execVfmin (o : VSc) (s : State) : Out := .next (s.pushV (.fp2 .min o) 0#5 0#5 (scalOf o))

/-- R226. -/
def execVfmax (o : VSc) (s : State) : Out := .next (s.pushV (.fp2 .max o) 0#5 0#5 (scalOf o))

/-- R224. -/
def execVfma (o : VV) (s : State) : Out := .next (s.pushV (.fma false false o) 0#5 0#5 0#5)

/-- R224. -/
def execVfmaFms (o : VV) (s : State) : Out := .next (s.pushV (.fma false true o) 0#5 0#5 0#5)

/-- R224. -/
def execVfmaFnma (o : VV) (s : State) : Out := .next (s.pushV (.fma true true o) 0#5 0#5 0#5)

/-- R224. -/
def execVfmaFnms (o : VV) (s : State) : Out := .next (s.pushV (.fma true false o) 0#5 0#5 0#5)

/-- R225. -/
def execVfsqrt (o : V1) (s : State) : Out := .next (s.pushV (.fp1 .sqrt o) 0#5 0#5 0#5)

/-- R225. -/
def execVfrcp (o : V1) (s : State) : Out := .next (s.pushV (.fp1 .rcp o) 0#5 0#5 0#5)

/-- R225. -/
def execVfrsq (o : V1) (s : State) : Out := .next (s.pushV (.fp1 .rsq o) 0#5 0#5 0#5)

/-- R225. -/
def execVfexp2 (o : V1) (s : State) : Out := .next (s.pushV (.fp1 .exp2 o) 0#5 0#5 0#5)

/-- R225. -/
def execVflog2 (o : V1) (s : State) : Out := .next (s.pushV (.fp1 .log2 o) 0#5 0#5 0#5)

/-- R228. -/
def execVfcvt (o : VS) (s : State) : Out := .next (s.pushV (.cvt o) 0#5 0#5 0#5)

/-- R227. -/
def execVfclass (o : V1) (s : State) : Out := .next (s.pushV (.cls o) 0#5 0#5 0#5)

/-- R229. -/
def execVfcmpEq (o : VV) (s : State) : Out := .next (s.pushV (.cmp .feq (plainSc o)) 0#5 0#5 0#5)

/-- R229. -/
def execVfcmpLt (o : VV) (s : State) : Out := .next (s.pushV (.cmp .flt (plainSc o)) 0#5 0#5 0#5)

/-- R229. -/
def execVfcmpLe (o : VV) (s : State) : Out := .next (s.pushV (.cmp .fle (plainSc o)) 0#5 0#5 0#5)

/-- R229. -/
def execVfcmpUnord (o : VV) (s : State) : Out := .next (s.pushV (.cmp .funord (plainSc o)) 0#5 0#5 0#5)

/-! ### Masks (R230, R231) -/

/-- R230. -/
def execKand (o : VK) (s : State) : Out := .next (s.pushV (.kop .and o) 0#5 0#5 0#5)

/-- R230. -/
def execKor (o : VK) (s : State) : Out := .next (s.pushV (.kop .or o) 0#5 0#5 0#5)

/-- R230. -/
def execKxor (o : VK) (s : State) : Out := .next (s.pushV (.kop .xor o) 0#5 0#5 0#5)

/-- R230. -/
def execKinv (d a : Reg) (m : BitVec 4) (s : State) : Out := .next (s.pushV (.kop .inv { d := d, a := a, b := 0#5, m := m }) 0#5 0#5 0#5)

/-- R231. -/
def execKcount (d a : Reg) (s : State) : Out := .next (s.pushV (.kq .count d a) 0#5 0#5 0#5)

/-- R231. -/
def execKany (d a : Reg) (s : State) : Out := .next (s.pushV (.kq .any d a) 0#5 0#5 0#5)

/-- R231. -/
def execKfirst (d a : Reg) (s : State) : Out := .next (s.pushV (.kq .first d a) 0#5 0#5 0#5)

/-! ### The product-polynomial accumulator (R268 to R271) -/

/-- R268. -/
def execPpinit (d : Reg) (s : State) : Out := .next (s.pushV (.ppinit false d) 0#5 0#5 0#5)

/-- R268. -/
def execPpinitNorm (d : Reg) (s : State) : Out := .next (s.pushV (.ppinit true d) 0#5 0#5 0#5)

/-- R269. -/
def execPpmul (o : VV) (s : State) : Out := .next (s.pushV (.ppmul false o) 0#5 0#5 0#5)

/-- R269. -/
def execPpmulPb (o : V1) (s : State) : Out := .next (s.pushV (.ppmul true { d := o.d, a := o.a, b := 0#5, x := o.x, y := false, m := o.m }) 0#5 0#5 0#5)

/-- R270. -/
def execPpdiv (d a b : Reg) (s : State) : Out := .next (s.pushV (.ppdiv d) 0#5 a b)

/-- R271. -/
def execPpmvToVector (d a : Reg) (m : BitVec 4) (s : State) : Out := .next (s.pushV (.ppmvV d a m) 0#5 0#5 0#5)

/-- R271. -/
def execPpmvToPoly (o : V1) (s : State) : Out := .next (s.pushV (.ppmvP o.d o.a o.m) 0#5 0#5 0#5)

/-! ### Moves (R232 to R236) -/

/-- R234. -/
def execVslideUp (o : VS) (s : State) : Out := .next (s.pushV (.slide true o) 0#5 0#5 o.b)

/-- R234. -/
def execVslideDown (o : VS) (s : State) : Out := .next (s.pushV (.slide false o) 0#5 0#5 o.b)

/-- R235. -/
def execVgathR (o : VV) (s : State) : Out := .next (s.pushV (.gath o) 0#5 0#5 0#5)

/-- R235. -/
def execVscatR (o : VV) (s : State) : Out := .next (s.pushV (.scat o) 0#5 0#5 0#5)

/-- R236. -/
def execVcompress (o : V1) (s : State) : Out := .next (s.pushV (.compress o) 0#5 0#5 0#5)

/-- R236. -/
def execVexpand (o : V1) (s : State) : Out := .next (s.pushV (.expand o) 0#5 0#5 0#5)

/-- R232. -/
def execVbcast (d b : Reg) (m : BitVec 4) (s : State) : Out := .next (s.pushV (.bcast d m) 0#5 0#5 b)

/-- R233. -/
def execVext (d a b : Reg) (_x : Bool) (s : State) : Out := .next (s.pushV (.ext d a) 0#5 0#5 b)

/-- R233. -/
def execVins (o : VK) (s : State) : Out := .next (s.pushV (.ins o.d o.m) 0#5 o.a o.b)

/-- R232. -/
def execVid (d : Reg) (m : BitVec 4) (s : State) : Out := .next (s.pushV (.vid d m) 0#5 0#5 0#5)

/-- R232. -/
def execVmv (o : V1) (s : State) : Out := .next (s.pushV (.mv o) 0#5 0#5 0#5)

/-! ### Reductions (R237 to R240) -/

/-- R238. -/
def execVredSum (o : V1) (s : State) : Out := .next (s.pushV (.red .red .sum o) 0#5 0#5 0#5)

/-- R238. -/
def execVredFsum (o : V1) (s : State) : Out := .next (s.pushV (.red .red .fsum o) 0#5 0#5 0#5)

/-- R238. -/
def execVredMax (o : V1) (s : State) : Out := .next (s.pushV (.red .red .max o) 0#5 0#5 0#5)

/-- R238. -/
def execVredMin (o : V1) (s : State) : Out := .next (s.pushV (.red .red .min o) 0#5 0#5 0#5)

/-- R239. -/
def execVfoldSum (o : V1) (s : State) : Out := .next (s.pushV (.red .fold .sum o) 0#5 0#5 0#5)

/-- R239. -/
def execVfoldFsum (o : V1) (s : State) : Out := .next (s.pushV (.red .fold .fsum o) 0#5 0#5 0#5)

/-- R239. -/
def execVfoldMax (o : V1) (s : State) : Out := .next (s.pushV (.red .fold .max o) 0#5 0#5 0#5)

/-- R239. -/
def execVfoldMin (o : V1) (s : State) : Out := .next (s.pushV (.red .fold .min o) 0#5 0#5 0#5)

/-- R240. -/
def execVscanSum (o : V1) (s : State) : Out := .next (s.pushV (.red .scan .sum o) 0#5 0#5 0#5)

/-- R240. -/
def execVscanFsum (o : V1) (s : State) : Out := .next (s.pushV (.red .scan .fsum o) 0#5 0#5 0#5)

/-- R240. -/
def execVscanMax (o : V1) (s : State) : Out := .next (s.pushV (.red .scan .max o) 0#5 0#5 0#5)

/-- R240. -/
def execVscanMin (o : V1) (s : State) : Out := .next (s.pushV (.red .scan .min o) 0#5 0#5 0#5)

/-! ### Vector memory, atomics and codebooks (R241, R246 to R257) -/

/-- R255. -/
def execVamoAdd (o : VAm) (s : State) : Out := .next (s.pushV (.mem (.amo .add o)) 0#5 o.a 0#5)

/-- R255. -/
def execVamoMin (o : VAm) (s : State) : Out := .next (s.pushV (.mem (.amo .min o)) 0#5 o.a 0#5)

/-- R255. -/
def execVamoMax (o : VAm) (s : State) : Out := .next (s.pushV (.mem (.amo .max o)) 0#5 o.a 0#5)

/-- R255. -/
def execVamoSwap (o : VAm) (s : State) : Out := .next (s.pushV (.mem (.amo .swap o)) 0#5 o.a 0#5)

/-- R241. -/
def execVtocb (d a : Reg) (_x : Bool) (s : State) : Out := .next (s.pushV (.tocb d a) 0#5 0#5 0#5)

/-- R249. -/
def execVld (o : VLd) (s : State) : Out := .next (s.pushV (.mem (.load .strided o)) 0#5 o.a o.b)

/-- R249. -/
def execVst (o : VSt) (s : State) : Out := .next (s.pushV (.mem (.store .strided o)) 0#5 o.a o.b)

/-- R249. -/
def execVldx (o : VLd) (s : State) : Out := .next (s.pushV (.mem (.load .indexed o)) 0#5 o.a 0#5)

/-- R249. -/
def execVstx (o : VSt) (s : State) : Out := .next (s.pushV (.mem (.store .indexed o)) 0#5 o.a 0#5)

/-- R254. -/
def execTensorLoad (o : VLd) (s : State) : Out := .next (s.pushV (.mem (.load .tensor o)) 0#5 o.a 0#5)

/-- R254. -/
def execTensorStore (o : VSt) (s : State) : Out := .next (s.pushV (.mem (.store .tensor o)) 0#5 o.a 0#5)

/-- R257. -/
def execVgl (d a b : Reg) (o v : Bool) (m : BitVec 3) (s : State) : Out := .next (s.pushV (.mem (.gl { d := d, a := a, b := b, o := o, c := 0#3, v := v, m := m })) 0#5 a 0#5)

/-- R257. -/
def execVsc (d a b : Reg) (y : Bool) (m : BitVec 3) (s : State) : Out := .next (s.pushV (.mem (.sc { d := d, a := a, b := b, y := y, c := 0#3, n := false, m := m })) 0#5 a 0#5)

/-- `vrep` (R243): opens a frame that captures the next `count` V syllables; R is bits [15:0] of sa. -/
def execVrep (c : BitVec 4) (a : Reg) (t : BitVec 5) (s : State) : Out :=
  let n := s.curTeam.nextNo
  let r := (s.cur.reg a).toNat % 65536
  let s := s.pushV (.rep (c.toNat + 1) t.toNat r) 0#5 0#5 a
  .next (s.setTeam s.cur.tk { s.curTeam with q := { s.curTeam.q with frame := some { head := n, left := c.toNat + 1 } } })

end Sys2Proof.Machine
end

