-- ==== Sys2Proof/Machine/EngineIssue.lean ====
section
/-! DEFINITION. The M and C syllables (R285 to R292, R302 to R315): each enters its slot's queue with what it captures;
`mwait` and `cwait` hold their bundle. -/

namespace Sys2Proof.Machine

/-! ### The matrix queue -/

/-- R285. -/
def execMma (o : MF) (s : State) : Out := .next (s.pushM (.mma false o) o.t o.a o.b (mfScaled o.f))

/-- R285: rows of A gathered through a vector of indices. -/
def execMmaG (o : MF) (s : State) : Out := .next (s.pushM (.mma true o) o.t o.a o.b (mfScaled o.f))

/-- R287. -/
def execMzero (t : Reg) (s : State) : Out := .next (s.pushM .zero t 0#5 0#5 false)

/-- R287. -/
def execMld (t a : Reg) (s : State) : Out := .next (s.pushM .ld t a 0#5 false)

/-- R287. -/
def execMst (t a : Reg) (s : State) : Out := .next (s.pushM .st t a 0#5 false)

/-- R288. -/
def execMdrainF32 (t d : Reg) (c : Bool) (s : State) : Out := .next (s.pushM (.drain 0 0#5 c) t d 0#5 false)

/-- R288. -/
def execMdrainBf16 (t d : Reg) (c : Bool) (s : State) : Out := .next (s.pushM (.drain 1 0#5 c) t d 0#5 false)

/-- R288, R289. -/
def execMdrainI8 (t d q : Reg) (c : Bool) (s : State) : Out := .next (s.pushM (.drain 2 q c) t d 0#5 false)

/-- R290. -/
def execMaddRow (t a : Reg) (f x : Bool) (s : State) : Out := .next (s.pushM (.add false f x) t a 0#5 false)

/-- R290. -/
def execMaddCol (t a : Reg) (f x : Bool) (s : State) : Out := .next (s.pushM (.add true f x) t a 0#5 false)

/-- R291. -/
def execMsum (t a b : Reg) (f u x : Bool) (s : State) : Out := .next (s.pushM (.sum f u x) t a b false)

/-- R292: holds until every earlier M syllable of the slot has completed. -/
def execMwait (s : State) : Out := .next (if s.curTeam.q.mq.isEmpty then s else s.hold)

/-! ### The copy queues -/

/-- A C syllable of the CF layout in its queue. -/
def State.pushCF (s : State) (k : CKind) (o : CF) (x y : Reg) : State :=
  s.pushC { kind := k, d := o.d, a := o.a, sync := o.y, scope := o.e, tag := o.g } x y o.l

/-- R303. -/
def execCpy (o : CF) (s : State) : Out := .next (s.pushCF .cpy o o.d o.a)

/-- R307: d and a name vector registers. -/
def execCpyt (o : CF) (s : State) : Out := .next (s.pushCF .cpyt o 0#5 0#5)

/-- R305. -/
def execCfill (o : CF) (s : State) : Out := .next (s.pushCF .cfill o o.d o.a)

/-- R308. -/
def execCgath (o : CF) (s : State) : Out := .next (s.pushCF .cgath o o.d o.a)

/-- R315. -/
def execCnm (d a : Reg) (y e : BitVec 2) (g : BitVec 4) (s : State) : Out :=
  .next (s.pushC { kind := .cnm, d := d, a := a, sync := y, scope := e, tag := g } d a 0#5)

/-- R315, R316. -/
def execCnmAll (d a : Reg) (y e : BitVec 2) (g : BitVec 4) (s : State) : Out :=
  .next (s.pushC { kind := .cnmAll, d := d, a := a, sync := y, scope := e, tag := g } d a 0#5)

/-- R306. -/
def execCpf (a l : Reg) (e : BitVec 2) (g : BitVec 4) (s : State) : Out :=
  .next (s.pushC { kind := .cpf, d := 0#5, a := a, sync := 0#2, scope := e, tag := g } 0#5 a l)

/-- R313. -/
def execCfence (g : BitVec 4) (s : State) : Out :=
  .next (s.pushC { kind := .cfence, d := 0#5, a := 0#5, sync := 0#2, scope := 0#2, tag := g } 0#5 0#5 0#5)

/-- A C syllable of the slot with this tag is still to complete. -/
def Team.tagBusy (t : Team) (g : BitVec 4) : Bool :=
  (t.q.cq0 ++ t.q.cq1).any (fun e => match e.op with | .c o => decide (o.tag = g) | _ => false)

/-- R312. -/
def execCwait (g : BitVec 4) (s : State) : Out := .next (if s.curTeam.tagBusy g then s.hold else s)

end Sys2Proof.Machine
end

