-- ==== Sys2Proof/Machine/Gang.lean ====
section
/-! DEFINITION. Gangs and the window entries they belong to: the end of a team, `texit`, the release of a gang's slots, unbinding
(R27, R30, R43, R44, R75, R164, R401). -/

namespace Sys2Proof.Machine

/-! ### Window entries -/

/-- The window entry with an id. -/
def Stream.entry? (x : Stream) (id : Nat) : Option WEntry := x.window.find? (fun e => decide (e.id = id))

/-- Puts an entry in place. -/
def Stream.putEntry (x : Stream) (e : WEntry) : Stream :=
  { x with window := x.window.map (fun f => if f.id = e.id then e else f) }

/-- The entry of the task with a sequence number (R33). -/
def Stream.taskOf (x : Stream) (seq : Word) : Option WEntry := x.window.find? (fun e => decide (e.seq = some seq))

/-- Records what gang g of a task has come to. -/
def State.setGang (s : State) (k : Nat) (seq : Word) (g : Nat) (st : GangState) : State :=
  match (s.stream k).taskOf seq with
  | none => s
  | some e => s.setStream k ((s.stream k).putEntry { e with gangs := e.gangs.set g st })

/-! ### Slots -/

/-- A near-memory job of the team in a slot. -/
def NmJob.ofTeam (j : NmJob) (tk : Nat) : Bool :=
  match j.owner with
  | .team k _ => decide (k = tk)
  | .task _ _ => false
  | .gone => false

/-- With no team bound on a core, its lanes marked for retirement are retired (R217, R394); more than 16 take it out of
service. -/
def State.retireLanes (s : State) (core : Nat) : State :=
  let c := s.ms.core core
  if c.marked.isEmpty || (s.team (2 * core)).present || (s.team (2 * core + 1)).present then s
  else
    let l := c.marked.foldl (fun (l : Word) i => l ||| (1#64 <<< i)) c.lmap
    let n := ((List.range 64).filter (fun i => l.getLsbD i)).length
    { s with ms := s.ms.setCore core { c with lmap := l, marked := [], wearState := if 16 < n then .retired else c.wearState } }

/-- A team's dirty lines go home, and what peers have not acknowledged of its writes is its stream's to wait for (R75, R372). -/
def MemSys.settleTeam (m : MemSys) (tk k : Nat) : MemSys :=
  (m.cleanLines (coreOf tk) (fun l => l.wr.getLsbD (tk % 2) && (lostAddr m l).isNone)).handOver tk k

/-- Frees a team slot (R30, R44): nothing of its occupant stays, but that its writes stand and a near-memory command already
handed over runs to completion (R324, R386). Log 27 (DEDUCED, safe). -/
def State.freeSlot (s : State) (tk : Nat) : State :=
  ({ s.setTeam tk Team.reset with
    ms := (s.ms.settleTeam tk (s.team tk).bind.slot).setLinks tk []
    jobs := s.jobs.map (fun j => if j.ofTeam tk then { j with owner := .gone } else j)
    syscalls := s.syscalls.filter (fun c => decide (c.caller ≠ .team tk)) } : State).retireLanes (coreOf tk)

/-- Releases a gang's slots together (R30). -/
def State.freeGang (s : State) (tk : Nat) : State := (s.gang tk).foldl (fun (s : State) e => s.freeSlot e.1) s

/-- The team in a slot has ended (R30, R164); with the last of its gang the slots are released. -/
def State.endTeam (s : State) (tk : Nat) : State :=
  let t := s.team tk
  let s := { s.setTeam tk { t with status := .ended, q := Queues.empty, image := none, flights := [], saved := [] } with
    ms := s.ms.setLinks tk [] }
  if (s.gang tk).all (fun e => decide (e.2.status = .ended)) then
    (s.setGang t.bind.slot t.bind.seq t.bind.gidx .ended).freeGang tk
  else s

/-- What `texit` waits for before its bundle commits (R164). -/
def State.exitReady (s : State) : Bool := s.curTeam.q.isEmpty && s.curTeam.krels.isEmpty

/-- `texit` (R164): at A-level, once older queued syllables and releases are done, the core's dirty lines are written
back (R75), results in flight are discarded, and the team ends when the bundle's own syllables have completed. -/
def execTexit (s : State) : Out :=
  match s.curTeam.level with
  | .h => .next (s.trapS .protection (s.cur.word.setWidth 64))
  | .a =>
    let mine := Unack.ofCore s.cur.tk
    if s.exitReady && decide (s.ms.ackWait mine ≠ .waits) then
      match s.ms.ackWait mine with
      | .lost a => .next ((s.reported mine).trapS .pageStore (BitVec.ofNat 64 a))
      | _ =>
      match s.publishLines (coreOf s.cur.tk) (fun _ => true) with
      | (s, some a) => .next (s.trapS .pageStore (BitVec.ofNat 64 a))
      | (s, none) => .next (s.setTeam s.cur.tk { s.curTeam with status := .exiting, flights := [], saved := [] })
    else .next s.hold

/-- A fault of a team that has executed `texit` (R164, R419). -/
def Team.exitFault (t : Team) (i : TrapInfo) (q : Option QEntry) : Team :=
  let t := t.escalate i ((q.map (fun e => qopCls e.op)).getD .s) q
  { t with esc := t.esc.map (fun x => { x with ended := true }) }

/-- An ended bundle's own syllables have completed (R164): the core's dirty lines go home once more and the team ends;
a fault of one of them escalates. -/
def State.finishExit (s : State) (tk : Nat) : State :=
  let t := s.team tk
  if t.status ≠ .exiting then s
  else
    match oldestFault t.q.all with
    | some e =>
      if !t.olderDone e then s
      else match e.fault with
        | some i => s.setTeam tk (t.exitFault i (some e))
        | none => s
    | none =>
      let mine := Unack.ofCore tk
      if t.q.isEmpty && t.krels.isEmpty && decide (s.ms.ackWait mine ≠ .waits) then
        match s.ms.ackWait mine with
        | .lost a => (s.reported mine).setTeam tk (t.exitFault { cause := .pageStore, tval := BitVec.ofNat 64 a } none)
        | _ =>
        match s.publishLines (coreOf tk) (fun _ => true) with
        | (s, some a) => s.setTeam tk ((s.team tk).exitFault { cause := .pageStore, tval := BitVec.ofNat 64 a } none)
        | (s, none) => s.endTeam tk
      else s

/-- The slots that hold teams of a stream. -/
def State.teamsOf (s : State) (k : Nat) : List Nat :=
  (s.teams.filter (fun e => e.2.present && decide (e.2.bind.slot = k))).map Prod.fst

/-- The slots that hold teams of one task. -/
def State.teamsOfTask (s : State) (k : Nat) (seq : Word) : List Nat :=
  (s.teams.filter (fun e => e.2.present && decide (e.2.bind.slot = k) && decide (e.2.bind.seq = seq))).map Prod.fst

/-- Unbinds slots whose task has ended or been squashed (R44), and drops saved contexts of its teams. -/
def State.unbind (s : State) (tks : List Nat) : State := tks.foldl State.freeSlot s

/-- A task's teams and saved contexts are gone (R44), their writes being the stream's to wait for. -/
def State.dropTask (s : State) (k : Nat) (seq : Word) : State :=
  let s := s.unbind (s.teamsOfTask k seq)
  let mine := fun (x : SavedTeam) => decide (x.k = k) && decide (x.seq = seq)
  let left := ((s.saved.filter mine).flatMap (fun x => x.unacked)).map (fun u => { u with who := .stream k })
  { s with
    saved := s.saved.filter (fun x => !mine x)
    ms := { s.ms with unacked := s.ms.unacked ++ left } }

end Sys2Proof.Machine
end

