-- ==== Sys2Proof/Machine/Crypto.lean ====
section
/-! DEFINITION. SHA-384 digests and ECDSA verification on P-384, the one signature scheme of the S9 (R10), over plain bytes and
numbers. The two standards' constants and steps are taken from FIPS 180-4 and FIPS 186: log 88 (PRESUMED, unsafe). -/

namespace Sys2Proof.Machine

/-! ### SHA-384 -/

def shaK0 : List Word :=
  [0x428A2F98D728AE22#64, 0x7137449123EF65CD#64, 0xB5C0FBCFEC4D3B2F#64, 0xE9B5DBA58189DBBC#64,
   0x3956C25BF348B538#64, 0x59F111F1B605D019#64, 0x923F82A4AF194F9B#64, 0xAB1C5ED5DA6D8118#64,
   0xD807AA98A3030242#64, 0x12835B0145706FBE#64, 0x243185BE4EE4B28C#64, 0x550C7DC3D5FFB4E2#64,
   0x72BE5D74F27B896F#64, 0x80DEB1FE3B1696B1#64, 0x9BDC06A725C71235#64, 0xC19BF174CF692694#64]

def shaK1 : List Word :=
  [0xE49B69C19EF14AD2#64, 0xEFBE4786384F25E3#64, 0x0FC19DC68B8CD5B5#64, 0x240CA1CC77AC9C65#64,
   0x2DE92C6F592B0275#64, 0x4A7484AA6EA6E483#64, 0x5CB0A9DCBD41FBD4#64, 0x76F988DA831153B5#64,
   0x983E5152EE66DFAB#64, 0xA831C66D2DB43210#64, 0xB00327C898FB213F#64, 0xBF597FC7BEEF0EE4#64,
   0xC6E00BF33DA88FC2#64, 0xD5A79147930AA725#64, 0x06CA6351E003826F#64, 0x142929670A0E6E70#64]

def shaK2 : List Word :=
  [0x27B70A8546D22FFC#64, 0x2E1B21385C26C926#64, 0x4D2C6DFC5AC42AED#64, 0x53380D139D95B3DF#64,
   0x650A73548BAF63DE#64, 0x766A0ABB3C77B2A8#64, 0x81C2C92E47EDAEE6#64, 0x92722C851482353B#64,
   0xA2BFE8A14CF10364#64, 0xA81A664BBC423001#64, 0xC24B8B70D0F89791#64, 0xC76C51A30654BE30#64,
   0xD192E819D6EF5218#64, 0xD69906245565A910#64, 0xF40E35855771202A#64, 0x106AA07032BBD1B8#64]

def shaK3 : List Word :=
  [0x19A4C116B8D2D0C8#64, 0x1E376C085141AB53#64, 0x2748774CDF8EEB99#64, 0x34B0BCB5E19B48A8#64,
   0x391C0CB3C5C95A63#64, 0x4ED8AA4AE3418ACB#64, 0x5B9CCA4F7763E373#64, 0x682E6FF3D6B2B8A3#64,
   0x748F82EE5DEFB2FC#64, 0x78A5636F43172F60#64, 0x84C87814A1F0AB72#64, 0x8CC702081A6439EC#64,
   0x90BEFFFA23631E28#64, 0xA4506CEBDE82BDE9#64, 0xBEF9A3F7B2C67915#64, 0xC67178F2E372532B#64]

def shaK4 : List Word :=
  [0xCA273ECEEA26619C#64, 0xD186B8C721C0C207#64, 0xEADA7DD6CDE0EB1E#64, 0xF57D4F7FEE6ED178#64,
   0x06F067AA72176FBA#64, 0x0A637DC5A2C898A6#64, 0x113F9804BEF90DAE#64, 0x1B710B35131C471B#64,
   0x28DB77F523047D84#64, 0x32CAAB7B40C72493#64, 0x3C9EBE0A15C9BEBC#64, 0x431D67C49C100D4C#64,
   0x4CC5D4BECB3E42B6#64, 0x597F299CFC657E2A#64, 0x5FCB6FAB3AD6FAEC#64, 0x6C44198C4A475817#64]

/-- The round constants. -/
def shaK : List Word := shaK0 ++ shaK1 ++ shaK2 ++ shaK3 ++ shaK4

/-- The eight working words. -/
structure Sha where
  a : Word
  b : Word
  c : Word
  d : Word
  e : Word
  f : Word
  g : Word
  h : Word
  deriving DecidableEq, Repr

def Sha.init : Sha :=
  { a := 0xCBBB9D5DC1059ED8#64, b := 0x629A292A367CD507#64, c := 0x9159015A3070DD17#64, d := 0x152FECD8F70E5939#64
    e := 0x67332667FFC00B31#64, f := 0x8EB44A8768581511#64, g := 0xDB0C2E0D64F98FA7#64, h := 0x47B5481DBEFA4FA4#64 }

def Sha.add (x y : Sha) : Sha :=
  { a := x.a + y.a, b := x.b + y.b, c := x.c + y.c, d := x.d + y.d, e := x.e + y.e, f := x.f + y.f, g := x.g + y.g, h := x.h + y.h }

/-- One round, with its constant and its schedule word. -/
def Sha.round (s : Sha) (k w : Word) : Sha :=
  let s1 := s.e.rotateRight 14 ^^^ s.e.rotateRight 18 ^^^ s.e.rotateRight 41
  let t1 := s.h + s1 + ((s.e &&& s.f) ^^^ (~~~s.e &&& s.g)) + k + w
  let s0 := s.a.rotateRight 28 ^^^ s.a.rotateRight 34 ^^^ s.a.rotateRight 39
  let t2 := s0 + ((s.a &&& s.b) ^^^ (s.a &&& s.c) ^^^ (s.b &&& s.c))
  { a := t1 + t2, b := s.a, c := s.b, d := s.c, e := s.d + t1, f := s.e, g := s.f, h := s.g }

/-- The word sixteen places on in the schedule. -/
def shaNext (w : List Word) : Word :=
  let x := w.getD 1 0
  let y := w.getD 14 0
  (y.rotateRight 19 ^^^ y.rotateRight 61 ^^^ y >>> 6) + w.getD 9 0 + (x.rotateRight 1 ^^^ x.rotateRight 8 ^^^ x >>> 7) + w.getD 0 0

/-- The rounds of a block, over the constants left and the next sixteen words of the schedule. -/
def shaRounds : List Word → List Word → Sha → Sha
  | [], _, s => s
  | k :: ks, w, s => shaRounds ks (w.drop 1 ++ [shaNext w]) (s.round k (w.getD 0 0))

/-- A big-endian number of bytes. -/
def beNat (l : List Byte) : Nat := l.foldl (fun n b => 256 * n + b.toNat) 0

/-- The n bytes of a number, the highest first. -/
def beBytes (n x : Nat) : List Byte := (List.range n).map (fun i => BitVec.ofNat 8 (x / 2 ^ (8 * (n - 1 - i))))

/-- Sixteen words of a block. -/
def shaWords (l : List Byte) : List Word := (List.range 16).map (fun i => BitVec.ofNat 64 (beNat ((l.drop (8 * i)).take 8)))

/-- The padded message: a one bit, zeros, the length in bits. -/
def shaPad (l : List Byte) : List Byte :=
  l ++ [0x80#8] ++ List.replicate ((239 - l.length % 128) % 128) 0#8 ++ beBytes 16 (8 * l.length)

/-- The blocks of a message in turn. -/
def shaBlocks : Nat → List Byte → Sha → Sha
  | 0, _, s => s
  | n + 1, l, s => shaBlocks n (l.drop 128) (s.add (shaRounds shaK (shaWords l) s))

/-- The SHA-384 digest, as a number of 384 bits. Log 88 (PRESUMED, unsafe). -/
def sha384 (l : List Byte) : Nat :=
  let p := shaPad l
  let s := shaBlocks (p.length / 128) p Sha.init
  [s.a, s.b, s.c, s.d, s.e, s.f].foldl (fun n (w : Word) => 2 ^ 64 * n + w.toNat) 0

/-! ### ECDSA on P-384 -/

/-- The field's prime, the curve's b and the order of its base point. -/
def ecP : Nat := 0xFFFFFFFFFFFFFFFFFFFFFFFFFFFFFFFFFFFFFFFFFFFFFFFFFFFFFFFFFFFFFFFEFFFFFFFF0000000000000000FFFFFFFF
def ecB : Nat := 0xB3312FA7E23EE7E4988E056BE3F82D19181D9C6EFE8141120314088F5013875AC656398D8A2ED19D2A85C8EDD3EC2AEF
def ecN : Nat := 0xFFFFFFFFFFFFFFFFFFFFFFFFFFFFFFFFFFFFFFFFFFFFFFFFC7634D81F4372DDF581A0DB248B0A77AECEC196ACCC52973

/-- A point in Jacobian coordinates over the field; z = 0 is the point at infinity. -/
structure EcPt where
  x : Nat
  y : Nat
  z : Nat
  deriving DecidableEq, Repr

def EcPt.base : EcPt :=
  { x := 0xAA87CA22BE8B05378EB1C71EF320AD746E1D3B628BA79B9859F741E082542A385502F25DBF55296C3A545E3872760AB7
    y := 0x3617DE4A96262C6F5D9E98BF9292DC29F8F41DBD289A147CE9DA3113B5F0B8C00A60B1CE1D7E819D7A431D7C90EA0E5F
    z := 1 }

def EcPt.zero : EcPt := { x := 1, y := 1, z := 0 }

/-- Difference and product in the field. -/
def fsub (a b : Nat) : Nat := (a + (ecP - b % ecP)) % ecP
def fmul (a b : Nat) : Nat := a * b % ecP

def EcPt.double (q : EcPt) : EcPt :=
  let d := fmul q.z q.z
  let g := fmul q.y q.y
  let b := fmul q.x g
  let a := fmul 3 (fmul (fsub q.x d) (q.x + d))
  let x := fsub (fmul a a) (8 * b)
  { x := x, y := fsub (fmul a (fsub (4 * b) x)) (8 * fmul g g), z := fmul 2 (fmul q.y q.z) }

def EcPt.add (p q : EcPt) : EcPt :=
  if p.z = 0 then q
  else if q.z = 0 then p
  else
    let pz := fmul p.z p.z
    let qz := fmul q.z q.z
    let u := fmul p.x qz
    let s := fmul p.y (fmul q.z qz)
    let h := fsub (fmul q.x pz) u
    let r := fsub (fmul q.y (fmul p.z pz)) s
    if h = 0 then (if r = 0 then p.double else EcPt.zero)
    else
      let hh := fmul h h
      let hhh := fmul h hh
      let v := fmul u hh
      let x := fsub (fmul r r) (hhh + 2 * v)
      { x := x, y := fsub (fmul r (fsub v x)) (fmul s hhh), z := fmul h (fmul p.z q.z) }

/-- k times a point, over the low n bits of k. -/
def EcPt.times : Nat → Nat → EcPt → EcPt
  | 0, _, _ => EcPt.zero
  | n + 1, k, q =>
    if k = 0 then EcPt.zero
    else
      let r := (EcPt.times n (k / 2) q).double
      if k % 2 = 1 then r.add q else r

/-- b to the power e modulo m, over the low n bits of e. -/
def powMod (m b : Nat) : Nat → Nat → Nat
  | 0, _ => 1
  | n + 1, e =>
    let r := powMod m b n (e / 2)
    if e % 2 = 1 then r * r % m * b % m else r * r % m

/-- The bytes of a public key: its two coordinates, 48 bytes each. Log 88 (PRESUMED, unsafe). -/
def keyBytes (k : PubKey) : List Byte := beBytes 48 k.x ++ beBytes 48 k.y

/-- A point of the curve. -/
def onCurve (k : PubKey) : Bool :=
  decide (k.x < ecP) && decide (k.y < ecP) && decide (k.y * k.y % ecP = (fmul k.x (fmul k.x k.x) + fsub ecB (3 * k.x)) % ecP)

/-- Whether a signature over bytes verifies with a key (R10). Log 88 (PRESUMED, unsafe). -/
def verifies (k : PubKey) (bytes : List Byte) (g : Sig) : Bool :=
  if !onCurve k || decide (g.r = 0) || decide (ecN ≤ g.r) || decide (g.s = 0) || decide (ecN ≤ g.s) then false
  else
    let w := powMod ecN g.s 384 (ecN - 2)
    let q := (EcPt.base.times 384 (sha384 bytes * w % ecN)).add (EcPt.times 384 (g.r * w % ecN) { x := k.x, y := k.y, z := 1 })
    let zz := fmul q.z q.z
    decide (q.z ≠ 0) && (decide (fmul g.r zz = q.x) || (decide (g.r + ecN < ecP) && decide (fmul (g.r + ecN) zz = q.x)))

end Sys2Proof.Machine
end

