-- ==== Sys2Proof/Machine/VecQueue.lean ====
section
/-! DEFINITION. The vector instruction queue: the entry that issues next, repeat frames, completion, replay and mirror
mismatches (R85, R112, R172, R206 to R216, R222, R243 to R245, R272, R273). -/

namespace Sys2Proof.Machine

/-! ### What ends a `wfe` (R165) -/

/-- The team's full granules not full before. -/
def newFull (old new : List (Nat × Bool)) (lo hi : Nat) : Bool :=
  new.any (fun g => g.2 && decide (lo ≤ g.1 * 16) && decide (g.1 * 16 < hi) && !look false old g.1)

/-- Wakes every slot in whose allocation a full/empty bit has been set since `old` (R165). -/
def State.wakeFe (s old : State) : State :=
  { s with teams := s.teams.map (fun e =>
      let lo := lmKey (coreOf e.1) e.2.lmBase
      if e.2.wake = some false ∧ newFull old.ms.fe s.ms.fe lo (lo + e.2.lmSize) then (e.1, e.2.wakeUp) else e) }

/-! ### Which slots execute -/

/-- Whether the slot's engines run. -/
def Team.runs (t : Team) : Bool :=
  match t.status with
  | .running | .exiting | .forwarded | .escalating => true
  | _ => false

/-- An entry older than `no` carries a fault, so nothing younger issues (R152). -/
def Team.faultBefore (t : Team) (no : Nat) : Bool := t.q.all.any (fun e => e.fault.isSome && decide (e.no ≤ no))

/-! ### Poisoned registers (R172, R393) -/

/-- The mask field of a compute syllable, 0 where it has none. -/
def vopMask : VOp → Nat
  | .int _ o | .cmp _ o | .merge o | .fp2 _ o => o.m.toNat
  | .fma _ _ o | .gath o | .scat o | .ppmul _ o => o.m.toNat
  | .fp1 _ o | .cls o | .compress o | .expand o | .mv o | .red _ _ o => o.m.toNat
  | .cvt o | .slide _ o => o.m.toNat
  | .kop _ o => o.m.toNat
  | .bcast _ m | .ins _ m | .vid _ m | .ppmvV _ _ m | .ppmvP _ _ m => m.toNat
  | .mem o => vmMask o
  | _ => 0

/-- Whether element i of a result reads element i of its sources and no other. -/
def vopElementwise : VOp → Bool
  | .int _ _ | .cmp _ _ | .merge _ | .fp2 _ _ | .fma _ _ _ | .fp1 _ _ | .cls _ | .mv _ | .ppmul _ _ | .ppmvP _ _ _ | .mem _ => true
  | _ => false

/-- The 64-byte block of a register that holds element i. -/
def blockOf (w i : Nat) : Nat := i * w / 512

/-- The first element from `start` on whose sources lie in a poisoned block; for an operation that reads across elements,
`start` when any live block it reads is poisoned. Log 22 (DEDUCED, unsafe). -/
def poisonAt (v : VecState) (op : VOp) (e : QEntry) : Option Nat :=
  if v.vPoison.isEmpty then none
  else
    let bad := fun (i : Nat) => (VOp.reads op).any (fun r => v.vPoison.contains (r * 128 + blockOf e.w i))
    if vopElementwise op then
      ((List.range (VOp.count op e.gl - e.start)).map (e.start + ·)).find? (fun i => v.mask (vopMask op) i && bad i)
    else if (List.range e.gl).any bad then some e.start
    else none

/-! ### Performing one syllable -/

/-- UE_CONSUMED of storage that has no address (R155). -/
def ueNoAddr : TrapInfo := { cause := .ueConsumed, tval := 0 }

/-- An entry faults where it stands; what a probe pass has pinned is free (R181). -/
def QEntry.fail (e : QEntry) (i : TrapInfo) : QEntry := { e with fault := some i, probe := none, done := false }

/-- Elements `e.start` to `hi` − 1 of a compute syllable, with its scalar result and completion when these are its last (R215,
R222). -/
def runCompute (s : State) (tk : Nat) (op : VOp) (e : QEntry) (hi : Nat) : State × QEntry :=
  let t := s.team tk
  let whole := decide (e.gl ≤ hi)
  let r := if VOp.isPoly op then polyV op e hi t.vec t.ctl.pflags else computeV op e hi t.vec t.ctl.pflags
  let t := { t with vec := r.vec, ctl := { t.ctl with pflags := r.pf } }
  let t := match r.sc with
    | some x => if whole then t.setReg x.1 x.2 else t
    | none => t
  (s.setTeam tk t, { e with start := hi, fl := e.fl ||| r.fl, run := r.run, done := whole })

/-- Where a V syllable stops of itself: after n more elements (0: all of them), or at its end where it completes once begun
(R215, R272). -/
def vLimit (op : VOp) (e : QEntry) (n : Nat) : Nat :=
  if n = 0 ∨ VOp.atOnce op = true then e.gl else min e.gl (e.start + n)

/-- Performs elements of a V syllable below `hi`, without a look at poison. -/
def runPart (s : State) (tk : Nat) (op : VOp) (e : QEntry) (hi : Nat) : State × QEntry :=
  match op with
  | .mem o => vmRun s tk e o (hi - e.start)
  | _ => runCompute s tk op e hi

/-- Whether a syllable that was to stop at element `el` has come there: on blocked pages, at the first element of a block that
reaches past it (R121). -/
def cameTo (op : VOp) (r : QEntry) (el : Nat) : Bool :=
  r.fault.isNone && (decide (r.start = el) ||
    (match op with
     | .mem (.store sh o) => decide (vmSpace (.store sh o) = 0) && decide (r.start ≤ el)
     | _ => false))

/-- Performs the elements of a V syllable below `el` and leaves it faulting there. -/
def runStop (s : State) (tk : Nat) (op : VOp) (e : QEntry) (el : Nat) (i : TrapInfo) : State × QEntry :=
  if el ≤ e.start then (s, e.fail i)
  else
    let r := runPart s tk op e el
    (r.1, if cameTo op r.2 el then r.2.fail i else r.2)

/-- The first poisoned element of a V syllable below `hi`. -/
def poisonBelow (s : State) (tk : Nat) (op : VOp) (e : QEntry) (hi : Nat) : Option Nat :=
  (poisonAt (s.team tk).vec op e).filter (fun i => decide (i < hi))

/-- Performs at most n more elements of a V syllable (0: all of them), up to the first whose sources are poisoned. -/
def runV (s : State) (tk : Nat) (op : VOp) (e : QEntry) (n : Nat) : State × QEntry :=
  if 0 < e.start ∧ max 1 e.gl ≤ e.start then (s, { e with done := true })
  else
    match poisonBelow s tk op e (vLimit op e n) with
    | some i => runStop s tk op e i ueNoAddr
    | none => runPart s tk op e (vLimit op e n)

/-- An entry completes: its flags reach FFLAGS (R112), and the slot's `wfe` ends (R165). -/
def Team.complete (t : Team) (e : QEntry) : Team := ({ t with ctl := t.ctl.orFlags e.fl } : Team).wakeUp

/-- Whether the flags of an entry wait for its completion; a fault leaves them with the entry. -/
def clearRun (e : QEntry) : QEntry :=
  { e with start := 0, cap := none, probe := none, grans := [], run := none, pfmt := none, fl := 0, done := false, replayed := false,
           remirrored := false, fault := none }

/-! ### One issue -/

def setViq (t : Team) (v : List QEntry) : Team := { t with q := { t.q with viq := v } }

/-- Puts the entry of a number in place. -/
def putEntry (es : List QEntry) (e : QEntry) : List QEntry := es.map (fun x => if x.no = e.no then e else x)

def dropEntry (es : List QEntry) (no : Nat) : List QEntry := es.filter (fun x => x.no ≠ no)

/-- The first grant or width point among the first n places. -/
def firstPoint (es : List QEntry) (n : Nat) : Option QEntry := (es.take n).find? (fun e => !e.counts)

/-- A grant or width point takes effect (R201, R205, R206). -/
def runPoint (s : State) (tk : Nat) (e : QEntry) : State :=
  let t := s.team tk
  if s.vHolds tk (asPend e) then s
  else s.setTeam tk ((setViq t (dropEntry t.q.viq e.no)).actPoint e)

/-- The frame at the queue's head after its captured syllable `q` has been performed as `e` (R244). -/
def frameAfter (t : Team) (h q e : QEntry) (c r : Nat) : Team :=
  if e.done then
    let t := t.complete e
    let h' := if h.idx + 1 = c then { h with idx := 0, pass := h.pass + 1 } else { h with idx := h.idx + 1 }
    let v := putEntry (putEntry t.q.viq (clearRun q)) h'
    if h'.pass < r then setViq t v
    else
      match v with
      | _ :: rest => setViq t ((rest.take (frameLen c rest)).filter (fun x => !x.counts) ++ rest.drop (frameLen c rest))
      | [] => setViq t v
  else setViq t (putEntry t.q.viq { e with op := q.op })

/-- A repeat frame's next captured syllable (R243, R244). The first pass takes each syllable as it comes, later ones follow
the frame's close. Log 86 (DEDUCED, safe). -/
def runFrame (s : State) (tk : Nat) (h : QEntry) (c stride r : Nat) (rest : List QEntry) (n : Nat) : State :=
  let t := s.team tk
  let qs := captured c rest
  if r = 0 then
    if qs.length < c then s else s.setTeam tk (setViq t ((rest.take (frameLen c rest)).filter (fun x => !x.counts) ++ rest.drop (frameLen c rest))).wakeUp
  else
    match (if h.pass = 0 then firstPoint rest (frameLen (h.idx + 1) rest) else none), qs[h.idx]? with
    | some m, _ => runPoint s tk m
    | none, none => s
    | none, some q =>
      let op := VOp.shift (BitVec.ofNat 5 (h.pass * stride)) (vopOf q)
      let p : VPend := { no := if h.pass = 0 then q.no else maxNo qs h.no, e := q, op := op }
      if t.faultBefore q.no || s.vHolds tk p then s
      else
        let x := runV s tk op { q with op := .v op } n
        x.1.setTeam tk (frameAfter (x.1.team tk) h q x.2 c r)

/-- The queue's next entry issues and performs at most n more of its elements, 0 for all. -/
def viqStep (s : State) (tk n : Nat) : State :=
  let t := s.team tk
  match t.q.viq with
  | [] => s
  | h :: rest =>
    match h.op with
    | .v (.trunc _ _) | .v (.setp _ _) => runPoint s tk h
    | .v (.rep c stride r) => runFrame s tk h c stride r rest n
    | .v op =>
      if t.faultBefore h.no || s.vHolds tk (asPend h) then s
      else
        let x := runV s tk op h n
        let t := x.1.team tk
        x.1.setTeam tk
          (if x.2.done then (setViq t (dropEntry t.q.viq h.no)).complete x.2 else setViq t (putEntry t.q.viq x.2))
    | _ => s

/-- The strip a slot issues from: that of its next entry, or with none queued its open one (R213). Log 111 (DESIGN CHOICE,
safe). -/
def Team.issueStrip (t : Team) : Nat :=
  match nthCounting t.q.viq 0 with
  | some e => e.strip
  | none => t.strip

/-- Whether a slot has a V entry ready to issue (R214): its first entry, behind any grant or width points, would be performed. -/
def State.vReady (s : State) (tk : Nat) : Bool :=
  let t := s.team tk
  let v := t.q.viq.dropWhile (fun e => !e.counts)
  let s := s.setTeam tk (setViq t v)
  t.runs && !v.isEmpty && decide (viqStep s tk 0 ≠ s)

/-- R214: once the owner's strip has issued its syllables, the pipes pass to the slot with the smaller virtual time among those
with an entry ready to issue, on a tie to the one that did not own them. -/
def State.passPipes (s : State) (c : Nat) : State :=
  let core := s.ms.core c
  let a := 2 * c + core.owner
  let b := 2 * c + (1 - core.owner)
  let own := s.team a
  let oth := s.team b
  let give := fun (o : Nat) (t : Team) => { s with ms := s.ms.setCore c { core with owner := o, strip := t.issueStrip } }
  if own.runs && decide (own.issueStrip = core.strip) then s
  else if s.vReady b && (!s.vReady a || decide (oth.vt ≤ own.vt)) then give (1 - core.owner) oth
  else if s.vReady a then give core.owner own
  else s

/-- Whether a slot's entries may issue: it owns the pipes, or the owner leaves them idle; a grant or width point takes no
pipe (R206, R214). Log 65 (DEDUCED, safe). -/
def pipesFree (s : State) (tk : Nat) : Bool :=
  decide ((s.ms.core (coreOf tk)).owner = tk % 2) || !s.vReady (otherSlot tk) ||
    (match (s.team tk).q.viq with
     | e :: _ => !e.counts
     | [] => false)

/-- VIQ_ISSUE (R209, R214): up to n elements of the slot's next entry, 0 for all. -/
def execViqIssue (tk n : Nat) (s : State) : Out :=
  if Config.teams ≤ tk then .fault .noSuchUnit
  else if !(s.team tk).runs then .next s
  else
    let s := s.passPipes (coreOf tk)
    if pipesFree s tk then .next ((viqStep s tk n).wakeFe s) else .next s

/-! ### Replay and mirror comparison (R172, R216, R273) -/

/-- The next execution of the queue, with its shifted operation. -/
def viqNext (t : Team) : Option (QEntry × VOp) :=
  match t.q.viq with
  | [] => none
  | h :: rest =>
    match h.op with
    | .v (.rep c stride _) =>
      ((captured c rest)[h.idx]?).map (fun q => (q, VOp.shift (BitVec.ofNat 5 (h.pass * stride)) (vopOf q)))
    | .v (.trunc _ _) | .v (.setp _ _) => none
    | .v op => some (h, op)
    | _ => none

/-- Elements below `el` performed, and the trap of a second error at that element; a poisoned one below it faults first. -/
def failAt (s : State) (tk : Nat) (op : VOp) (e : QEntry) (el : Nat) (i : TrapInfo) : State × QEntry :=
  if el ≤ e.start then (s, e.fail i)
  else
    match op, poisonBelow s tk op e el with
    | .ppinit _ _, _ | .ppdiv _, _ => (s, e.fail { i with tval := 0 })
    | _, some j => runStop s tk op e j ueNoAddr
    | _, none => runStop s tk op e el i

/-- UE_REPLAY (R172, R216, R273): a first error on a syllable replays it and a second one traps; likewise its mirror
mismatches. -/
def execUeReplay (tk el : Nat) (mirror : Bool) (s : State) : Out :=
  if Config.teams ≤ tk then .fault .noSuchUnit
  else
    let t := s.team tk
    if !t.runs || (mirror && !t.bind.prot) then .next s
    else
      match viqNext t with
      | none => .next s
      | some (q, op) =>
        if t.faultBefore q.no || s.vHolds tk { no := q.no, e := q, op := op } || decide (max 1 q.gl ≤ el) then .next s
        else if !(if mirror then q.remirrored else q.replayed) then
          .next (s.setTeam tk (setViq t (putEntry t.q.viq
            { q with replayed := q.replayed || !mirror, remirrored := q.remirrored || mirror })))
        else
          let i : TrapInfo := if mirror then { cause := .mirrorMismatch, tval := BitVec.ofNat 64 el } else ueNoAddr
          let x := failAt s tk op { q with op := .v op } el i
          let t := x.1.team tk
          .next (x.1.setTeam tk (setViq t (putEntry t.q.viq { x.2 with op := q.op })))

end Sys2Proof.Machine
end

