-- ==== Sys2Proof/Machine/Copy.lean ====
section
/-! DEFINITION. The copy engines: a command's beginning, its acquire phase, its units and its release phase (R72, R298
to R313, R326). -/

namespace Sys2Proof.Machine

/-! ### One byte of an engine's access (R310) -/

/-- Whose access it is: a team's, or the stream engine's, which has no local memory; and the stream slot it serves. -/
structure CopyCtx where
  tk   : Option Nat
  k    : Nat
  /-- The command's number, for a team's. -/
  no   : Nat
  asn  : Nat
  root : Nat
  atH  : Bool
  deriving DecidableEq, Repr

/-- Whose translations an engine uses (R180): its core's data TLB, or the hub die's. -/
def CopyCtx.place (c : CopyCtx) : TlbPlace :=
  match c.tk with
  | some tk => .data (coreOf tk)
  | none => .hub

/-- Where a byte of a space lies, or the fault of reaching it. Log 105 (DESIGN CHOICE, unsafe). -/
def copyLoc (s : State) (c : CopyCtx) (k : Acc) (sp a : Nat) : State × Except TrapInfo Loc :=
  if sp = 0 then
    match s.ms.translate c.place c.asn c.root c.atH k (BitVec.ofNat 64 a) with
    | (ms, .error f) => ({ s with ms := ms }, .error (ti f a))
    | (ms, .ok x) => ({ s with ms := ms }, .ok (.g x a))
  else
    match c.tk with
    | none => (s, .error (ti .lmrange a))
    | some tk =>
      match CDesc.home s tk (CDesc.own { sp := sp, dec := false, addr := a } (s.team tk).bind.tidx) with
      | none => (s, .error (ti .lmrange a))
      | some h => if h.2.2 = 0 then (s, .error (ti .lmrange a)) else (s, .ok (.l h.1 h.2.1))

/-- What a destination byte receives: a byte of memory, or a value. -/
inductive CSrc where
  | mem (sp a : Nat)
  | imm (b : Byte)
  deriving DecidableEq, Repr

/-- A source byte, at its home and not through an L1. -/
def copyRead (s : State) (c : CopyCtx) (x : CSrc) : State × Except TrapInfo Byte :=
  match x with
  | .imm b => (s, .ok b)
  | .mem sp a =>
    match copyLoc s c .read sp a with
    | (s, .error f) => (s, .error f)
    | (s, .ok (.g x va)) => if s.ms.poisoned x.pa then (s, .error (ueAt true va)) else (s, .ok (s.ms.byteAt x.pa))
    | (s, .ok (.l core off)) =>
      if s.ms.lmBad core off then (s, .error (ueAt false a)) else (s, .ok (s.ms.lmByte core off))

/-- A unit's whole source, read before it writes (R304). -/
def copyReadAll (c : CopyCtx) : List (CSrc × Nat) → State → State × Except TrapInfo (List (Nat × Byte))
  | [], s => (s, .ok [])
  | x :: r, s =>
    match copyRead s c x.1 with
    | (s, .error f) => (s, .error f)
    | (s, .ok b) =>
      match copyReadAll c r s with
      | (s, .error f) => (s, .error f)
      | (s, .ok l) => (s, .ok ((x.2, b) :: l))

/-- The places a unit writes. -/
def copyPlaces (c : CopyCtx) (sp : Nat) : List (Nat × Byte) → State → State × Except TrapInfo (List (Loc × Nat × Byte))
  | [], s => (s, .ok [])
  | x :: r, s =>
    match copyLoc s c .write sp x.1 with
    | (s, .error f) => (s, .error f)
    | (s, .ok l) =>
      match copyPlaces c sp r s with
      | (s, .error f) => (s, .error f)
      | (s, .ok ls) => (s, .ok ((l, x.1, x.2) :: ls))

/-- Writes a byte; a peer's link has yet to acknowledge it (R401). -/
def copyPut (c : CopyCtx) (s : State) (x : Loc × Nat × Byte) : State :=
  match x.1 with
  | .g xl va =>
    let m := (s.ms.markWrite xl va).homeWrite xl.pa 1 x.2.2.toNat none
    let u : Unack :=
      match c.tk with
      | some tk => { who := .team tk, cmd := some c.no, asn := c.asn, va := va, pa := xl.pa, dead := false }
      | none => { who := .stream c.k, cmd := none, asn := c.asn, va := va, pa := xl.pa, dead := false }
    { s with ms := if isPeer xl.pa then { m with unacked := m.unacked ++ [u] } else m }
  | .l core off => { s with ms := s.ms.lmWrite core off 1 x.2.2.toNat }

/-- The 64-byte blocks of which every byte is listed. -/
def wholeBlocks (as : List Nat) : List Nat :=
  (as.filter (fun a => decide (a % 64 = 0) && (List.range 64).all (fun i => as.contains (a + i)))).map (· / 64)

def locPa : Loc × Nat × Byte → Option Nat
  | (.g x _, _) => some x.pa
  | (.l _ _, _) => none

def locLm : Loc × Nat × Byte → Option Nat
  | (.g _ _, _) => none
  | (.l core off, _) => some (lmKey core off)

/-- A unit's writes: its bytes, the whole blocks of a C syllable's unit rid of their poison (R326), and the full/empty bit of each granule whose
last byte `last` says has come (R52). -/
def copyWrite (s : State) (c : CopyCtx) (sp : Nat) (bs : List (Nat × Byte)) (last : Nat → Bool) :
    State × Option TrapInfo :=
  match copyPlaces c sp bs s with
  | (s, .error f) => (s, some f)
  | (s, .ok ls) =>
    let s := ls.foldl (copyPut c) s
    let ms := if c.tk.isSome then (wholeBlocks (ls.filterMap locPa)).foldl MemSys.unpoison s.ms else s.ms
    let lb := wholeBlocks (ls.filterMap locLm)
    let ms := { ms with lmPoison := ms.lmPoison.filter (fun b => !lb.contains b) }
    let ms := ls.foldl (fun (ms : MemSys) x =>
      match x.1 with
      | .g _ _ => ms
      | .l core off => if last x.2.1 then ms.setFull core off true else ms) ms
    ({ s with ms := ms }, none)

/-! ### The bytes of a unit (R303, R305, R307, R308) -/

/-- Bytes 256u to the end of a run of n bytes, at most 256 of them. -/
def unitBytes (n u : Nat) : List Nat := (List.range (min 256 (n - 256 * u))).map (256 * u + ·)

/-- R303: a plain run. -/
def cpyBytes (x y : CDesc) (n u : Nat) : List (CSrc × Nat) :=
  (unitBytes n u).map (fun b => (.mem y.sp (y.addr + b), x.addr + b))

/-- R305: byte b receives byte b mod 8 of the value. -/
def cfillBytes (x : CDesc) (v : Word) (n u : Nat) : List (CSrc × Nat) :=
  (unitBytes n u).map (fun b => (.imm (BitVec.ofNat 8 (v.toNat / 2 ^ (8 * (b % 8)))), x.addr + b))

/-- R308: the row and the unit within it. -/
def rowUnit (z : Word) (u : Nat) : Nat × Nat :=
  let per := (rowSize z + 255) / 256
  (u / per, u % per)

/-- R308: a row entry that names no row. -/
def rowEntryBad (x : Word) : Bool :=
  let d := CDesc.of x
  decide (2 < d.sp) || decide (x.extractLsb' 57 4 ≠ 0#4) ||
  (decide (d.sp = 1) && decide (d.addr / 2 ^ 25 ≠ 0)) || (decide (d.sp = 2) && decide (d.addr / 2 ^ 22 ≠ 0))

/-- R307: one element of a tensor copy. -/
structure TElem where
  dst : Nat
  src : Option Nat
  deriving DecidableEq, Repr

/-- R307: what destination element n receives; none where it is left alone. -/
def tensorElem (x y : Shape) (sl n : Nat) : Option TElem :=
  if n < min y.count x.count then some { dst := x.addr sl n, src := some (y.addr sl n) }
  else if x.zf then some { dst := x.addr sl n, src := none }
  else none

/-- R307: the elements of a unit. -/
def tensorUnit (x y : Shape) (sl u : Nat) : List TElem :=
  let per := 256 / sl
  (List.range (min per (x.count - per * u))).filterMap (fun i => tensorElem x y sl (per * u + i))

/-- R307: the alignment of each element a unit reads, then of each it writes. Log 71 (DEDUCED, unsafe). -/
def tensorAlign (x y : Shape) (sl : Nat) (es : List TElem) : Option TrapInfo :=
  match es.find? (fun e => match e.src with | some a => decide (a % sl ≠ 0) | none => false) with
  | some e => some (ti (alignCause (CDesc.of y.base).sp) (e.src.getD 0))
  | none =>
    match es.find? (fun e => decide (e.dst % sl ≠ 0)) with
    | some e => some (ti (alignCause (CDesc.of x.base).sp) e.dst)
    | none => none

def tensorBytes (y : Shape) (sl : Nat) (es : List TElem) : List (CSrc × Nat) :=
  es.flatMap (fun e => (List.range sl).map (fun i =>
    (match e.src with
     | some a => .mem (CDesc.of y.base).sp (a + i)
     | none => .imm 0#8, e.dst + i)))

/-- R52 for `cpyt`: no element of a later unit writes into the granule. -/
def tensorLast (x y : Shape) (sl u a : Nat) : Bool :=
  let per := 256 / sl
  (List.range (x.count - per * (u + 1))).all (fun i =>
    match tensorElem x y sl (per * (u + 1) + i) with
    | some e => decide (e.dst / 16 ≠ a / 16)
    | none => true)

/-! ### Decoding copies (R309) -/

/-- The bits of n consecutive bytes of `g:`. -/
def copyReadN (c : CopyCtx) (a n : Nat) (s : State) : State × Except TrapInfo Nat :=
  match copyReadAll c ((List.range n).map (fun i => (.mem 0 (a + i), i))) s with
  | (s, .error f) => (s, .error f)
  | (s, .ok l) => (s, .ok (readLE (fun i => (l.getD i (0, 0#8)).2) 0 n))

/-- Element j of the source: its page checked, its bits and its block's scale read, converted to the captured format. -/
def decElem (s : State) (c : CopyCtx) (v : VecState) (e : QEntry) (src fmt j : Nat) :
    State × Except TrapInfo (Nat × Flags) :=
  let ef := efFmt (fmt % 16)
  let me := ef.width
  let bit := 8 * src + j * me
  let va := bit / 8
  match s.ms.translate c.place c.asn c.root c.atH .read (BitVec.ofNat 64 va) with
  | (ms, .error f) => ({ s with ms := ms }, .error (ti f va))
  | (ms, .ok x) =>
    let s := { s with ms := ms }
    if pageEF x.ent.leaf = 0 ∨ pageFmt x.ent.leaf ≠ fmt ∨ inScaleArea x.ent va then (s, .error (ti .format va))
    else
      match copyReadN c va (meBytes me) s with
      | (s, .error f) => (s, .error f)
      | (s, .ok raw) =>
        let ctx : VmCtx := { tk := 0, o := .gl { d := 0, a := 0, b := 0, o := true, c := 0, v := false, m := 0 }, e := { e with seb := 0 }, me := me, fmt := fmt }
        let d := pickBits me bit raw
        let blk := pageBlk x.ent.leaf
        if blk = 0 then (s, .ok (decodeElem ctx v d none j))
        else
          let sa := va - va % x.ent.size + 7 * (x.ent.size / 8) + pagePos x bit me / blk
          match copyReadN c sa 1 s with
          | (s, .error f) => (s, .error f)
          | (s, .ok b) => (s, .ok (decodeElem ctx v d (some b) j))

/-- Destination elements from j on, k of them. -/
def decElems (c : CopyCtx) (v : VecState) (e : QEntry) (src dst fmt : Nat) :
    Nat → Nat → State → State × Except TrapInfo (List (Nat × Byte) × Flags)
  | 0, _, s => (s, .ok ([], 0))
  | k + 1, j, s =>
    match decElem s c v e src fmt j with
    | (s, .error f) => (s, .error f)
    | (s, .ok x) =>
      match decElems c v e src dst fmt k (j + 1) s with
      | (s, .error f) => (s, .error f)
      | (s, .ok r) =>
        let n := e.w / 8
        (s, .ok ((leBytes (dst + j * n) n x.1) ++ r.1, x.2 ||| r.2))

/-! ### Commands of a slot -/

def Team.cq (t : Team) (eng : Nat) : List QEntry := if eng = 0 then t.q.cq0 else t.q.cq1

def Team.setCq (t : Team) (eng : Nat) (es : List QEntry) : Team :=
  if eng = 0 then { t with q := { t.q with cq0 := es } } else { t with q := { t.q with cq1 := es } }

def Team.copyCtx (t : Team) (tk : Nat) (e : QEntry) : CopyCtx :=
  { tk := some tk, k := t.bind.slot, no := e.no, asn := t.bind.asn, root := t.bind.root, atH := e.hl }

/-- Puts a changed entry back into its queue. -/
def State.putC (s : State) (tk eng : Nat) (e : QEntry) : State :=
  let t := s.team tk
  s.setTeam tk (t.setCq eng (putEntry (t.cq eng) e))

def State.faultC (s : State) (tk eng : Nat) (e : QEntry) (f : TrapInfo) : State := s.putC tk eng { e with fault := some f }

/-- Commands of an engine in progress over both slots (R298), those of a queue image counted that their units go on with. -/
def inProgress (s : State) (tk eng : Nat) : Nat :=
  let saved := fun (t : Team) => match t.image with | some q => (if eng = 0 then q.cq0 else q.cq1) | none => []
  let n := fun (k : Nat) =>
    (((s.team k).cq eng).filter (fun e => decide (e.idx = 1) || e.handedOver)).length + ((saved (s.team k)).filter QEntry.handedOver).length
  n tk + n (otherSlot tk)

/-- Whether a command has not begun, though nothing but its engine keeps it. -/
def Team.unbegun (t : Team) (e : QEntry) : Bool :=
  t.runs && decide (e.idx = 0) && decide ((copOf e).kind ≠ .cfence) && !t.faultBefore e.no

/-- Whether the command at place i of its slot's queue may begin: those before it in the engine's queue have, and fewer than four
are in progress (R298). -/
def mayBegin (s : State) (tk eng i : Nat) (e : QEntry) : Bool :=
  let t := s.team tk
  let o := s.team (otherSlot tk)
  ((t.cq eng).take i).all (fun x => decide (x.idx = 1) || decide ((copOf x).kind = .cfence)) &&
  !(o.cq eng).any (fun x => decide (x.ceNo < e.ceNo) && o.unbegun x) &&
  decide (inProgress s tk eng < 4) && !t.faultBefore e.no

/-- Whether the command at place i of a slot's queue may acquire, read and write: no fault stands before it, no `cfence` (R313) and
no release (R67 to R70). -/
def Team.cFree (t : Team) (eng i : Nat) (e : QEntry) : Bool :=
  !t.faultBefore e.no && !((t.cq eng).take i).any (fun x => decide ((copOf x).kind = .cfence)) && !t.relWaits e.no

/-- Units of any command whose number is known before its first (R315). -/
def cLength (o : COp) (e : QEntry) : Option Nat :=
  match o.kind with
  | .cnm | .cnmAll => some 1
  | .cpyt => e.cap.map (fun c => copyUnits .cpyt (some c) e.z)
  | k => some (copyUnits k e.cap e.z)

/-- Whether a handler has left CP at or above the command's length: the rest of it is skipped (R163). -/
def cSkipped (o : COp) (e : QEntry) : Bool :=
  decide (0 < e.start) && (match cLength o e with | some n => decide (n ≤ e.start) | none => false)

/-- A shape record whose base is no descriptor (R300, R307). Log 71 (DEDUCED, unsafe). -/
def shapeBaseBad (x : Shape) : Bool := cdescBad x.base false true

/-- R315: an address of a `cnm`: alignment, range, translation. -/
def cnmAddr (s : State) (tk : Nat) (e : QEntry) (k : Acc) (x : Word) (n : Nat) : State × Option TrapInfo :=
  match extentFault s tk x n n with
  | some f => (s, some f)
  | none =>
    match copyLoc s ((s.team tk).copyCtx tk e) k (CDesc.of x).sp (CDesc.of x).addr with
    | (s, .error f) => (s, some f)
    | (s, .ok _) => (s, none)

/-- R315: a `cnm`'s command address, then its record's. Log 28 (DEDUCED, safe). -/
def cnmCheck (s : State) (tk : Nat) (e : QEntry) : State × Option TrapInfo :=
  match cnmAddr s tk e .read e.y 64 with
  | (s, some f) => (s, some f)
  | (s, none) => cnmAddr s tk e .write e.x 16

/-- `cpyt` reads its shape records, once no older V syllable is to write them (R307). -/
def captureC (s : State) (tk eng : Nat) (e : QEntry) : State :=
  let t := s.team tk
  let o := copOf e
  let ps := t.vPend
  if pendWrites ps e.no o.d.toNat || pendWrites ps e.no o.a.toNat then s
  else
    let cap := captureShapes e o.d o.a t.vec
    let e' := { e with cap := some cap }
    -- each record lies in the first block of its register (R254, R393)
    if decide (e.gl * e.w ≠ 0) && [o.d, o.a].any (fun r => t.vec.vPoison.contains (r.toNat * 128)) then s.faultC tk eng e ueNoAddr
    else
    if cSkipped o e' then s.putC tk eng { e' with acq := true }
    else if shapeBaseBad (Shape.of cap 0) || shapeBaseBad (Shape.of cap 16) then
      s.faultC tk eng e { cause := .illegal, tval := e.word.setWidth 64 }
    else s.putC tk eng e'

/-- A command begins: its extent is checked (R310, R315). Log 23 (DEDUCED, safe). -/
def beginC (s : State) (tk eng i : Nat) (e : QEntry) : State :=
  let o := copOf e
  if !mayBegin s tk eng i e then s
  else if cSkipped o e then s.putC tk eng { e with idx := 1, acq := true }
  else
    match o.kind with
    | .cpyt => s.putC tk eng { e with idx := 1 }
    | _ =>
      match copyExtentFault s tk o.kind e.vtype e.x e.y e.z with
      | some f => s.faultC tk eng e f
      | none =>
        if o.kind = .cnm ∨ o.kind = .cnmAll then
          match cnmCheck s tk e with
          | (s, some f) => s.faultC tk eng e f
          | (s, none) => s.putC tk eng { e with idx := 1 }
        else s.putC tk eng { e with idx := 1 }

/-! ### The phases of R72 -/

def knotAddr (x : Word) : Nat := x.toNat % 2 ^ 57 / 16 * 16
def knotNum (x : Word) : Nat := x.toNat / 2 ^ 57

/-- A knot of CKA or CKR as an engine reaches it: translation, page format (R121), host or peer memory, poison (R393). -/
def engineKnot (s : State) (c : CopyCtx) (k : Acc) (a : Nat) : State × Except TrapInfo Xlat :=
  match s.ms.translate c.place c.asn c.root c.atH k (BitVec.ofNat 64 a) with
  | (ms, .error f) => ({ s with ms := ms }, .error (ti f a))
  | (ms, .ok x) =>
    let s := { s with ms := ms }
    if inScaleArea x.ent a then (s, .error (ti .format a))
    else if isHostOrPeer x.pa then (s, .error (ti .protection a))
    else if ms.poisoned x.pa then (s, .error (ueAt true a))
    else (s, .ok x)

/-- A store of the team to `g:` older than issue number `no` is still queued. -/
def Team.gStoreBefore (t : Team) (no : Nat) : Bool :=
  t.vPend.any (fun p => decide (p.no < no) && (match p.op with | .mem o => vmWrites o && decide (vmSpace o = 0) | _ => false))

/-- The acquire phase of a command that has begun: earlier stores at their homes, then the knot's threshold. -/
def acquireC (s : State) (tk eng : Nat) (e : QEntry) : State :=
  let t := s.team tk
  if t.gStoreBefore e.no then s
  else
    let s := { s with ms := s.ms.cleanLines (coreOf tk) (fun l => (lostAddr s.ms l).isNone) }
    if knotAddr e.cka = 0 then s.putC tk eng { e with acq := true }
    else
      match engineKnot s (t.copyCtx tk e) .read (knotAddr e.cka) with
      | (s, .error f) => s.faultC tk eng e f
      | (s, .ok x) => if knotCount s x.pa < knotNum e.cka then s else s.putC tk eng { e with acq := true }

/-- The release phase: the increment added to the knot of the latched CKR. -/
def releaseAt (s : State) (c : CopyCtx) (ckr : Word) : State × Option TrapInfo :=
  if knotAddr ckr = 0 then (s, none)
  else
    match engineKnot s c .write (knotAddr ckr) with
    | (s, .error f) => (s, some f)
    | (s, .ok x) => (({ s with ms := s.ms.markWrite x (knotAddr ckr) } : State).knotAdd x.pa (knotNum ckr), none)

/-- Takes a completed command out of the slot's queue or of its saved image. -/
def Team.dropC (t : Team) (e : QEntry) : Team :=
  let f := fun (q : Queues) => { q with cq0 := dropEntry q.cq0 e.no, cq1 := dropEntry q.cq1 e.no }
  ({ t with q := f t.q, image := t.image.map f } : Team).complete e

/-- After the last unit, once the command's writes are performed at its scope (R74): the release phase where it has one,
then completion (R72, R309, R401). Log 23 (DEDUCED, safe). Log 103 (DESIGN CHOICE, unsafe). -/
def finishC (s : State) (tk eng : Nat) (e : QEntry) : State :=
  let t := s.team tk
  let mine := fun (u : Unack) => decide (u.who = .team tk) && decide (u.cmd = some e.no)
  match s.ackWait (copOf e).scope mine with
  | .waits => s
  | .lost a => (s.reported mine).faultC tk eng e (ti .pageStore a)
  | .done =>
    if (copOf e).sync.getLsbD 1 then
      match releaseAt s (t.copyCtx tk e) e.ckr with
      | (s, some f) => s.faultC tk eng e f
      | (s, none) => s.setTeam tk ((s.team tk).dropC e)
    else s.setTeam tk (t.dropC e)

/-! ### Units -/

/-- A slot's virtual time on an engine (R299). -/
def Team.cvt (t : Team) (eng : Nat) : Nat := if eng = 0 then t.cvt0 else t.cvt1

/-- Whether a slot has a unit of an engine ready. -/
def unitReady (s : State) (tk eng : Nat) : Bool :=
  let t := s.team tk
  t.runs && (t.cq eng).zipIdx.any (fun x =>
    let o := copOf x.1
    (decide (o.kind = .cpy) || decide (o.kind = .cfill) || decide (o.kind = .cgath) || (decide (o.kind = .cpyt) && x.1.cap.isSome)) &&
    decide (x.1.idx = 1) && t.cFree eng x.2 x.1 && (x.1.acq || !o.sync.getLsbD 0) && !t.lmWaits x.1.no (cTouch t x.1))

/-- Whether an engine's next unit is the slot's: the other has none ready, or a larger virtual time, or on a tie was served
last (R214, R299). Log 65 (DEDUCED, safe). -/
def mayServe (s : State) (tk eng : Nat) : Bool :=
  let t := s.team tk
  let o := s.team (otherSlot tk)
  let core := s.ms.core (coreOf tk)
  !unitReady s (otherSlot tk) eng || decide (t.cvt eng < o.cvt eng) ||
    (decide (t.cvt eng = o.cvt eng) && decide ((if eng = 0 then core.cOwner0 else core.cOwner1) ≠ tk % 2))

/-- R299: a unit is charged by its bytes. -/
def chargeUnit (s : State) (tk eng n : Nat) : State :=
  let t := s.team tk
  let w := clsWeight t.bind.cls
  let t := if eng = 0 then { t with cvt0 := (t.cvt0 + 8 * n / w) % 2 ^ 64 } else { t with cvt1 := (t.cvt1 + 8 * n / w) % 2 ^ 64 }
  let core := s.ms.core (coreOf tk)
  let core := if eng = 0 then { core with cOwner0 := tk % 2 } else { core with cOwner1 := tk % 2 }
  { s.setTeam tk t with ms := s.ms.setCore (coreOf tk) core }

/-- The unit at CP has written; the next one follows. -/
def nextUnit (s : State) (tk eng n : Nat) (e : QEntry) : State :=
  let s := (chargeUnit s tk eng n).putC tk eng { e with start := e.start + 1 }
  if copyUnits (copOf e).kind e.cap e.z ≤ e.start + 1 then finishC s tk eng { e with start := e.start + 1 } else s

/-- Reads a unit's source and writes it, whole: granules of two units never mix (R73). Log 87 (DESIGN CHOICE, unsafe). -/
def moveUnit (s : State) (tk eng : Nat) (e : QEntry) (sp : Nat) (bs : List (CSrc × Nat)) (last : Nat → Bool) : State :=
  let c := (s.team tk).copyCtx tk e
  match copyReadAll c bs s with
  | (s, .error f) => s.faultC tk eng e f
  | (s, .ok out) =>
    match copyWrite s c sp out last with
    | (s, some f) => s.faultC tk eng e f
    | (s, none) => nextUnit s tk eng bs.length e

/-- R309: a unit of a decoding copy; the page of element 0 gives the format. -/
def decUnit (s : State) (tk eng : Nat) (e : QEntry) : State :=
  let t := s.team tk
  let c := t.copyCtx tk e
  let x := CDesc.of e.x
  let y := CDesc.of e.y
  let f : State × Except TrapInfo Nat :=
    match e.cap with
    | some k => (s, .ok k.toNat)
    | none =>
      match s.ms.translate c.place c.asn c.root c.atH .read (BitVec.ofNat 64 y.addr) with
      | (ms, .error g) => ({ s with ms := ms }, .error (ti g y.addr))
      | (ms, .ok xl) => ({ s with ms := ms }, .ok (pageFmt xl.ent.leaf))
  match f with
  | (s, .error g) => s.faultC tk eng e g
  | (s, .ok fmt) =>
    let n := min 256 (e.z.toNat - 256 * e.start)
    let w := e.w / 8
    match decElems c t.vec e y.addr x.addr fmt (n / w) (256 * e.start / w) s with
    | (s, .error g) => s.faultC tk eng e g
    | (s, .ok out) =>
      match copyWrite s c x.sp out.1 (fun _ => true) with
      | (s, some g) => s.faultC tk eng e g
      | (s, none) => nextUnit s tk eng n { e with cap := some (BitVec.ofNat 65536 fmt), fl := e.fl ||| out.2 }

/-- R308: the next unit of a row copy; the row's entry is read when the engine reaches the row. -/
def gathUnit (s : State) (tk eng : Nat) (e : QEntry) : State :=
  let c := (s.team tk).copyCtx tk e
  let x := CDesc.of e.x
  let y := CDesc.of e.y
  let ru := rowUnit e.z e.start
  let known := match e.cap with
    | some k => if k.toNat / 2 ^ 64 = ru.1 + 1 then some (k.toNat % 2 ^ 64) else none
    | none => none
  let ent : State × Except TrapInfo Nat :=
    match known with
    | some v => (s, .ok v)
    | none =>
      match copyReadAll c ((List.range 8).map (fun i => (.mem y.sp (y.addr + 8 * ru.1 + i), i))) s with
      | (s, .error f) => (s, .error f)
      | (s, .ok l) => (s, .ok (readLE (fun i => (l.getD i (0, 0#8)).2) 0 8))
  match ent with
  | (s, .error f) => s.faultC tk eng e f
  | (s, .ok v) =>
    let d := CDesc.of (BitVec.ofNat 64 v)
    if rowEntryBad (BitVec.ofNat 64 v) then s.faultC tk eng e (ti .pageLoad v)
    else
      let e := { e with cap := some (BitVec.ofNat 65536 ((ru.1 + 1) * 2 ^ 64 + v)) }
      moveUnit s tk eng e x.sp (cpyBytes { x with addr := x.addr + ru.1 * rowSize e.z } d (rowSize e.z) ru.2)
        (fun _ => true)

/-- R307. -/
def tensorStep (s : State) (tk eng : Nat) (e : QEntry) : State :=
  let cap := e.cap.getD 0#65536
  let x := Shape.of cap 0
  let y := Shape.of cap 16
  let sl := e.z.toNat
  let es := tensorUnit x y sl e.start
  match tensorAlign x y sl es with
  | some f => s.faultC tk eng e f
  | none => moveUnit s tk eng e (CDesc.of x.base).sp (tensorBytes y sl es) (tensorLast x y sl e.start)

/-- The next unit of a command that has begun and acquired, if it is the slot's turn. -/
def unitC (s : State) (tk eng : Nat) (e : QEntry) : State :=
  let o := copOf e
  if (s.team tk).lmWaits e.no (cTouch (s.team tk) e) || !mayServe s tk eng then s
  else if copyUnits o.kind e.cap e.z ≤ e.start then finishC s tk eng e
  else
    match o.kind with
    | .cpy =>
      if (CDesc.of e.y).dec then decUnit s tk eng e
      else moveUnit s tk eng e (CDesc.of e.x).sp (cpyBytes (CDesc.of e.x) (CDesc.of e.y) e.z.toNat e.start) (fun _ => true)
    | .cfill => moveUnit s tk eng e (CDesc.of e.x).sp (cfillBytes (CDesc.of e.x) e.y e.z.toNat e.start) (fun _ => true)
    | .cpyt => tensorStep s tk eng e
    | .cgath => gathUnit s tk eng e
    | _ => s

end Sys2Proof.Machine
end

