-- ==== Sys2Proof/Machine/Nmu.lean ====
section
/-! DEFINITION. Near-memory units: taking a command, its runs, its elements and its completion record (R56, R99, R100,
R314 to R324). -/

namespace Sys2Proof.Machine

/-! ### Commands (R99, R318) -/

/-- The opcode and fields of a near-memory instruction. -/
def nmParts : Instr → Nat × NmCmd
  | .nmFill c => (1, c) | .nmCopy c => (2, c) | .nmScale c => (3, c) | .nmAxpy c => (4, c) | .nmSgdwd c => (5, c)
  | .nmMomentum c => (6, c) | .nmAdamw c => (7, c) | .nmSumsq c => (8, c) | .nmCast c => (9, c)
  | _ => (0, nmFields 0#512)

def fmtOf (c : BitVec 5) : Option Fmt :=
  match Fmt.ofCode c.toNat with
  | some f => if f.isReg then some f else none
  | none => none

/-- R318: the formats an opcode accepts, and the rounding code. -/
def nmFormatsOk (op : Nat) (c : NmCmd) : Bool :=
  let fp := fun (x : BitVec 5) => match fmtOf x with | some f => f.isFp | none => false
  let reg := fun (x : BitVec 5) => (fmtOf x).isSome
  (RMode.ofCode c.rm.toNat).isSome &&
  (match op with
   | 1 => (match fmtOf c.w with | some f => decide (8 ≤ f.width) && decide (f.width ≤ 32) | none => false) && decide (c.g = 0#5)
   | 2 => reg c.w && decide (c.g = c.w)
   | 3 | 4 | 5 | 6 | 7 => fp c.w && fp c.g
   | 8 => decide (c.w = 0#5) && fp c.g
   | 9 => reg c.w && reg c.g
   | _ => false)

/-- An operand of a command. -/
inductive NmRole where
  | w | g | m | v
  deriving DecidableEq, Repr

/-- R319: what each opcode reads and writes, the writes as R177's second column. -/
def nmRoles (op : Nat) : List (NmRole × Acc) :=
  match op with
  | 1 => [(.w, .write)]
  | 2 | 3 | 9 => [(.w, .write), (.g, .read)]
  | 4 | 5 => [(.w, .write), (.g, .read)]
  | 6 => [(.w, .write), (.g, .read), (.m, .write)]
  | 7 => [(.w, .write), (.g, .read), (.m, .write), (.v, .write)]
  | 8 => [(.g, .read)]
  | _ => []

/-- Whether an opcode reads an operand. -/
def nmReads (op : Nat) (r : NmRole) : Bool :=
  match r with
  | .w => decide (op = 4) || decide (op = 5) || decide (op = 6) || decide (op = 7)
  | .g => decide (op ≠ 1)
  | .m => decide (op = 6) || decide (op = 7)
  | .v => decide (op = 7)

/-- Bytes of an operand's element. -/
def nmSize (c : NmCmd) (r : NmRole) : Nat :=
  match r with
  | .w => ((Fmt.ofCode c.w.toNat).getD .f32).width / 8
  | .g => ((Fmt.ofCode c.g.toNat).getD .f32).width / 8
  | _ => 4

def nmBase (c : NmCmd) (r : NmRole) : Nat :=
  match r with
  | .w => c.dst.toNat
  | .g => c.src.toNat
  | .m => c.aux1.toNat
  | .v => c.aux2.toNat

/-- An element's address, modulo 2^64. -/
def nmAddr (c : NmCmd) (r : NmRole) (j : Nat) : Nat := (nmBase c r + j * nmSize c r) % 2 ^ 64

/-- R314: the operand whose address owns an element. -/
def nmOwner (op : Nat) : NmRole := if op = 8 then .g else .w

/-- R321. -/
def causeStatus : Cause → Nat
  | .pageLoad => 3 | .pageStore => 4 | .format => 8 | .ueConsumed => 1 | .misalign => 6 | _ => 5

/-- R317: translation, permission and region of one address. -/
def nmXlat (s : State) (j : NmJob) (k : Acc) (a : Nat) : State × Except Nat Xlat :=
  match s.ms.translate .hub j.asn j.root j.atH k (BitVec.ofNat 64 a) with
  | (ms, .error c) => ({ s with ms := ms }, .error (causeStatus c))
  | (ms, .ok x) => ({ s with ms := ms }, if regionOf x.pa = 0 then .ok x else .error 7)

/-- R314: the stack that takes the element at a virtual address. -/
def nmStack (s : State) (j : NmJob) (a : Nat) : Nat :=
  let own := a / 4096 % 12
  if 2 ^ 57 ≤ a then own
  else
    match (s.ms.lookup .hub j.asn j.root a).2 with
    | .error _ => own
    | .ok e => if s.ms.isPop (leafPa e a) && decide (regionOf (leafPa e a) = 0) then stackOf (leafPa e a) else own

/-! ### Arithmetic (R319) -/

/-- An exact value with the flags met on the way. -/
abbrev NmVal := FVal × Flags

def nmMul (a b : NmVal) : NmVal := let p := a.1.mul b.1; (p.1, a.2 ||| b.2 ||| p.2)
def nmAdd (a b : NmVal) (r : RMode) : NmVal := let p := a.1.add b.1 r; (p.1, a.2 ||| b.2 ||| p.2)
def nmSub (a b : NmVal) (r : RMode) : NmVal := nmAdd a (b.1.neg, b.2) r

def rne : Rnd := { mode := .rne, seed := 0, g := 0 }

/-- round_f32: the bits, the value they stand for, the flags. -/
def nmF32 (v : NmVal) : Nat × NmVal :=
  let e := ffF32.encode v.1 rne
  (e.1, (ffF32.decode e.1, v.2 ||| e.2))

/-- The outputs of element j from its inputs, with its flags; for NM_SUMSQ the sum goes on. -/
def nmCompute (op : Nat) (c : NmCmd) (j : Nat) (x : NmRole → Nat) (sum : Terms) : List (NmRole × Nat) × Flags × Terms :=
  let rm := (RMode.ofCode c.rm.toNat).getD .rne
  let rnd : Rnd := { mode := rm, seed := c.k0.setWidth 64, g := BitVec.ofNat 64 j }
  let W := (Fmt.ofCode c.w.toNat).getD .f32
  let G := (Fmt.ofCode c.g.toNat).getD .f32
  let k := fun (b : BitVec 32) => ((ffF32.decode b.toNat, 0) : NmVal)
  let w : NmVal := (W.val (x .w), 0)
  let g : NmVal := (G.val (x .g), 0)
  let m : NmVal := (ffF32.decode (x .m), 0)
  let v : NmVal := (ffF32.decode (x .v), 0)
  let one : NmVal := (FVal.ofInt 1, 0)
  let putW := fun (y : NmVal) => let e := W.enc y.1 rnd; ([(NmRole.w, e.1)], y.2 ||| e.2, sum)
  match op with
  | 1 => ([(.w, c.k0.toNat % 2 ^ W.width)], 0, sum)
  | 2 => ([(.w, x .g)], 0, sum)
  | 3 => putW (nmMul (k c.k0) g)
  | 4 => putW (nmAdd w (nmMul (k c.k0) g) rm)
  | 5 => putW (nmSub w (nmMul (k c.k0) (nmAdd g (nmMul (k c.k1) w) rm)) rm)
  | 6 =>
    let m' := nmF32 (nmAdd (nmMul (k c.k0) m) g .rne)
    let r := putW (nmSub w (nmMul (k c.k1) (m'.2.1, 0)) rm)
    ((.m, m'.1) :: r.1, m'.2.2 ||| r.2.1, sum)
  | 7 =>
    let m' := nmF32 (nmAdd (nmMul (k c.k0) m) (nmMul (nmSub one (k c.k0) .rne) g) .rne)
    let v' := nmF32 (nmAdd (nmMul (k c.k1) v) (nmMul (nmSub one (k c.k1) .rne) (nmMul g g)) .rne)
    let d := ffF32.sqrt v'.2.1 rne
    let e := nmF32 (nmAdd (ffF32.decode d.1, d.2) (k c.k3) .rne)
    let q := ffF32.div m'.2.1 e.2.1 rne
    let t := nmSub w (nmMul (k c.k2) (ffF32.decode q.1, 0)) rm
    let r := putW (nmSub t (nmMul (k c.k4) w) rm)
    ((.m, m'.1) :: (.v, v'.1) :: r.1, m'.2.2 ||| v'.2.2 ||| e.2.2 ||| q.2 ||| r.2.1, sum)
  | 8 => let p := nmMul g g; ([], p.2, sum.push p.1)
  | 9 => let e := convert G W (x .g) rnd; ([(.w, e.1)], e.2, sum)
  | _ => ([], 0, sum)

/-! ### Elements (R317, R322) -/

/-- Translates every address element i uses. -/
def nmXlats (s : State) (jb : NmJob) (c : NmCmd) (i : Nat) : List (NmRole × Acc) → State × Except Nat (List (NmRole × Xlat))
  | [] => (s, .ok [])
  | r :: rs =>
    match nmXlat s jb r.2 (nmAddr c r.1 i) with
    | (s, .error e) => (s, .error e)
    | (s, .ok x) =>
      match nmXlats s jb c i rs with
      | (s, .error e) => (s, .error e)
      | (s, .ok xs) => (s, .ok ((r.1, x) :: xs))

/-- Element i: performed, or the status it stops with. -/
def nmElement (s : State) (jb : NmJob) (op : Nat) (c : NmCmd) (i : Nat) : State × Except Nat NmJob :=
  match nmXlats s jb c i (nmRoles op) with
  | (s, .error e) => (s, .error e)
  | (s, .ok xs) =>
    if xs.any (fun x => nmReads op x.1 && s.ms.poisoned x.2.pa) then (s, .error 1)
    else
      let rd := fun (r : NmRole) =>
        match xs.find? (fun x => decide (x.1 = r)) with
        | some x => if nmReads op r then s.ms.homeRead x.2.pa (nmSize c r) else 0
        | none => 0
      let o := nmCompute op c i rd jb.sum
      let s := o.1.foldl (fun (s : State) y =>
        match xs.find? (fun x => decide (x.1 = y.1)) with
        | some x => { s with ms := (s.ms.markWrite x.2 (nmAddr c y.1 i)).homeWrite x.2.pa (nmSize c y.1) y.2 none }
        | none => s) s
      (s, .ok { jb with flags := jb.flags ||| o.2.1, count := jb.count + 1, sum := o.2.2 })

/-! ### Jobs (R315, R316) -/

def State.job? (s : State) (id : Nat) : Option NmJob := s.jobs.find? (fun j => decide (j.id = id))

def State.putJob (s : State) (j : NmJob) : State := { s with jobs := s.jobs.map (fun x => if x.id = j.id then j else x) }

/-- A share with no element left. -/
def NmShare.finished (x : NmShare) (n : Nat) : Bool := decide (x.status ≠ 0) || decide (n ≤ x.next)

/-- Every share of a job has finished. -/
def NmJob.finished (j : NmJob) : Bool :=
  j.malformed || decide (j.preStatus ≠ 0) || j.shares.all (fun x => x.finished j.cmd.count.toNat)

/-- The end of the run that starts at element i: its owning addresses lie in one 4 KiB block. -/
def runEnd (op : Nat) (c : NmCmd) (i : Nat) : Nat :=
  let r := nmOwner op
  let a := nmAddr c r i
  min c.count.toNat (i + max 1 ((4096 - a % 4096 + (nmSize c r - 1)) / max 1 (nmSize c r)))

/-- Elements from i up to, not including, e: where it ends, and the status if it stops. -/
def nmElements (op : Nat) (c : NmCmd) : Nat → Nat → State → NmJob → State × NmJob × Nat × Nat
  | 0, i, s, j => (s, j, i, 0)
  | k + 1, i, s, j =>
    match nmElement s j op c i with
    | (s, .error st) => (s, j, i, st)
    | (s, .ok j) => nmElements op c k (i + 1) s j

/-- The next run of a unit's share of a job, under command c. -/
def nmRun (s : State) (id stack op : Nat) (c : NmCmd) : State :=
  match s.job? id with
  | none => s
  | some j =>
    if j.malformed ∨ j.preStatus ≠ 0 then s
    else
      match j.shares.find? (fun x => decide (x.stack = stack) || !j.all) with
      | none => s
      | some x =>
        if x.finished c.count.toNat then s
        else
          let here := decide (nmStack s j (nmAddr c (nmOwner op) x.next) = stack)
          let e := runEnd op c x.next
          if j.all && !here then
            s.putJob { j with shares := j.shares.map (fun y => if y.stack = x.stack then { y with next := e } else y) }
          else if !here then s
          else
            let r := nmElements op c (e - x.next) x.next s j
            let x' : NmShare := { stack := stack, next := r.2.2.1, status := r.2.2.2 }
            r.1.putJob { r.2.1 with shares := r.2.1.shares.map (fun y => if y.stack = x.stack then x' else y) }

/-- NM_SUMSQ's result address, checked before the first element (R317): its physical address, or the status. -/
def sumsqTarget (s : State) (j : NmJob) (c : NmCmd) : State × Except Nat Nat :=
  if c.aux1.toNat % 4 ≠ 0 then (s, .error 6)
  else
    match nmXlat s j .write c.aux1.toNat with
    | (s, .error e) => (s, .error e)
    | (s, .ok x) => (s, .ok x.pa)

/-- A command's bytes become a job (R100, R315, R317, R318). -/
def newJob (s : State) (owner : NmOwner) (slot : Nat) (all : Bool) (asn root : Nat) (atH : Bool) (x : BitVec 512)
    (rec : Bool × Nat × Nat) (ckr : Word) (sync scope : BitVec 2) : State :=
  let d := decodeNm x
  let p := match d with | .ok i => nmParts i | .error _ => (0, nmFields x)
  let bad := (match d with | .ok _ => false | .error _ => true) || !nmFormatsOk p.1 p.2
  let shares := if all then (List.range 12).map (fun k => ({ stack := k, next := 0, status := 0 } : NmShare))
    else [{ stack := 0, next := 0, status := 0 }]
  let j : NmJob :=
    { id := s.nextJob, owner := owner, slot := slot, all := all, asn := asn, root := root, atH := atH, opcode := p.1, cmd := p.2,
      malformed := bad, preStatus := 0, shares := shares, flags := 0, count := 0, sum := Terms.none, resPa := 0,
      recG := rec.1, recAddr := rec.2.1, recVa := rec.2.2, ckr := ckr, sync := sync, scope := scope }
  let mis := (nmRoles p.1).any (fun r => decide (nmAddr p.2 r.1 0 % nmSize p.2 r.1 ≠ 0))
  let y : State × NmJob :=
    if bad then (s, j)
    else if mis then (s, { j with preStatus := 6 })
    else if p.1 = 8 then
      match sumsqTarget s j p.2 with
      | (s, .error e) => (s, { j with preStatus := e })
      | (s, .ok pa) => (s, { j with resPa := pa })
    else (s, j)
  { y.1 with jobs := y.1.jobs ++ [y.2], nextJob := s.nextJob + 1 }

/-! ### Completion (R319 to R322) -/

/-- R321: the lowest nonzero status. -/
def NmJob.status (j : NmJob) : Nat :=
  if j.malformed then 2
  else if j.preStatus ≠ 0 then j.preStatus
  else ((j.shares.map (fun x => x.status)).filter (fun n => n ≠ 0)).foldl (fun a b => if a = 0 then b else min a b) 0

/-- Bit s: the unit of stack s stopped. -/
def NmJob.stopped (j : NmJob) : Nat :=
  if j.malformed ∨ j.preStatus ≠ 0 then 0
  else (j.shares.filter (fun x => decide (x.status ≠ 0))).foldl (fun n x => n ||| 2 ^ x.stack) 0

/-- E of R320. -/
def NmJob.firstLeft (j : NmJob) : Nat :=
  if j.malformed ∨ j.preStatus ≠ 0 then 0
  else (j.shares.filter (fun x => decide (x.status ≠ 0))).foldl (fun n x => min n x.next) j.cmd.count.toNat

/-- NM_SUMSQ's result and the flags of its one rounding. -/
def NmJob.sumResult (j : NmJob) : Nat × Flags := j.sum.fsum ffF32 rne

/-- R320. -/
def NmJob.record (j : NmJob) (fl : Flags) : Nat :=
  j.status + j.stopped * 2 ^ 16 + fl.toNat * 2 ^ 32 + j.firstLeft % 2 ^ 32 * 2 ^ 64 + j.count % 2 ^ 32 * 2 ^ 96

/-- Writes NM_SUMSQ's result where no unit stopped, and the completion record. -/
def writeRecord (s : State) (j : NmJob) : State :=
  let sums := decide (j.opcode = 8) && decide (j.status = 0)
  let r := if sums then j.sumResult else (0, 0)
  let s := if sums then
      let s := s.markAt .hub j.asn j.root j.atH j.cmd.aux1
      { s with ms := s.ms.homeWrite j.resPa 4 r.1 none }
    else s
  let fl := if j.malformed ∨ j.preStatus ≠ 0 then 0#6 else j.flags ||| r.2
  if j.recG then
    let s := s.markAt .hub j.asn j.root j.atH (BitVec.ofNat 64 j.recVa)
    { s with ms := s.ms.homeWrite j.recAddr 16 (j.record fl) none }
  else
    let core := j.recAddr / Config.lmBytes
    let off := j.recAddr % Config.lmBytes
    { s with ms := (s.ms.lmWrite core off 16 (j.record fl)).setFull core off true }

def State.dropJob (s : State) (id : Nat) : State := { s with jobs := s.jobs.filter (fun j => decide (j.id ≠ id)) }

/-! ### A team's `cnm` -/

/-- Hands the command to the units (R315): its bytes are read once, and CP becomes 1. -/
def handC (s : State) (tk eng : Nat) (e : QEntry) : State :=
  let t := s.team tk
  let c := t.copyCtx tk e
  let y := CDesc.of e.y
  let x := CDesc.of e.x
  match copyReadAll c ((List.range 64).map (fun i => (.mem y.sp (y.addr + i), i))) s with
  | (s, .error f) => s.faultC tk eng e f
  | (s, .ok l) =>
    match copyLoc s c .write x.sp x.addr with
    | (s, .error f) => s.faultC tk eng e f
    | (s, .ok loc) =>
      let rec' := match loc with
        | .g xl va => (true, xl.pa, va)
        | .l core off => (false, lmKey core off, 0)
      let o := copOf e
      (newJob s (.team tk e.no) t.bind.slot (decide (o.kind = .cnmAll)) t.bind.asn t.bind.root e.hl
        (BitVec.ofNat 512 (readLE (fun i => (l.getD i (0, 0#8)).2) 0 64)) rec' e.ckr o.sync o.scope).putC tk eng
        { e with start := 1 }

/-- Whether a job of the entry is with the units. -/
def jobOf (s : State) (tk no : Nat) : Bool := s.jobs.any (fun j => decide (j.owner = .team tk no))

/-- A `cnm` that has begun and acquired moves on: to the units, or, its record written, to its release phase. -/
def cnmStep (s : State) (tk eng : Nat) (e : QEntry) : State :=
  if e.start = 0 then
    if (s.team tk).lmWaits e.no (cTouch (s.team tk) e) then s else handC s tk eng e
  else if jobOf s tk e.no then s
  else finishC s tk eng e

/-- The entry of a job's team, in its queue or its saved image. -/
def Team.cEntry (t : Team) (no : Nat) : Option QEntry :=
  let qs := t.q.cq0 ++ t.q.cq1 ++ (match t.image with | some q => q.cq0 ++ q.cq1 | none => [])
  qs.find? (fun e => decide (e.no = no))

/-- Changes an entry wherever it stands. -/
def Team.mapC (t : Team) (no : Nat) (f : QEntry → QEntry) : Team :=
  let g := fun (es : List QEntry) => es.map (fun e => if e.no = no then f e else e)
  let h := fun (q : Queues) => { q with cq0 := g q.cq0, cq1 := g q.cq1 }
  { t with q := h t.q, image := t.image.map h }

/-- A team's command is complete: its record, its release phase, its entry gone (R315, R324). -/
def completeTeamJob (s : State) (j : NmJob) (tk no : Nat) : State :=
  let s := (writeRecord s j).dropJob j.id
  match (s.team tk).cEntry no with
  | none => s
  | some e =>
    if j.sync.getLsbD 1 then
      match releaseAt s { tk := some tk, k := j.slot, no := no, asn := j.asn, root := j.root, atH := j.atH } j.ckr with
      | (s, some f) => s.setTeam tk ((s.team tk).mapC no (fun e => { e with fault := some f }))
      | (s, none) => s.setTeam tk ((s.team tk).dropC e)
    else s.setTeam tk ((s.team tk).dropC e)

/-! ### The commands as the units execute them -/

/-- NM_FILL (R319): the next run of the job and unit in execution. -/
def execNmFill (c : NmCmd) (s : State) : Out := .next (nmRun s s.cur.j s.cur.stack 1 c)

/-- NM_COPY. -/
def execNmCopy (c : NmCmd) (s : State) : Out := .next (nmRun s s.cur.j s.cur.stack 2 c)

/-- NM_SCALE. -/
def execNmScale (c : NmCmd) (s : State) : Out := .next (nmRun s s.cur.j s.cur.stack 3 c)

/-- NM_AXPY. -/
def execNmAxpy (c : NmCmd) (s : State) : Out := .next (nmRun s s.cur.j s.cur.stack 4 c)

/-- NM_SGDWD. -/
def execNmSgdwd (c : NmCmd) (s : State) : Out := .next (nmRun s s.cur.j s.cur.stack 5 c)

/-- NM_MOMENTUM. -/
def execNmMomentum (c : NmCmd) (s : State) : Out := .next (nmRun s s.cur.j s.cur.stack 6 c)

/-- NM_ADAMW. -/
def execNmAdamw (c : NmCmd) (s : State) : Out := .next (nmRun s s.cur.j s.cur.stack 7 c)

/-- NM_SUMSQ. -/
def execNmSumsq (c : NmCmd) (s : State) : Out := .next (nmRun s s.cur.j s.cur.stack 8 c)

/-- NM_CAST. -/
def execNmCast (c : NmCmd) (s : State) : Out := .next (nmRun s s.cur.j s.cur.stack 9 c)

/-- NMU_RUN (R316): the unit's next run of the job's command. -/
def execNmuRun (j stack : Nat) (s : State) : Out :=
  if 12 ≤ stack then .fault .noSuchUnit
  else
    match s.job? j with
    | none => .next s
    | some x => .next (nmRun s j stack x.opcode x.cmd)

end Sys2Proof.Machine
end

