-- ==== Sys2Proof/Machine/Top.lean ====
section
/-! DEFINITION. The T-ops: decode of each in a stream slot, up to the window entry it makes (R329 to R345, R350 to R355). -/

namespace Sys2Proof.Machine

/-! ### The slot in execution -/

def State.cs (s : State) : Stream := s.stream s.cur.k

def State.setCs (s : State) (x : Stream) : State := s.setStream s.cur.k x

def State.treg (s : State) (r : TReg) : Word := s.cs.reg r

def State.setTreg (s : State) (r : TReg) (v : Word) : State := s.setCs (s.cs.setReg r v)

/-- A signed 44-bit immediate. -/
def timm (i : BitVec 44) : Word := i.signExtend 64

/-- A label: A + 8 × off (R332). -/
def State.ttarget (s : State) (o : BitVec 44) : Word := s.cur.taddr + timm o * 8#64

/-! ### Window entries (R338, R339) -/

/-- An entry for the T-op in execution, with the slot's state before it. -/
def State.newEntry (s : State) (op : EntryOp) (st : EntryState) : WEntry :=
  let x := s.cs
  { id := x.nextId, seq := none, op := op, st := st, fault := none, ins := [], outs := [], raws := [], renamed := [],
    oldDesc := none, after := false, spec := false, issueNo := 0, units := 0, gangs := [], snapSpc := s.cur.taddr, snapSeq := x.seq,
    snapT := x.t, snapMap := x.smap }

def State.addEntry (s : State) (e : WEntry) : State :=
  s.setCs { s.cs with window := s.cs.window ++ [e], nextId := s.cs.nextId + 1 }

/-- The window has no free entry (R338). -/
def Stream.full (x : Stream) : Bool := decide (Config.windowDepth ≤ x.window.length)

/-- Decode stalls on a full window, which WINSTALL counts. Log 30 (DEDUCED, safe). -/
def State.stallFull (s : State) : State := (s.setCs { s.cs with winstall := s.cs.winstall + 1 }).hold

/-- A fault at decode: a faulting entry in the T-op's place, behind which decode stops (R329, R355); `seq` says that the
T-op took a sequence number, and `ren` gives the descriptors it had received. -/
def State.faultTop (s : State) (r : Reason) (cause : Nat) (tval : Word) (seq : Bool) (ren : List (Nat × Nat)) : State :=
  if s.cs.full then s.stallFull
  else
    let e := s.newEntry .fault .faulted
    let e := { e with seq := if seq then some s.cs.seq else none, renamed := ren,
                      fault := some { reason := r, cause := cause, gidx := 0, tidx := 0, tval := tval } }
    let s := s.addEntry e
    (s.setCs { s.cs with stopped := true, seq := if seq then s.cs.seq + 1 else s.cs.seq }).setCur .stopped

def State.faultMem (s : State) (c : Cause) (a : Nat) : State := s.faultTop .streamMem c.code (BitVec.ofNat 64 a) false []

/-- A fault whose TVAL is the T-op word, cause ILLEGAL. -/
def State.faultWord (s : State) (r : Reason) (seq : Bool) (ren : List (Nat × Nat)) : State :=
  s.faultTop r Cause.illegal.code s.cur.tword seq ren

/-- An entry of an operation that is complete once decoded, with the speculative map it leaves. -/
def State.pushDone (s : State) (op : EntryOp) (old : Option Nat) (m : List (Nat × LBuf)) : State :=
  if s.cs.full then s.stallFull
  else
    let s := s.addEntry { s.newEntry op .complete with oldDesc := old }
    s.setCs { s.cs with smap := m }

/-! ### Stream-register T-ops (R330) -/

def execTli (d : TReg) (i : BitVec 44) (s : State) : Out := .next (s.setTreg d (timm i))
def execTadd (d a b : TReg) (s : State) : Out := .next (s.setTreg d (s.treg a + s.treg b))
def execTaddi (d a : TReg) (i : BitVec 44) (s : State) : Out := .next (s.setTreg d (s.treg a + timm i))
def execTsub (d a b : TReg) (s : State) : Out := .next (s.setTreg d (s.treg a - s.treg b))
def execTmul (d a b : TReg) (s : State) : Out := .next (s.setTreg d (s.treg a * s.treg b))
def execTand (d a b : TReg) (s : State) : Out := .next (s.setTreg d (s.treg a &&& s.treg b))
def execTor (d a b : TReg) (s : State) : Out := .next (s.setTreg d (s.treg a ||| s.treg b))
def execTshl (d a b : TReg) (s : State) : Out := .next (s.setTreg d (s.treg a <<< ((s.treg b).toNat % 64)))
def execTshr (d a b : TReg) (s : State) : Out := .next (s.setTreg d (s.treg a >>> ((s.treg b).toNat % 64)))

/-! ### Branches and jumps (R332) -/

/-- A jump of a stream; SPC holds 57 bits, so an address beyond them is a fault of the branch target (R327, R355). Log 84
(DEDUCED, unsafe). -/
def State.tjump (s : State) (t : Word) : State :=
  if 2 ^ 57 ≤ t.toNat then s.faultMem .pageLoad t.toNat else s.jump t

def State.tbranch (s : State) (c : Bool) (o : BitVec 44) : State := if c then s.tjump (s.ttarget o) else s

def execTbeq (a b : TReg) (o : BitVec 44) (s : State) : Out := .next (s.tbranch (decide (s.treg a = s.treg b)) o)
def execTbne (a b : TReg) (o : BitVec 44) (s : State) : Out := .next (s.tbranch (decide (s.treg a ≠ s.treg b)) o)
def execTblt (a b : TReg) (o : BitVec 44) (s : State) : Out := .next (s.tbranch ((s.treg a).slt (s.treg b)) o)
def execTbge (a b : TReg) (o : BitVec 44) (s : State) : Out := .next (s.tbranch (!(s.treg a).slt (s.treg b)) o)
def execTj (o : BitVec 44) (s : State) : Out := .next (s.tjump (s.ttarget o))

def execTjal (d : TReg) (o : BitVec 44) (s : State) : Out :=
  let s' := s.tjump (s.ttarget o)
  .next (if s'.cur.st = .running then s'.setTreg d (s.cur.taddr + 8#64) else s')

def execTjr (a : TReg) (s : State) : Out :=
  let t := s.treg a
  .next (if t.toNat % 8 ≠ 0 then s.faultMem .misalign t.toNat else s.tjump t)

/-! ### Memory (R331, R350) -/

/-- Translation in the stream's address space. -/
def streamXlat (s : State) (k : Nat) (acc : Acc) (a : Word) : State × Except Cause Xlat :=
  let p := s.streamSpace k
  let r := s.ms.translate .hub p.1 p.2 false acc a
  ({ s with ms := r.1 }, r.2)

/-- The checks of an 8-byte access of a stream. -/
def streamAccess (s : State) (k : Nat) (acc : Acc) (a : Word) : State × Except TrapInfo Xlat :=
  if a.toNat % 8 ≠ 0 then (s, .error (ti .misalign a.toNat))
  else
    match streamXlat s k acc a with
    | (s, .error c) => (s, .error (ti c a.toNat))
    | (s, .ok x) =>
      if inScaleArea x.ent a.toNat || (decide (acc = .write) && decide (pageBlk x.ent.leaf ≠ 0)) then
        (s, .error (ti .format a.toNat))
      else (s, .ok x)

/-- A word read at its home. -/
def streamRead (s : State) (k : Nat) (a : Word) : State × Except TrapInfo Word :=
  match streamAccess s k .read a with
  | (s, .error f) => (s, .error f)
  | (s, .ok x) =>
    if s.ms.poisoned x.pa then (s, .error (ueAt true a.toNat))
    else (s, .ok (BitVec.ofNat 64 (s.ms.homeRead x.pa 8)))

def State.faultInfo (s : State) (f : TrapInfo) : State := s.faultTop .streamMem f.cause.code f.tval false []

/-- `tld` may not lie on a blocked page. -/
def execTld (d a : TReg) (o : BitVec 44) (s : State) : Out :=
  let ea := s.treg a + timm o
  match streamAccess s s.cur.k .read ea with
  | (s, .error f) => .next (s.faultInfo f)
  | (s, .ok x) =>
    if pageBlk x.ent.leaf ≠ 0 then .next (s.faultInfo (ti .format ea.toNat))
    else if s.ms.poisoned x.pa then .next (s.faultInfo (ueAt true ea.toNat))
    else .next (s.setTreg d (BitVec.ofNat 64 (s.ms.homeRead x.pa 8)))

/-- `tst` holds decode until the window is empty. -/
def execTst (a b : TReg) (o : BitVec 44) (s : State) : Out :=
  let ea := s.treg a + timm o
  if !s.cs.window.isEmpty then .next s.hold
  else
    match streamAccess s s.cur.k .write ea with
    | (s, .error f) => .next (s.faultInfo f)
    | (s, .ok x) => .next { s with ms := (s.ms.markWrite x ea.toNat).homeWrite x.pa 8 (s.treg b).toNat none }

/-- A logical buffer of the speculative map. -/
def Stream.lbuf (x : Stream) (lb : Nat) : LBuf := look .undeclared x.smap lb

/-- The descriptor with an id. -/
def Partition.desc? (p : Partition) (d : Nat) : Option Desc := p.descs.find? (fun x => decide (x.id = d))

/-- The physical buffer or region a logical buffer names, with its size (R333). -/
def Partition.refOf (p : Partition) : LBuf → Option Ref
  | .undeclared => none
  | .renamable _ _ _ none => none
  | .renamable n _ _ (some d) => (p.desc? d).map (fun x => .desc d x.base (2 ^ n))
  | .fixed n _ _ b => some (.region b (2 ^ n))

def Ref.base : Ref → Word
  | .desc _ b _ => b
  | .region b _ => b

def Ref.size : Ref → Nat
  | .desc _ _ n => n
  | .region _ n => n

/-- Two byte ranges of `g:` share a byte. -/
def Ref.overlaps (x y : Ref) : Bool :=
  decide (x.size ≠ 0) && decide (y.size ≠ 0) && decide (x.base.toNat < y.base.toNat + y.size) && decide (y.base.toNat < x.base.toNat + x.size)

/-- Whether two operands are the same physical buffer, or the same fixed region. -/
def Ref.meets (x y : Ref) : Bool :=
  match x, y with
  | .desc d _ _, .desc e _ _ => decide (d = e)
  | .region b n, .region c m => decide (b = c) && decide (n = m)
  | _, _ => false

/-- The fixed regions among operands. -/
def fixedOf (rs : List Ref) : List Ref := rs.filter (fun r => match r with | .region _ _ => true | .desc _ _ _ => false)

/-- R350: an older task that writes the operand. Log 55 (DEDUCED, safe). -/
def WEntry.writesRef (e : WEntry) (r : Ref) : Bool :=
  match e.op with
  | .nm _ _ => match r with | .desc _ _ _ => false | .region _ _ => true
  | _ =>
    match r with
    | .desc _ _ _ => e.outs.any (fun o => o.meets r)
    | .region _ _ => (fixedOf e.outs ++ e.raws).any (fun o => o.overlaps r)

def execTread (d : TReg) (lb : BitVec 8) (off : BitVec 36) (s : State) : Out :=
  let p := s.part s.cs.part
  match p.refOf (s.cs.lbuf lb.toNat) with
  | none => .next (s.faultWord .undeclared false [])
  | some r =>
    if r.size ≤ off.toNat then .next (s.faultWord .undeclared false [])
    else if s.cs.window.any (fun e => e.writesRef r) then .next s.hold
    else
      match streamXlat s s.cur.k .read (r.base + off.setWidth 64) with
      | (s, .error c) => .next (s.faultMem c (r.base + off.setWidth 64).toNat)
      | (s, .ok x) =>
        let a := (r.base + off.setWidth 64).toNat
        if inScaleArea x.ent a then .next (s.faultMem .format a)
        else if s.ms.poisoned x.pa then .next (s.faultInfo (ueAt true a))
        else .next (s.setTreg d (BitVec.ofNat 64 (s.ms.homeRead x.pa 8)))

/-! ### Buffers (R335 to R337) -/

/-- The physical buffer a declared logical buffer holds. -/
def LBuf.held : LBuf → Option Nat
  | .renamable _ _ _ d => d
  | _ => none

def execTbuf (lb : BitVec 8) (n : BitVec 6) (f : BitVec 5) (pl : BitVec 2) (s : State) : Out :=
  let new : LBuf := .renamable n.toNat f.toNat pl.toNat none
  .next (s.pushDone (.buf lb.toNat n.toNat f.toNat pl.toNat) (s.cs.lbuf lb.toNat).held (put s.cs.smap lb.toNat new))

/-- R336: the first address of a region that does not translate. -/
def regionHole (ms : MemSys) (asn root hi : Nat) : Nat → Nat → Option Nat
  | 0, _ => none
  | k + 1, a =>
    if hi ≤ a then none
    else if 2 ^ 57 ≤ a then some a
    else
      match (ms.lookup .hub asn root a).2 with
      | .error _ => some a
      | .ok e => if ms.isPop (leafPa e a) then regionHole ms asn root hi k ((a / 65536 + 1) * 65536) else some a

/-- Log 32 (DEDUCED, safe). -/
def execTbind (lb : BitVec 8) (a : TReg) (s : State) : Out :=
  let base := s.treg a
  let sp := s.streamSpace s.cur.k
  let bind := fun (n f pl : Nat) =>
    if base.toNat % 64 ≠ 0 then s.faultMem .misalign base.toNat
    else
      match regionHole s.ms sp.1 sp.2 (base.toNat + 2 ^ n) (2 ^ n / 65536 + 2) base.toNat with
      | some h => s.faultMem .pageLoad h
      | none =>
        s.pushDone (.bind lb.toNat base) (s.cs.lbuf lb.toNat).held (put s.cs.smap lb.toNat (.fixed n f pl base))
  match s.cs.lbuf lb.toNat with
  | .undeclared => .next (s.faultWord .undeclared false [])
  | .renamable n f pl _ => .next (bind n f pl)
  | .fixed n f pl _ => .next (bind n f pl)

def execTfree (lb : BitVec 8) (s : State) : Out :=
  .next (s.pushDone (.free lb.toNat) (s.cs.lbuf lb.toNat).held (drop s.cs.smap lb.toNat))

/-! ### Tasks (R341 to R345) -/

/-- R334: the descriptor nearest the head of the free list that a buffer can use. -/
def pickDesc (free : List Desc) (n pl : Nat) : Option Desc :=
  free.find? (fun d => decide (n ≤ d.cap) && decide (d.place = pl))

/-- What resolving a task's operands comes to. -/
structure Resolve where
  ins     : List Ref
  outs    : List Ref
  renamed : List (Nat × Nat)
  smap    : List (Nat × LBuf)
  free    : List Desc
  deriving DecidableEq, Repr

/-- Why operands do not resolve: undeclared, with the descriptors taken so far, or no descriptor to be had. -/
inductive NoResolve where
  | undeclared (r : Resolve)
  | noBuffer
  deriving DecidableEq, Repr

/-- The inputs, from the speculative map as it stands. -/
def resolveIns (p : Partition) (x : Stream) : List Nat → Option (List Ref)
  | [] => some []
  | lb :: r =>
    match p.refOf (x.lbuf lb), resolveIns p x r with
    | some y, some ys => some (y :: ys)
    | _, _ => none

/-- The outputs in order: a renamable one takes a fresh descriptor, once however often it is named. Log 58 (DEDUCED,
unsafe). -/
def resolveOuts : List Nat → Resolve → Except NoResolve Resolve
  | [], r => .ok r
  | lb :: rest, r =>
    match look LBuf.undeclared r.smap lb with
    | .undeclared => .error (.undeclared r)
    | .fixed n _ _ b => resolveOuts rest { r with outs := r.outs ++ [.region b (2 ^ n)] }
    | .renamable n f pl _ =>
      match r.renamed.find? (fun y => decide (y.1 = lb)) with
      | some _ => resolveOuts rest r
      | none =>
        match pickDesc r.free n pl with
        | none => .error .noBuffer
        | some d =>
          resolveOuts rest
            { r with outs := r.outs ++ [.desc d.id d.base (2 ^ n)], renamed := r.renamed ++ [(lb, d.id)],
                     smap := put r.smap lb (.renamable n f pl (some d.id)),
                     free := r.free.filter (fun y => y.id ≠ d.id) }

/-- Resolves a task's operands (R341). -/
def resolveTask (p : Partition) (x : Stream) (ins outs : List Nat) : Except NoResolve Resolve :=
  match resolveIns p x ins with
  | none => .error (.undeclared { ins := [], outs := [], renamed := [], smap := x.smap, free := p.free })
  | some is => resolveOuts outs { ins := is, outs := [], renamed := [], smap := x.smap, free := p.free }

/-- R345: pure or a copy, every output renamable, no raw region. -/
def speculable (pure' : Bool) (outs raws : List Ref) : Bool :=
  pure' && raws.isEmpty && outs.all (fun r => match r with | .desc _ _ _ => true | .region _ _ => false)

/-- Enters a task whose operands resolve: its sequence number, its renamed outputs, its entry (R33, R341); without a
descriptor decode stalls, or faults when the window is empty (R338). Log 30 (DEDUCED, safe). -/
def State.enterTask (s : State) (ins outs : List Nat) (raws : List Ref) (pure' after : Bool)
    (op : Resolve → EntryOp) (gangs : List GangState) : State :=
  let x := s.cs
  let p := s.part x.part
  if x.full then s.stallFull
  else
    match resolveTask p x ins outs with
    | .error (.undeclared r) => (s.setPart x.part { p with free := r.free }).faultWord .undeclared true r.renamed
    | .error .noBuffer =>
      if x.window.isEmpty then s.faultTop .noBuffer 0 0 true []
      else (s.setCs { x with freestall := x.freestall + 1 }).hold
    | .ok r =>
      let e := { s.newEntry (op r) .waiting with
        seq := some x.seq, ins := r.ins, outs := r.outs, raws := raws, renamed := r.renamed, after := after,
        spec := speculable pure' r.outs raws, gangs := gangs }
      let s := (s.setPart x.part { p with free := r.free }).addEntry e
      s.setCs { s.cs with smap := r.smap, seq := x.seq + 1 }

/-- A kernel by its index in the manifest's table, with its object (R185, R186). Log 29 (DEDUCED, unsafe). -/
def App.kernel? (a : App) (i : Nat) : Option (LoadedObj × Kernel) :=
  match a.kindex[i]? with
  | none => none
  | some x =>
    match a.objs[x.1]? with
    | none => none
    | some o => (o.obj.kernels[x.2]?).map (fun k => (o, k))

/-- The application a stream runs (R367). -/
def State.appOf (s : State) (k : Nat) : Option App :=
  (s.part (s.stream k).part).apps.find? (fun a => decide (a.handle = (s.stream k).lrec.app))

def State.kernelOf (s : State) (k i : Nat) : Option (LoadedObj × Kernel) :=
  match s.appOf k with
  | some a => a.kernel? i
  | none => none

/-- R185, R361: the argument kind an operand word matches; none for `after`. Log 33 (DEDUCED, safe). -/
def opKind : LaunchOp → Option Nat
  | .inp _ => some 1
  | .out _ => some 2
  | .sreg _ | .simm _ | .raw _ _ => some 0
  | .after _ => none

def opIn : LaunchOp → Option Nat
  | .inp lb => some lb.toNat
  | _ => none

def opOut : LaunchOp → Option Nat
  | .out lb => some lb.toNat
  | _ => none

def opRaw (x : Stream) : LaunchOp → Option Ref
  | .raw t n => some (.region (x.reg t) n.toNat)
  | _ => none

/-- R342: the argument values in order; inputs and outputs taken from what was resolved. -/
def argValues (x : Stream) (r : Resolve) : List LaunchOp → List Ref → List Word
  | [], _ => []
  | op :: rest, ins =>
    match op, ins with
    | .inp _, i :: is => i.base :: argValues x r rest is
    | .inp _, [] => 0#64 :: argValues x r rest []
    | .out lb, is =>
      (match look LBuf.undeclared r.smap lb.toNat with
       | .fixed _ _ _ b => b
       | .renamable _ _ _ (some d) => ((r.outs.find? (fun y => match y with | .desc e _ _ => decide (e = d) | .region _ _ => false)).map Ref.base).getD 0#64
       | _ => 0#64) :: argValues x r rest is
    | .sreg t, is => x.reg t :: argValues x r rest is
    | .simm i, is => i.signExtend 64 :: argValues x r rest is
    | .raw t _, is => x.reg t :: argValues x r rest is
    | .after _, is => argValues x r rest is

/-- The gang count of a launch (R97): none where it is out of range. -/
def gangCount (x : Stream) (h : LaunchHdr) : Option Nat :=
  let n := if h.a = 0#4 then h.gc.toNat else (x.reg h.a).toNat
  if 1 ≤ n ∧ n ≤ 65535 then some n else none

def execTlaunch (h : LaunchHdr) (ops : List LaunchOp) (s : State) : Out :=
  let x := s.cs
  match gangCount x h with
  | none => .next (s.faultWord .malformed true [])
  | some n =>
    match s.kernelOf s.cur.k h.ker.toNat with
    | none => .next (s.faultWord .kernel true [])
    | some (_, kn) =>
      if kn.gsz ≠ h.gsz.toNat + 1 ∨ kn.lmu ≠ h.lm.toNat ∨ kn.kinds ≠ ops.filterMap opKind then
        .next (s.faultWord .kernel true [])
      else
        .next (s.enterTask (ops.filterMap opIn) (ops.filterMap opOut) (ops.filterMap (opRaw x)) kn.pure
          (ops.any (fun o => match o with | .after _ => true | _ => false))
          (fun r => .launch h.ker.toNat n (h.gsz.toNat + 1) h.lm.toNat (argValues x r ops r.ins))
          (List.replicate n .waiting))

/-- R343: source and destination as resolved. -/
def copyOp (r : Resolve) : EntryOp :=
  match r.ins, r.outs with
  | i :: _, o :: _ => .copy i o (min i.size o.size)
  | _, _ => .fault

def execTcopy (dst src : BitVec 8) (s : State) : Out := .next (s.enterTask [src.toNat] [dst.toNat] [] true false copyOp [])

/-- R344. -/
def execTnm (a : TReg) (s : State) : Out := .next (s.enterTask [] [] [] false false (fun _ => .nm false (s.treg a)) [])

/-- R344, with broadcast. -/
def execTnmAll (a : TReg) (s : State) : Out := .next (s.enterTask [] [] [] false false (fun _ => .nm true (s.treg a)) [])

/-! ### Ordering (R351, R352) -/

/-- The checks on a stream's knot. Log 18 (DEDUCED, safe). -/
def streamKnot (s : State) (k : Nat) (acc : Acc) (knot : Word) : State × Except TrapInfo Xlat :=
  if knot.toNat % 16 ≠ 0 then (s, .error (ti .misalign knot.toNat))
  else
    match streamXlat s k acc knot with
    | (s, .error c) => (s, .error (ti c knot.toNat))
    | (s, .ok x) =>
      if inScaleArea x.ent knot.toNat then (s, .error (ti .format knot.toNat))
      else if isHostOrPeer x.pa then (s, .error (ti .protection knot.toNat))
      else if s.ms.poisoned x.pa then (s, .error (ueAt true knot.toNat))
      else (s, .ok x)

def execTsig (a b : TReg) (s : State) : Out :=
  match streamKnot s s.cur.k .write (s.treg a) with
  | (s, .error f) => .next (s.faultInfo f)
  | (s, .ok _) => .next (s.pushDone (.sig (s.treg a) (s.treg b)) none s.cs.smap)

def execTwait (a b : TReg) (s : State) : Out :=
  match streamKnot s s.cur.k .read (s.treg a) with
  | (s, .error f) => .next (s.faultInfo f)
  | (s, .ok _) =>
    if s.cs.full then .next s.stallFull
    else .next (s.addEntry (s.newEntry (.wait (s.treg a) (s.treg b)) .waiting))

def execTfence (s : State) : Out := .next (s.pushDone .fence none s.cs.smap)

/-! ### System T-ops (R353, R354) -/

/-- A call that does nothing: the answer in t1 (R353). -/
def tsysAnswer (n : Nat) : Option Word :=
  if n = 2 then none else if n = 1 ∨ n = 3 then some 1#64 else some noSuchCall

/-- `tsys` waits for an empty window, then for the answer to what it posts. -/
def execTsys (c : BitVec 16) (s : State) : Out :=
  let x := s.cs
  if !x.window.isEmpty then .next s.hold
  else
    match tsysAnswer c.toNat with
    | some v => .next (s.setTreg 1#4 v)
    | none =>
      if x.answered then .next (s.setCs { x with posted := false, answered := false })
      else if x.posted then .next s.hold
      else .next ({ s.setCs { x with posted := true } with
        syscalls := s.syscalls ++ [{ caller := .stream s.cur.k, num := c.toNat }] } : State).hold

/-- `thalt` ends the stream once the window is empty; STREAM_END does the rest (R372). -/
def execThalt (s : State) : Out :=
  if s.cs.window.isEmpty then .next (s.setCs { s.cs with ending := some .done }) else .next s.hold

end Sys2Proof.Machine
end

