-- ==== Sys2Proof/Machine/Window.lean ====
section
/-! DEFINITION. The task window: issue, stream copies, completion, retirement, faults, restart (R43, R338 to R352, R355 to
R360, R372), and the engine events of teams and tasks. -/

namespace Sys2Proof.Machine

/-! ### Producers and conflicts (R346 to R348) -/

/-- Entries older than the one with an id. -/
def Stream.older (x : Stream) (id : Nat) : List WEntry := x.window.filter (fun e => decide (e.id < id))

/-- An older task that was given one of the entry's inputs as an output. Log 59 (DEDUCED, safe). -/
def WEntry.producedBy (e o : WEntry) : Bool := e.ins.any (fun i => o.outs.any (fun r => r.meets i))

def WEntry.isNm (e : WEntry) : Bool :=
  match e.op with
  | .nm _ _ => true
  | _ => false

def meetAny (xs ys : List Ref) : Bool := xs.any (fun x => ys.any (fun y => x.overlaps y))

def WEntry.reads (e : WEntry) : List Ref := fixedOf e.ins ++ e.raws
def WEntry.wrote (e : WEntry) : List Ref := fixedOf e.outs ++ e.raws

/-- R347: a conflict of entry e with an older one; a fixed input against its producer's fixed output is none, against
another's it is one. Log 59 (DEDUCED, safe). -/
def WEntry.conflicts (e o : WEntry) : Bool :=
  let some' := fun (xs : List Ref) => xs.any (fun r => decide (r.size ≠ 0))
  meetAny e.wrote (o.reads ++ o.wrote) || meetAny e.raws o.wrote || meetAny (fixedOf e.ins) o.raws ||
  (fixedOf e.ins).any (fun i => meetAny [i] (fixedOf o.outs) && !o.outs.any (fun r => r.meets i)) ||
  (o.isNm && (some' (e.reads ++ e.wrote) || e.isNm)) || (e.isNm && some' (o.reads ++ o.wrote))

/-- R190: issue of the kernel's tasks is held while its object's pages change. -/
def kernelHeld (s : State) (k : Nat) (e : WEntry) : Bool :=
  match e.op with
  | .launch ker _ _ _ _ => (match s.kernelOf k ker with | some x => x.1.holdIssue | none => false)
  | _ => false

/-- R346. -/
def mayIssue (s : State) (k : Nat) (e : WEntry) : Bool :=
  let older := (s.stream k).older e.id
  older.all (fun o => !e.producedBy o || decide (o.st = .complete) || (e.after && decide (o.st = .issued))) &&
  older.all (fun o => !e.conflicts o) &&
  (e.spec || older.all (fun o => decide (o.st = .complete))) &&
  (!e.isNm || older.isEmpty) &&
  older.all (fun o => match o.op with
    | .wait _ _ => decide (o.st = .complete)
    | .fence => false
    | _ => true) &&
  !kernelHeld s k e

/-! ### Faults of tasks (R355) -/

/-- A task becomes Faulted; its gangs are unbound (R44). -/
def State.faultTask (s : State) (k id : Nat) (f : EntryFault) : State :=
  match (s.stream k).entry? id with
  | none => s
  | some e =>
    if e.st ≠ .issued then s
    else
      let s := s.setStream k ((s.stream k).putEntry { e with st := .faulted, fault := some f })
      match e.op, e.seq with
      | .launch _ _ _ _ _, some n => s.dropTask k n
      | _, _ => s

/-- A team's trap ends its task (R158, R164). -/
def State.faultTeam (s : State) (tk : Nat) (i : TrapInfo) : State :=
  let b := (s.team tk).bind
  match (s.stream b.slot).taskOf b.seq with
  | none => s.freeGang tk
  | some e => s.faultTask b.slot e.id { reason := .team, cause := i.cause.code, gidx := b.gidx, tidx := b.tidx, tval := i.tval }

def State.completeEntry (s : State) (k id : Nat) : State :=
  match (s.stream k).entry? id with
  | none => s
  | some e => if e.st = .issued then s.setStream k ((s.stream k).putEntry { e with st := .complete }) else s

/-! ### Issue -/

def nmFault (c : Cause) (a : Word) : EntryFault := { reason := .nmu, cause := c.code, gidx := 0, tidx := 0, tval := a }

/-- R344, R315: a `tnm`'s command checked, read and handed to the units; its record follows the command. -/
def issueNm (s : State) (k id : Nat) (all : Bool) (a : Word) : State :=
  let sp := s.streamSpace k
  let bad := fun (s : State) (c : Cause) => s.faultTask k id (nmFault c a)
  if a.toNat % 64 ≠ 0 then bad s .misalign
  else
    match streamXlat s k .read a with
    | (s, .error c) => bad s c
    | (s, .ok x) =>
      match streamXlat s k .write (a + 64#64) with
      | (s, .error c) => bad s c
      | (s, .ok y) =>
        if s.ms.poisoned x.pa then bad s .ueConsumed
        else
          newJob s (.task k id) k all sp.1 sp.2 false (BitVec.ofNat 512 (s.ms.homeRead x.pa 64))
            (true, y.pa, (a + 64#64).toNat) 0 0 0

/-- Whether an older task of the slot can issue too: tasks go to the firmware in decode order (R346). -/
def olderIssues (s : State) (k : Nat) (e : WEntry) : Bool :=
  ((s.stream k).older e.id).any (fun o => decide (o.st = .waiting) && o.seq.isSome && mayIssue s k o)

/-- TASK_ISSUE (R346). -/
def execTaskIssue (k id : Nat) (s : State) : Out :=
  if Config.streamSlots ≤ k then .fault .noSuchUnit
  else
    let x := s.stream k
    match x.entry? id with
    | none => .next s
    | some e =>
      if !x.active || x.ending.isSome || decide (e.seq = none) || decide (e.st ≠ .waiting) || !mayIssue s k e ||
          olderIssues s k e then .next s
      else
        let s := { s.setStream k (x.putEntry { e with st := .issued, issueNo := s.issueNo }) with issueNo := s.issueNo + 1 }
        match e.op with
        | .nm all a => .next (issueNm s k id all a)
        | _ => .next s

/-! ### Stream copies (R343) -/

/-- The next unit of a `tcopy`. -/
def copyTaskUnit (s : State) (k id : Nat) : State :=
  match (s.stream k).entry? id with
  | none => s
  | some e =>
    match e.op with
    | .copy src dst n =>
      if e.st ≠ .issued then s
      else
        let sp := s.streamSpace k
        let c : CopyCtx := { tk := none, k := k, no := 0, asn := sp.1, root := sp.2, atH := false }
        let d := fun (r : Ref) => ({ sp := 0, dec := false, addr := r.base.toNat } : CDesc)
        let bad := fun (s : State) (f : TrapInfo) =>
          s.faultTask k id { reason := .copy, cause := f.cause.code, gidx := 0, tidx := 0, tval := f.tval }
        match copyReadAll c (cpyBytes (d dst) (d src) n e.units) s with
        | (s, .error f) => bad s f
        | (s, .ok bs) =>
          match copyWrite s c 0 bs (fun _ => true) with
          | (s, some f) => bad s f
          | (s, none) =>
            let e := { e with units := e.units + 1 }
            s.setStream k ((s.stream k).putEntry { e with st := if n ≤ 256 * e.units then .complete else .issued })
    | _ => s

/-! ### Engine events -/

/-- Which engine event: the acquire phase or a unit. -/
def engineEvent (s : State) (tk eng i : Nat) (unit : Bool) : State :=
  let old := s
  let t := s.team tk
  if !t.runs then s
  else
    match (t.cq eng)[i]? with
    | none => s
    | some e =>
      let o := copOf e
      -- R306, R313: a prefetch does nothing, a fence completes once it is first
      if o.kind = .cpf then (if unit && mayBegin s tk eng i e then s.setTeam tk (t.dropC e) else s)
      else if o.kind = .cfence then (if unit && decide (i = 0) && !t.faultBefore e.no then s.setTeam tk (t.dropC e) else s)
      else
        let s := if e.idx = 0 then beginC s tk eng i e else s
        match ((s.team tk).cq eng)[i]? with
        | none => s
        | some e =>
          if decide (e.idx = 0) || !(s.team tk).cFree eng i e then s
          else if o.kind = .cpyt ∧ e.cap.isNone then captureC s tk eng e
          else if o.sync.getLsbD 0 && !e.acq then
            (if unit then s else acquireC s tk eng e)
          else if !unit then s
          else if o.kind = .cnm ∨ o.kind = .cnmAll then (cnmStep s tk eng e).wakeFe old
          else (unitC s tk eng e).wakeFe old

/-- ACQUIRE_PHASE (R72). -/
def execAcquirePhase (e : EngineRef) (s : State) : Out :=
  match e with
  | .team tk eng i => if Config.teams ≤ tk ∨ 2 ≤ eng then .fault .noSuchUnit else .next (engineEvent s tk eng i false)
  -- the tasks of a stream have no phases (R343, R344)
  | .task k _ => if Config.streamSlots ≤ k then .fault .noSuchUnit else .next s

/-- COPY_UNIT (R303). -/
def execCopyUnit (e : EngineRef) (s : State) : Out :=
  match e with
  | .team tk eng i => if Config.teams ≤ tk ∨ 2 ≤ eng then .fault .noSuchUnit else .next (engineEvent s tk eng i true)
  | .task k id => if Config.streamSlots ≤ k then .fault .noSuchUnit else .next (copyTaskUnit s k id)

/-- R355: the cause a record's status stands for. -/
def statusCause (st : Nat) : Cause :=
  match st with
  | 1 => .ueConsumed | 3 => .pageLoad | 4 => .pageStore | 5 => .protection | 6 => .misalign | 8 => .format | _ => .illegal

/-- A `tnm`'s record is written, and its task complete or Faulted (R344). -/
def completeTaskJob (s : State) (j : NmJob) (k id : Nat) : State :=
  let s := (writeRecord s j).dropJob j.id
  match (s.stream k).entry? id with
  | none => s
  | some e =>
    match e.op with
    | .nm _ a => if j.status = 0 then s.completeEntry k id else s.faultTask k id (nmFault (statusCause j.status) a)
    | _ => s

/-- The command of a team or task that has ended: its record, unless that lay in the team's local memory, and its release
phase (R324, R386). -/
def completeGone (s : State) (j : NmJob) : State :=
  let s := (if j.recG then writeRecord s j else s).dropJob j.id
  if j.sync.getLsbD 1 then (releaseAt s { tk := none, k := j.slot, no := 0, asn := j.asn, root := j.root, atH := j.atH } j.ckr).1 else s

/-- CNM_COMPLETE (R315): every share has finished. -/
def execCnmComplete (j : Nat) (s : State) : Out :=
  match s.job? j with
  | none => .next s
  | some x =>
    if !x.finished then .next s
    else
      match x.owner with
      | .team tk no => .next ((completeTeamJob s x tk no).wakeFe s)
      | .task k id => .next (completeTaskJob s x k id)
      | .gone => .next (completeGone s x)

/-! ### Completion and retirement (R43, R349, R351) -/

/-- TASK_COMPLETE (R43): every gang has ended. -/
def execTaskComplete (k id : Nat) (s : State) : Out :=
  if Config.streamSlots ≤ k then .fault .noSuchUnit
  else
    match (s.stream k).entry? id with
    | none => .next s
    | some e =>
      match e.op with
      | .launch _ _ _ _ _ =>
        if e.gangs.all (fun g => decide (g = .ended)) then .next (s.completeEntry k id) else .next s
      | _ => .next s

/-- Descriptors join the tail of their partition's free list (R334). -/
def State.freeDescs (s : State) (p : Nat) (ds : List Nat) : State :=
  let x := s.part p
  s.setPart p { x with free := x.free ++ ds.filterMap x.desc? }

/-- The descriptors that a slot's retired map names. -/
def Stream.heldDescs (x : Stream) : List Nat := x.rmap.filterMap (fun e => e.2.held)

/-- A slot gives back what its last stream's retired map still names. Log 58 (DEDUCED, unsafe). -/
def State.freeHeld (s : State) (k : Nat) : State :=
  let x := s.stream k
  (s.setStream k { x with rmap := [] }).freeDescs x.part x.heldDescs

/-- The retired map after an entry, with the descriptors its retirement frees (R335 to R337, R349). -/
def retireMap (m : List (Nat × LBuf)) (e : WEntry) : List (Nat × LBuf) × List Nat :=
  let old := match e.oldDesc with | some d => [d] | none => []
  match e.op with
  | .buf lb n f pl => (put m lb (.renamable n f pl none), old)
  | .bind lb b =>
    match look .undeclared m lb with
    | .undeclared => (m, old)
    | .renamable n f pl _ => (put m lb (.fixed n f pl b), old)
    | .fixed n f pl _ => (put m lb (.fixed n f pl b), old)
  | .free lb => (drop m lb, old)
  | _ =>
    e.renamed.foldl (fun (a : List (Nat × LBuf) × List Nat) r =>
      match look .undeclared a.1 r.1 with
      | .renamable n f pl d =>
        (put a.1 r.1 (.renamable n f pl (some r.2)), a.2 ++ (match d with | some x => [x] | none => []))
      | _ => a) (m, [])

/-- The watchdog period of a stream (R367, R377). -/
def wdPeriod (s : State) (k : Nat) : BitVec 32 :=
  let x := s.stream k
  if x.lrec.wdper = 0#32 then (s.part x.part).wdper else x.lrec.wdper

/-- The head entry leaves the window (R349); its retirement reloads the watchdog (R377). -/
def retireHead (s : State) (k : Nat) (e : WEntry) : State :=
  let x := s.stream k
  let r := retireMap x.rmap e
  (s.setStream k { x with window := x.window.drop 1, rmap := r.1, wdLeft := wdPeriod s k }).freeDescs x.part r.2

/-- An entry becomes Faulted at its own memory access. -/
def State.entryFault (s : State) (k : Nat) (e : WEntry) (f : TrapInfo) : State :=
  s.setStream k ((s.stream k).putEntry
    { e with st := .faulted,
             fault := some { reason := .streamMem, cause := f.cause.code, gidx := 0, tidx := 0, tval := f.tval } })

/-- The writes to peers that a stream is to wait for. -/
def Unack.ofStream (k : Nat) (u : Unack) : Bool := decide (u.who = .stream k)

/-- ENTRY_RETIRE (R349, R351): a `tsig` is a release at system scope, which waits for the peers' acknowledgments of its stream's
writes and becomes Faulted where one can no longer come (R401). -/
def execEntryRetire (k : Nat) (s : State) : Out :=
  if Config.streamSlots ≤ k then .fault .noSuchUnit
  else
    match (s.stream k).window with
    | [] => .next s
    | e :: _ =>
      if e.st ≠ .complete then .next s
      else
        match e.op with
        | .sig knot inc =>
          match streamKnot s k .write knot with
          | (s, .error f) => .next (s.entryFault k e f)
          | (s, .ok x) =>
            match s.ms.ackWait (Unack.ofStream k) with
            | .waits => .next s
            | .lost a => .next ((s.reported (Unack.ofStream k)).entryFault k e (ti .pageStore a))
            | .done =>
            .next (retireHead (({ s with ms := s.ms.markWrite x knot.toNat } : State).knotAdd x.pa inc.toNat) k e)
        | _ => .next (retireHead s k e)

/-- TWAIT_COMPLETE (R352). -/
def execTwaitComplete (k id : Nat) (s : State) : Out :=
  if Config.streamSlots ≤ k then .fault .noSuchUnit
  else
    match (s.stream k).entry? id with
    | none => .next s
    | some e =>
      match e.op with
      | .wait knot thr =>
        if e.st ≠ .waiting then .next s
        else
          match streamKnot s k .read knot with
          | (s, .error f) => .next (s.entryFault k e f)
          | (s, .ok x) =>
            if knotCount s x.pa < thr.toNat then .next s
            else .next (s.setStream k ((s.stream k).putEntry { e with st := .complete }))
      | _ => .next s

/-! ### Faults taken (R356, R357) -/

/-- A squashed entry's gangs and queued work are gone; a near-memory command already handed over runs on. -/
def squash (s : State) (k : Nat) (e : WEntry) : State :=
  let s := match e.op, e.seq with
    | .launch _ _ _ _ _, some n => s.dropTask k n
    | _, _ => s
  { s with jobs := s.jobs.map (fun j => if j.owner = .task k e.id then { j with owner := .gone } else j) }

/-- Every entry of a list, youngest first. -/
def squashAll (s : State) (k : Nat) (es : List WEntry) : State := es.reverse.foldl (fun s e => squash s k e) s

/-- TASK_FAULT_TAKEN (R356). -/
def execTaskFaultTaken (k : Nat) (s : State) : Out :=
  if Config.streamSlots ≤ k then .fault .noSuchUnit
  else
    match (s.stream k).window with
    | [] => .next s
    | e :: young =>
      match e.fault with
      | none => .next s
      | some f =>
        if e.st ≠ .faulted then .next s
        else
          let s := squash (squashAll s k young) k e
          let descs := (young ++ [e]).flatMap (fun x => x.renamed.map Prod.snd)
          let x := s.stream k
          let rec' : FaultRecord :=
            { topAddr := e.snapSpc, seq := e.snapSeq, reason := f.reason.code, cause := f.cause, gidx := f.gidx,
              tidx := f.tidx, tval := f.tval }
          .next ((s.setStream k { x with
            window := [], spc := e.snapSpc, t := e.snapT, smap := e.snapMap, seq := e.snapSeq, faultRec := some rec'
            stopped := true }).freeDescs x.part descs)

/-! ### Deferred pages (R360) -/

/-- R360: TVAL lies in the deferred range of the stream's launch record. -/
def deferredAt (r : LaunchRec) (a : Nat) : Bool :=
  decide (r.defbase.toNat ≤ a) && decide (a < r.defbase.toNat + r.deflen.toNat)

/-- A team's page fault in the deferred range. -/
def deferredFault (x : Stream) (f : FaultRecord) : Bool :=
  decide (f.reason = 1) && (decide (f.cause = Cause.pageLoad.code) || decide (f.cause = Cause.pageStore.code)) &&
  deferredAt x.lrec f.tval.toNat

end Sys2Proof.Machine
end

