-- ==== Sys2Proof/Machine/Sched.lean ====
section
/-! DEFINITION. Placing, arming, starting, pre-empting, saving and resuming gangs (R19, R27 to R36, R75, R154, R166 to
R169, R348, R362 to R366, R380). -/

namespace Sys2Proof.Machine

/-! ### Power floors (R362, R380) -/

/-- Fixed draw of a cluster and the most ballast it can draw, in position units (R379, R380). -/
def staticUnits : Nat := 8192
def maxBallast : Nat := 4096

/-- Units of a number of watts, at 4 mW a unit. -/
def wattUnits (w : Nat) : Nat := w * 250

/-- R380: the class floor in positions. Log 44 (DEDUCED, unsafe). -/
def clsFloor (cls : Nat) : Nat := match cls with | 0 => 256 | 1 => 128 | _ => 64

/-- Position units of a capacity (R379). -/
def posUnits (prot : Bool) (p : Nat) : Nat := if prot then 2 * p else p

/-- The share of a pair's budget the operator's policy sets (R380). -/
def State.pairWatts (s : State) (p : Nat) : Nat := look 140 s.pairW p

/-- The teams resident on a cluster. -/
def State.resident (s : State) (c : Nat) : List (Nat × Team) :=
  s.teams.filter (fun e => decide (clusterOf e.1 = c) && e.2.present)

/-- The class floors of a cluster's teams in units. -/
def floorUnits (s : State) (c : Nat) : Nat :=
  (s.resident c).foldl (fun n e => n + posUnits e.2.bind.prot (clsFloor e.2.bind.cls)) 0

/-- R380: the ballast the cluster with fewer units must draw to balance the other. -/
def needBallast (hi lo : Nat) : Nat := (10 * (staticUnits + hi) + 10) / 11 - (staticUnits + lo)

/-- R380: whether a pair whose clusters draw these totals stays within its balance and its budget. -/
def pairFits (budget a b : Nat) : Bool :=
  let g := needBallast (max a b) (min a b)
  decide (g ≤ maxBallast) && decide (2 * staticUnits + a + b + g ≤ budget)

/-- The budget without leases covers the floors of a pair with `extra` more units on cluster c. -/
def floorsFit (s : State) (c extra : Nat) : Bool :=
  pairFits (wattUnits (s.pairWatts (c / 2))) (floorUnits s c + extra) (floorUnits s (c + 1 - 2 * (c % 2)))

/-! ### Where a team fits (R19, R27, R362, R364) -/

/-- R391, R403: a core that takes no new team. -/
def Core.closed (c : Core) : Bool :=
  match c.wearState with
  | .healthy | .derated => false
  | .drained | .retired => true

/-- The units an allocation includes, units 44 to 47 being the reserve. -/
def usesReserve (lmb lmu : Nat) : Bool := decide (44 < lmb + lmu)

/-- Whether a slot of a core takes a team of class cls with this allocation. -/
def teamFits (s : State) (core slot lmb lmu cls : Nat) : Bool :=
  let t := s.team (2 * core + slot)
  let o := s.team (2 * core + (1 - slot))
  decide (slot < 2) && decide (core < Config.cores) && !t.present && decide (1 ≤ lmu) && decide (lmb + lmu ≤ 48) &&
  !(s.ms.core core).closed &&
  (!o.present || decide (lmb + lmu ≤ o.bind.lmb) || decide (o.bind.lmb + o.bind.lmu ≤ lmb)) &&
  (decide (lmu + (if o.present then o.bind.lmu else 0) ≤ 44) ||
    ((!usesReserve lmb lmu || decide (cls = 0)) && (!o.present || !usesReserve o.bind.lmb o.bind.lmu || decide (o.bind.cls = 0))))

/-- Some slot and allocation of a core take the team. -/
def coreTakes (s : State) (core lmu cls : Nat) : Bool :=
  [0, 1].any (fun slot => (List.range (49 - lmu)).any (fun lmb => teamFits s core slot lmb lmu cls))

/-- A cluster of the partition at which binding is open. -/
def clusterOpen (s : State) (p c : Nat) : Bool :=
  let x := s.part p
  x.pairs.contains (c / 2) && !x.draining && decide ((s.cluster c).level ≠ .trip)

/-- A cluster has room for a gang of n teams. -/
def clusterTakes (s : State) (p c n lmu cls : Nat) (prot : Bool) : Bool :=
  clusterOpen s p c &&
  decide (n ≤ (((List.range 8).map (8 * c + ·)).filter (fun core => coreTakes s core lmu cls)).length) &&
  floorsFit s c (n * posUnits prot (clsFloor cls))

/-- Some cluster of the partition has room. -/
def placeable (s : State) (p n lmu cls : Nat) (prot : Bool) : Bool :=
  (List.range Config.clusters).any (fun c => clusterTakes s p c n lmu cls prot)

/-! ### Which gang comes next (R31, R348, R362) -/

/-- R348: every gang of every producer of a chained consumer is bound, none of them pre-empted, or has ended. -/
def producersBound (s : State) (k : Nat) (e : WEntry) : Bool :=
  !e.after || ((s.stream k).older e.id).all (fun o => !e.producedBy o ||
    (o.gangs.all (fun g => decide (g = .bound) || decide (g = .ended)) &&
      (s.teamsOfTask k (o.seq.getD 0#64)).all (fun tk => decide ((s.team tk).status ≠ .halted))))

/-- The first waiting gang of an issued task, every lower one having been bound and none of them saved. -/
def nextGang (e : WEntry) : Option Nat :=
  if e.st ≠ .issued then none
  else
    match e.gangs.zipIdx.find? (fun g => decide (g.1 ≠ .bound) && decide (g.1 ≠ .ended)) with
    | some (.waiting, i) => some i
    | _ => none

/-- A gang that waits to be bound, as the order of R362 ranks it. -/
structure Waiting where
  k    : Nat
  id   : Nat
  cls  : Nat
  no   : Nat
  gsz  : Nat
  lmu  : Nat
  prot : Bool
  deriving DecidableEq, Repr

/-- The waiting gangs of a partition, one of each task: a task's gangs bind in order. -/
def waitingGangs (s : State) (p : Nat) : List Waiting :=
  (s.streams.filter (fun x => x.2.active && decide (x.2.part = p))).flatMap (fun x =>
    x.2.window.filterMap (fun e =>
      match e.op, nextGang e with
      | .launch _ _ gsz lmu _, some _ =>
        if producersBound s x.1 e then
          some { k := x.1, id := e.id, cls := x.2.lrec.cls.toNat, no := e.issueNo, gsz := gsz, lmu := lmu, prot := x.2.lrec.prot }
        else none
      | _, _ => none))

/-- R362: no earlier waiting gang of the partition could be placed now. -/
def firstPlaceable (s : State) (p : Nat) (w : Waiting) : Bool :=
  (waitingGangs s p).all (fun v =>
    !(decide (v.cls < w.cls) || (decide (v.cls = w.cls) && decide (v.no < w.no))) || !placeable s p v.gsz v.lmu v.cls v.prot)

/-! ### Binding (R362, R364) -/

/-- Places on distinct cores of one open cluster of the partition, each with room, within the power floors. -/
def placesOk (s : State) (p gsz lmu cls : Nat) (prot : Bool) (places : List Placement) : Bool :=
  match places with
  | [] => false
  | x :: _ =>
    let c := x.core / 8
    decide (places.length = gsz) && decide (gsz ≤ 8) && clusterOpen s p c &&
    places.all (fun y => decide (y.core / 8 = c) && teamFits s y.core y.slot y.lmb lmu cls) &&
    decide ((places.map (fun y => y.core)).Nodup) && floorsFit s c (gsz * posUnits prot (clsFloor cls))

/-- R391: none of a cluster's cores that could take a team of the gang, as `cand` says, is less worn than a core chosen and
is not chosen itself. Log 92 (DEDUCED, unsafe). -/
def leastWorn (s : State) (cand : Nat → Bool) (places : List Placement) : Bool :=
  places.all (fun y => (List.range 8).all (fun i =>
    let core := y.core / 8 * 8 + i
    places.any (fun z => decide (z.core = core)) || !cand core || decide ((s.ms.core y.core).wear ≤ (s.ms.core core).wear)))

/-- The capacity of a team just bound or resumed, up to the next epoch: its class floor, within the cluster's level (R380, R387). -/
def bindCap (s : State) (core cls : Nat) : Nat :=
  match (s.cluster (core / 8)).level with
  | .l2 | .trip => min 64 (clsFloor cls)
  | .l0 | .l1 => clsFloor cls

/-- A team has been bound in a slot since the last wear sample (R390). -/
def State.noteBound (s : State) (tk : Nat) : State :=
  let c := s.ms.core (coreOf tk)
  let k := (s.team tk).bind.slot
  { s with ms := s.ms.setCore (coreOf tk) { c with used := c.used ++ [(tk, k, (s.stream k).serial)] } }

/-- One bind record (R364), from what the task's entry, its kernel and its partition give. Log 8 (DESIGN CHOICE, safe). -/
def bindRecord (s : State) (k : Nat) (e : WEntry) (gidx tidx : Nat) (y : Placement) : BindRec :=
  let x := s.stream k
  let sp := s.streamSpace k
  match e.op with
  | .launch ker gcnt gsz lmu args =>
    let o := s.kernelOf k ker
    let base := match o with | some z => z.1.base | none => 0
    let ent := match o with | some z => z.2.entry | none => 0
    let lt := match o with | some z => if z.1.obj.imports = 0 then 0 else (base + z.1.obj.ltOff : Int).toNat | none => 0
    let tk := 2 * y.core + y.slot
    { v := true, arm := false, entry := BitVec.ofNat 64 (base + ent), ltb := BitVec.ofNat 64 lt, argp := Config.argBlock tk,
      args := args, asn := sp.1, root := sp.2, tvec := Config.handlerVec x.part &&& 0x01FFFFFFFFFFFFFC#64,
      hdata := Config.handlerData tk, seq := e.seq.getD 0#64, gidx := gidx, gcnt := gcnt, cls := x.lrec.cls.toNat,
      gsz := gsz, tidx := tidx, lmb := y.lmb, lmu := lmu, prot := x.lrec.prot, slot := k }
  | _ => BindRec.reset

/-- R214, R277, R299: a team bound to a slot starts with the other slot's virtual times. -/
def Team.joins (t other : Team) : Team := { t with vt := other.vt, mvt := other.mvt, cvt0 := other.cvt0, cvt1 := other.cvt1 }

/-- GANG_BIND (R362). Log 44 (DEDUCED, unsafe). -/
def execGangBind (k id gidx : Nat) (places : List Placement) (s : State) : Out :=
  if Config.streamSlots ≤ k then .fault .noSuchUnit
  else
    let x := s.stream k
    match x.entry? id with
    | none => .next s
    | some e =>
      match e.op with
      | .launch _ _ gsz lmu _ =>
        let w : Waiting :=
          { k := k, id := id, cls := x.lrec.cls.toNat, no := e.issueNo, gsz := gsz, lmu := lmu, prot := x.lrec.prot }
        if x.active && decide (nextGang e = some gidx) && producersBound s k e && firstPlaceable s x.part w &&
            placesOk s x.part gsz lmu w.cls w.prot places && leastWorn s (fun core => coreTakes s core lmu w.cls) places then
          let s := places.zipIdx.foldl (fun (s : State) y =>
            (s.setTeam (2 * y.1.core + y.1.slot)
              (({ Team.reset with status := .bound, cap32 := bindCap s y.1.core x.lrec.cls.toNat, bind := bindRecord s k e gidx y.2 y.1 } : Team).joins
                (s.team (otherSlot (2 * y.1.core + y.1.slot))))).noteBound (2 * y.1.core + y.1.slot)) s
          .next (s.setGang k (e.seq.getD 0#64) gidx .bound)
        else .next s
      | _ => .next s

/-! ### Arming and starting (R28, R34 to R36, R365, R366) -/

/-- The team slots a mask names in a cluster's table (R364). -/
def maskSlots (c : Nat) (m : BitVec 16) : List Nat := ((List.range 16).filter (fun i => m.getLsbD i)).map (16 * c + ·)

/-- GANG_ARM (R365): all of a gang's records or nothing. -/
def execGangArm (c : Nat) (m : BitVec 16) (s : State) : Out :=
  if Config.clusters ≤ c then .fault .noSuchUnit
  else
    let tks := maskSlots c m
    let s := s.setCluster c { s.cluster c with armMask := m }
    let whole := tks.all (fun tk => (s.gang tk).all (fun e => tks.contains e.1))
    if whole && tks.all (fun tk => (s.team tk).bind.v && decide ((s.team tk).status = .bound)) then
      .next (tks.foldl (fun (s : State) tk =>
        s.setTeam tk { s.team tk with status := .armed, bind := { (s.team tk).bind with arm := true } }) s)
    else .next s

/-- Arguments in s1 upward. -/
def argRegs : Nat → List Word → List (Nat × Word) → List (Nat × Word)
  | _, [], r => r
  | n, a :: as, r => argRegs (n + 1) as (if n ≤ 8 then store 0#64 r n a else r)

/-- The scalar registers at a team's first bundle (R34). -/
def startRegs (b : BindRec) : List (Nat × Word) :=
  let w := fun (n : Nat) => BitVec.ofNat 64 n
  let r := argRegs 1 b.args []
  let r := store 0#64 r 9 (w b.gidx)
  let r := store 0#64 r 10 (w b.gcnt)
  let r := store 0#64 r 11 (w b.tidx)
  let r := store 0#64 r 12 (w b.gsz)
  let r := store 0#64 r 13 (w (b.lmu * 65536))
  let r := store 0#64 r 14 b.seq
  let r := store 0#64 r 29 b.ltb
  store 0#64 r 30 (w (b.lmu * 65536))

/-- The slot at a team's first bundle (R34, R35). -/
def startTeam (t : Team) : Team :=
  { Team.reset with status := .running, bind := t.bind, regs := startRegs t.bind, pc := t.bind.entry, cap32 := t.cap32,
                    preemptReq := t.preemptReq, vt := t.vt, mvt := t.mvt, cvt0 := t.cvt0, cvt1 := t.cvt1 }

/-- The LM image of the object a kernel's entry lies in (R36, R184). -/
def lmImage (s : State) (t : Team) : List Byte :=
  match (s.part (s.stream t.bind.slot).part).apps.flatMap (fun a => a.objs) |>.find?
      (fun o => decide (o.base ≤ t.bind.entry.toNat) && decide (t.bind.entry.toNat < o.base + o.obj.size)) with
  | some o => match o.obj.sections.find? (fun x => decide (x.kind = 4)) with
    | some x => x.bytes
    | none => []
  | none => []

/-- Local memory at team start (R36): the image from offset 0, zero elsewhere, its granules full, no poison. -/
def MemSys.startLm (m : MemSys) (core base size : Nat) (img : List Byte) : MemSys :=
  let lo := lmKey core base
  let img := img.take size
  let lm := dropRange m.lm lo (lo + size)
  let lm := img.zipIdx.foldl (fun (l : List Host.Cell) b => store 0#8 l (lo + b.2) b.1) lm
  let fe := dropRange m.fe (lo / 16) ((lo + size) / 16)
  let fe := (List.range ((img.length + 15) / 16)).foldl (fun (l : List (Nat × Bool)) g => store false l (lo / 16 + g) true) fe
  { m with lm := lm, fe := fe, lmPoison := m.lmPoison.filter (fun b => !(decide (lo / 64 ≤ b) && decide (b < (lo + size) / 64))) }

/-- A team starts, or goes on where it was halted (R29, R35, R75). -/
def State.startSlot (s : State) (tk : Nat) : State :=
  let t := s.team tk
  let s := { s with ms := s.ms.dropLines (coreOf tk) (fun l => decide (l.dirty = 0#64)) }
  if t.resume then
    let s := s.setTeam tk { t with resume := false, status := t.was }
    -- a call still to be answered waits at the new slot (R157)
    match t.was, t.call with
    | .forwarded, some n => { s with syscalls := s.syscalls ++ [{ caller := .team tk, num := n }] }
    | _, _ => s
  else
    { s.setTeam tk (startTeam t) with
      ms := ((s.ms.startLm (coreOf tk) t.lmBase t.lmSize (lmImage s t)).setLinks tk []) }

/-- TEAM_START (R365): every team of an armed gang at once. -/
def execTeamStart (k id gidx : Nat) (s : State) : Out :=
  if Config.streamSlots ≤ k then .fault .noSuchUnit
  else
    match (s.stream k).entry? id with
    | none => .next s
    | some e =>
      let tks := (s.teamsOfTask k (e.seq.getD 0#64)).filter (fun tk => decide ((s.team tk).bind.gidx = gidx))
      if tks.all (fun tk => decide ((s.team tk).status = .armed)) then .next (tks.foldl State.startSlot s) else .next s

/-- START_PHASE_TABLE_WRITE (R366). -/
def execStartPhaseTableWrite (c v : Nat) (s : State) : Out :=
  if Config.clusters ≤ c then .fault .noSuchUnit
  else .next (s.setCluster c { s.cluster c with phase := BitVec.ofNat 6 v })

/-! ### Pre-emption (R29, R31, R154, R166 to R168, R348) -/

/-- The restart points ES, MK and CP show after pre-emption (R166). -/
def Team.showPoints (t : Team) : Team :=
  match t.image with
  | none => t
  | some q =>
    let es := match viqCurrent q.viq with | some e => e.start | none => 0
    { t with ctl := { t.ctl with
      es := BitVec.ofNat 16 es, mkp := BitVec.ofNat 16 (oldestStart q.mq), cp := BitVec.ofNat 64 (oldestStart (q.cq0 ++ q.cq1)) } }

/-- A queued trap whose older syllables have all completed. -/
def Team.readyTrap (t : Team) : Option (QEntry × TrapInfo) :=
  match queuedTrap t with
  | some x => if x.2.2 then some (x.1, x.2.1) else none
  | none => none

/-- Halts a running team at its boundary (R153, R154, R167): a PREEMPT trap at A-level, unless a queued trap falls on the
same boundary, whose handler the team then enters on resumption; at H-level the first trap's registers stay. Log 25
(DEDUCED, safe). -/
def Team.halt (t : Team) : Team :=
  let stop := fun (t : Team) => { t with status := .halted, was := .running, acqBind := none, held := false, preemptReq := false }
  match t.level with
  -- a `tret` whose own syllables are issued is tried again without issuing them (R163)
  | .h => stop { t with wake := t.wake.map (fun _ => true), q := t.q.again }
  | .a =>
    match t.readyTrap with
    | some x => stop (t.takeTrap x.2 (qopCls x.1.op) (some x.1) t.pc)
    | none =>
      -- a `wfe` hold ends with the request (R165)
      stop ({ (t.trapState { cause := .preempt, tval := 0 } .s none t.pc) with wake := t.wake.map (fun _ => true) } : Team).showPoints

/-- The slot is halted, whatever it was doing; a gang bound and not started goes back to wait. -/
def State.haltSlot (s : State) (tk : Nat) : State :=
  let t := s.team tk
  let s := { s with ms := s.ms.setLinks tk [] }
  match t.status with
  | .running => s.setTeam tk t.halt
  | .exiting | .forwarded | .escalating | .heldDebug | .ended =>
    -- what a probe pass has pinned is free: the access translates again (R181)
    s.setTeam tk { t with status := .halted, was := t.status, preemptReq := false, q := t.q.unpin }
  | .bound | .armed =>
    if t.resume then s.setTeam tk { t with status := .halted, preemptReq := false }
    else (s.setGang t.bind.slot t.bind.seq t.bind.gidx .waiting).freeSlot tk
  | .empty | .halted => s

/-- Tasks whose teams go with a task's when it is pre-empted: chained consumers of its output (R348). -/
def chainedConsumers (x : Stream) : Nat → List Nat → List Nat
  | 0, ids => ids
  | n + 1, ids =>
    let more := x.window.filter (fun e => e.after && !ids.contains e.id &&
      (x.older e.id).any (fun o => ids.contains o.id && e.producedBy o))
    if more.isEmpty then ids else chainedConsumers x n (ids ++ more.map (fun e => e.id))

/-- The slots halted with the one named: its gang, every bound gang of its task with a higher index, and the gangs of
chained consumers (R29, R31, R348). -/
def State.haltSet (s : State) (tk : Nat) : List Nat :=
  let b := (s.team tk).bind
  let x := s.stream b.slot
  let own := (s.teamsOfTask b.slot b.seq).filter (fun u => decide (b.gidx ≤ (s.team u).bind.gidx))
  let cons := match x.taskOf b.seq with
    | none => []
    | some e =>
      ((chainedConsumers x x.window.length [e.id]).filter (fun i => i ≠ e.id)).flatMap (fun i =>
        match x.entry? i with
        | some c => s.teamsOfTask b.slot (c.seq.getD 0#64)
        | none => [])
  own ++ cons

/-- Whether a stream has a team bound that is not pre-empted. -/
def State.anyBound (s : State) (k : Nat) : Bool := (s.teamsOf k).any (fun tk => decide ((s.team tk).status ≠ .halted))

/-- A lease expires (R383). Log 45 (DEDUCED, unsafe). -/
def Lease.expire (l : Lease) : Lease := { l with st := .expired, left := 0, lapsed := some l.left }

/-- A lease after a pre-emption (R384): suspended where no team of the stream is bound any more; one due to expire by the next
epoch expires first (R392). -/
def State.leaseCheck (s : State) (k : Nat) : State :=
  let x := s.stream k
  if x.lease.st = .active ∧ s.anyBound k = false then
    s.setStream k { x with lease :=
      if x.lease.left.toNat ≤ 10 then x.lease.expire else { x.lease with st := .suspended } }
  else s

/-- Halts the gang of a slot and those that go with it. -/
def State.haltGang (s : State) (tk : Nat) : State := if (s.team tk).present then (s.haltSet tk).foldl State.haltSlot s else s

/-- Pre-empts the gang of a slot and those that go with it. -/
def State.preempt (s : State) (tk : Nat) : State :=
  if (s.team tk).present then (s.haltGang tk).leaseCheck (s.team tk).bind.slot else s

/-- Whether a gang of class 0 of a partition waits for a place that it does not find (R362). -/
def roomWanted (s : State) (p : Nat) : Bool :=
  (waitingGangs s p).any (fun w => decide (w.cls = 0) && !placeable s p w.gsz w.lmu w.cls w.prot) ||
  s.streams.any (fun x => x.2.active && decide (x.2.part = p) && decide (x.2.lrec.cls = 0#2) &&
    x.2.window.any (fun e => match e.op with
      | .launch _ _ gsz lmu _ => e.gangs.contains .saved && !placeable s p gsz lmu 0 x.2.lrec.prot
      | _ => false))

/-- PREEMPTION_REQUEST (R167): to make room, only for class 0 and only of classes 1 to 3 (R362, R363); for a drain that has asked
for it (R377); to move a gang, whose lease continues (R384). -/
def execPreemptionRequest (req : PreemptReq) (s : State) : Out :=
  let tk := req.tk
  if Config.teams ≤ tk then .fault .noSuchUnit
  else
    let t := s.team tk
    match req.why with
    | .room => if decide (t.bind.cls ≠ 0) && roomWanted s (s.stream t.bind.slot).part then .next (s.preempt tk) else .next s
    | .drain => if t.preemptReq then .next (s.preempt tk) else .next s
    | .migrate => .next (s.haltGang tk)

/-! ### Context save and resumption (R29, R168, R169, R324) -/

/-- The listed keys of a range, as offsets from its start. -/
def cutRange {α : Type} (m : List (Nat × α)) (lo hi : Nat) : List (Nat × α) :=
  (m.filter (fun e => decide (lo ≤ e.1) && decide (e.1 < hi))).map (fun e => (e.1 - lo, e.2))

/-- Puts saved keys back in a range, whatever stood there before. -/
def pasteRange {α : Type} [DecidableEq α] (d : α) (m : List (Nat × α)) (lo hi : Nat) (x : List (Nat × α)) : List (Nat × α) :=
  x.foldl (fun m e => store d m (lo + e.1) e.2) (dropRange m lo hi)

/-- CONTEXT_SAVE (R168): once no near-memory command of the team is with the units, its context goes to the saved ones and
its slot is free. Log 24 (DEDUCED, safe). -/
def execContextSave (tk : Nat) (s : State) : Out :=
  if Config.teams ≤ tk then .fault .noSuchUnit
  else
    let t := s.team tk
    if decide (t.status ≠ .halted) || s.jobs.any (fun j => j.ofTeam tk) ||
        s.ms.unacked.any (fun u => decide (u.who = Sender.team tk) && !u.dead) then .next s
    else
      let s := { s with ms := s.ms.cleanLines (coreOf tk) (fun l => (lostAddr s.ms l).isNone) }
      let lo := lmKey (coreOf tk) t.lmBase
      let hi := lo + t.lmSize
      let x : SavedTeam :=
        { team := t, k := t.bind.slot, seq := t.bind.seq, gidx := t.bind.gidx, tidx := t.bind.tidx,
          lm := cutRange s.ms.lm lo hi, fe := cutRange s.ms.fe (lo / 16) (hi / 16)
          lmPoison := (s.ms.lmPoison.filter (fun b => decide (lo / 64 ≤ b) && decide (b < hi / 64))).map (· - lo / 64)
          unacked := s.ms.unacked.filter (fun u => decide (u.who = Sender.team tk)) }
      let s := { s with ms := s.ms.dropUnacked (fun u => decide (u.who = Sender.team tk)) }
      let s := { s.freeSlot tk with saved := s.saved ++ [x] }
      let n := (s.saved.filter (fun y => decide (y.k = x.k) && decide (y.seq = x.seq) && decide (y.gidx = x.gidx))).length
      .next (if n = t.bind.gsz then s.setGang x.k x.seq x.gidx .saved else s)

/-- A halted A-level team as it goes on: its queues and results in flight as they stood (R160, R166). -/
def Team.goOn (t : Team) : Team :=
  match t.level, t.was, t.image with
  | .a, .running, some q =>
    ({ t with
      q := q.again, image := none, under := [], vec := (t.under.head?.map UnderCut.vec).getD t.vec, pc := t.ctl.tpc
      ctl := { t.ctl with es := 0, mkp := 0, cp := 0 } } : Team).rearm
  | _, _, _ => t

/-- Commands of a saved team take their places in the new core's queues before any other (R298). -/
def Queues.unplaced (q : Queues) : Queues :=
  { q with cq0 := q.cq0.map (fun e => { e with ceNo := 0 }), cq1 := q.cq1.map (fun e => { e with ceNo := 0 }) }

/-- A saved team written into a slot, to be armed again. -/
def State.restore (s : State) (x : SavedTeam) (y : Placement) : State :=
  let tk := 2 * y.core + y.slot
  let t := x.team.goOn
  let b := { t.bind with lmb := y.lmb, arm := false, v := true }
  let lo := lmKey y.core (y.lmb * 65536)
  let hi := lo + b.lmu * 65536
  let keep := s.ms.lmPoison.filter (fun p => !(decide (lo / 64 ≤ p) && decide (p < hi / 64)))
  let t := { t with q := t.q.unplaced, image := t.image.map Queues.unplaced, ceNo := 0 }
  let s := (s.setTeam tk (({ t with bind := b, status := .bound, resume := true, cap32 := bindCap s y.core b.cls } : Team).joins
    (s.team (otherSlot tk)))).noteBound tk
  { s with
    ms := { s.ms with
      unacked := s.ms.unacked ++ x.unacked.map (fun u => { u with who := Sender.team tk })
      lm := pasteRange 0#8 s.ms.lm lo hi x.lm
      fe := pasteRange false s.ms.fe (lo / 16) (hi / 16) x.fe
      lmPoison := keep ++ x.lmPoison.map (· + lo / 64) } }

/-- The elements a saved team holds: the largest of GL and the GL captured by its queued syllables (R169). -/
def SavedTeam.held (x : SavedTeam) : Nat :=
  let q := x.team.q.all ++ (match x.team.image with | some q => q.all | none => [])
  q.foldl (fun n e => max n e.gl) x.team.ctl.gl.toNat

/-- R218: the core's lanes hold every live element. -/
def lanesSuit (s : State) (x : SavedTeam) (core : Nat) : Bool :=
  decide (x.held ≤ vlmax (lanes (s.ms.core core).lmap x.team.bind.prot) x.team.ctl.width)

/-- R169, R218: a core suits every saved team of a gang. -/
def savedSuits (s : State) (k : Nat) (n : Word) (gidx core : Nat) : Bool :=
  s.saved.all (fun z => !(decide (z.k = k) && decide (z.seq = n) && decide (z.gidx = gidx)) || lanesSuit s z core)

/-- GANG_RESUME (R29): a saved gang is placed whole, lower gangs of its task and the producers of a chained consumer being
bound or ended. -/
def execGangResume (k id gidx : Nat) (places : List Placement) (s : State) : Out :=
  if Config.streamSlots ≤ k then .fault .noSuchUnit
  else
    let x := s.stream k
    match x.entry? id with
    | none => .next s
    | some e =>
      match e.op with
      | .launch _ _ gsz lmu _ =>
        let n := e.seq.getD 0#64
        let lower := (e.gangs.take gidx).all (fun g => decide (g = .bound) || decide (g = .ended))
        let suits := places.zipIdx.all (fun y => s.saved.all (fun z =>
          !(decide (z.k = k) && decide (z.seq = n) && decide (z.gidx = gidx) && decide (z.tidx = y.2)) || lanesSuit s z y.1.core))
        let cand := fun (core : Nat) => coreTakes s core lmu x.lrec.cls.toNat && savedSuits s k n gidx core
        if x.active && decide (e.gangs[gidx]? = some .saved) && lower && producersBound s k e && suits &&
            placesOk s x.part gsz lmu x.lrec.cls.toNat x.lrec.prot places && leastWorn s cand places then
          let mine := fun (y : SavedTeam) => decide (y.k = k) && decide (y.seq = n) && decide (y.gidx = gidx)
          let s := places.zipIdx.foldl (fun (s : State) y =>
            match s.saved.find? (fun z => mine z && decide (z.tidx = y.2)) with
            | some z => s.restore z y.1
            | none => s) s
          .next ({ s with saved := s.saved.filter (fun y => !mine y) } |>.setGang k n gidx .bound)
        else .next s
      | _ => .next s

end Sys2Proof.Machine
end

