-- ==== Sys2Proof/Machine/Slots.lean ====
section
/-! DEFINITION. Events at a team slot that no syllable brings: the end of a hold, landing slots, escalation and the resident OS's
answer, instruction fills, evictions (R17, R54, R151, R158, R160, R165, R419). -/

namespace Sys2Proof.Machine

/-- HELD_BUNDLE_RELEASE (R151): the held bundle has the next turn. -/
def execHeldBundleRelease (tk : Nat) (s : State) : Out :=
  if Config.teams ≤ tk then .fault .noSuchUnit
  else if (s.team tk).held then .next { s with agenda := .bundle tk :: s.agenda }
  else .next s

/-- WFE_TIMEOUT (R165): the hold has lasted 4,096 cycles. -/
def execWfeTimeout (tk : Nat) (s : State) : Out :=
  if Config.teams ≤ tk then .fault .noSuchUnit else .next (s.setTeam tk (s.team tk).wakeUp)

/-- LANDING_SLOT_LAND (R160): results whose count has run out are written. -/
def execLandingSlotLand (tk : Nat) (s : State) : Out :=
  if Config.teams ≤ tk then .fault .noSuchUnit
  else if (s.team tk).status = .running then .next (s.setTeam tk (s.team tk).land)
  else .next s

/-! ### Escalation (R158, R419) -/

/-- The queued syllables still to complete before an escalation: those no fault stops. -/
def Team.toDrain (t : Team) : List QEntry := t.q.all.filter (fun e => !t.faultBefore e.no)

/-- The cause of the trap first delivered to a team's handler, as TCAUSE holds it (R155). -/
def causeOf (n : Nat) : Cause :=
  match n with
  | 0x02 => .bundleForm | 0x03 => .misalign | 0x04 => .lmalign | 0x05 => .lmrange | 0x06 => .pageLoad | 0x07 => .pageStore
  | 0x08 => .protection | 0x09 => .format | 0x0A => .breakpoint | 0x0B => .syscall | 0x0C => .ueConsumed
  | 0x0D => .mirrorMismatch | 0x0E => .matrixInHandler | 0x0F => .preempt | 0x10 => .watchdog | 0x11 => .powerKill
  | 0x12 => .taskFault | _ => .illegal

/-- What the resident OS acts on (R419): the trap the handler was given, where the handler handed it on by `trap.brk`; else
the trap the handler raised itself; for an ended team, its own fault. Log 26 (DEDUCED, unsafe). -/
def Team.governing (t : Team) (e : Escalation) : TrapInfo :=
  if e.ended || decide (e.info.cause ≠ .breakpoint) then e.info
  else { cause := causeOf t.ctl.tcause.toNat, tval := t.ctl.tval }

/-- The team as the first trap left it at entry, its handler's work and bank gone (R158). Log 26 (DEDUCED, unsafe). -/
def Team.asAtEntry (t : Team) : Team :=
  let t := match t.entry with
    | some c => { t with ctl := c.ctl, vec := c.vec, under := c.under, script := c.script }
    | none => t
  { t with q := Queues.empty, flights := [], hregs := [], issued := false, acqBind := none, wake := none, held := false }

/-- ESCALATE_TRAP (R158, R419): once the handler's queued syllables have completed, the resident OS holds a breakpoint for
an attached debugger, or ends the task. Log 9 (DESIGN CHOICE, safe). -/
def execEscalateTrap (tk : Nat) (s : State) : Out :=
  if Config.teams ≤ tk then .fault .noSuchUnit
  else
    let t := s.team tk
    match t.status, t.esc with
    | .escalating, some e =>
      if !t.toDrain.isEmpty then .next s
      else
        let x := s.stream t.bind.slot
        let t := if e.ended then t else t.asAtEntry
        let i := t.governing e
        if i.cause = .breakpoint ∧ !e.ended ∧ x.lrec.debug ∧ Config.debuggerAttached x.ctx then
          .next (s.setTeam tk { t with status := .heldDebug, esc := none })
        else .next ((s.setTeam tk t).faultTeam tk i)
    | _, _ => .next s

/-! ### Caches (R17, R54) -/

/-- Lines an instruction cache of 64 KiB holds (R6). -/
def icacheLines : Nat := 1024

/-- A line enters a core's instruction cache, the oldest going if it is full. Log 20 (DESIGN CHOICE, safe). -/
def MemSys.icacheAdd (m : MemSys) (core line : Nat) : MemSys :=
  let c := m.core core
  m.setCore core { c with icache := (line :: c.icache.filter (fun l => l ≠ line)).take icacheLines }

/-- INSTRUCTION_FILL (R17): the line is delivered to every requester. -/
def execInstructionFill (c line : Nat) (s : State) : Out :=
  if Config.clusters ≤ c then .fault .noSuchUnit
  else
    let x := s.cluster c
    let ask := look [] x.fills line
    let s := { s with ms := ask.foldl (fun (m : MemSys) core => m.icacheAdd core line) s.ms }
    .next (s.setCluster c { x with fills := drop x.fills line })

/-- L1_EVICTION (R54): a dirty line goes home; one whose link is down stays until a write-back reports it (R401). Log 14
(DEDUCED, unsafe). -/
def execL1Eviction (core line : Nat) (s : State) : Out :=
  if Config.cores ≤ core then .fault .noSuchUnit
  else
    match findLine (s.ms.core core).l1 line with
    | none => .next s
    | some l => if (lostAddr s.ms l).isSome then .next s else .next { s with ms := s.ms.flushLines core (fun x => decide (x.pa = line)) }

end Sys2Proof.Machine
end

