-- ==== Sys2Proof/Machine/Launch.lean ====
section
/-! DEFINITION. The host's side of a stream slot: host and device queues, the start and end of streams, tear-down, the register
page, and the system calls LAUNCH and CAPSCRIPT (R208, R261, R328, R367 to R376, R382, R384, R397, R398). -/

namespace Sys2Proof.Machine

/-! ### Launch records (R367, R370) -/

/-- A record's fields from its eight words. -/
def recordOf (w : Nat → Word) : LaunchRec :=
  let c := w 5
  { entry := w 0, args := w 1, defbase := w 2, deflen := w 3, status := w 4, wdper := c.extractLsb' 0 32
    cls := c.extractLsb' 32 2, debug := c.getLsbD 34, load := c.getLsbD 35, prot := c.getLsbD 36
    zeros := decide (c.toNat / 2 ^ 37 = 0) && decide ((w 0).toNat / 2 ^ 57 = 0)
    app := w 6, tag := w 7 }

/-- n words of the record or block at an address, each read at its home; none if one cannot be read. -/
def readWords (s : State) (k : Nat) (a : Word) : Nat → State × Option (List Word)
  | 0 => (s, some [])
  | n + 1 =>
    match readWords s k a n with
    | (s, none) => (s, none)
    | (s, some l) =>
      match streamRead s k (a + BitVec.ofNat 64 (8 * n)) with
      | (s, .error _) => (s, none)
      | (s, .ok v) => (s, some (l ++ [v]))

/-- Check 1 of R370; a load record's unused fields are zero fields too (R374). -/
def LaunchRec.formed (r : LaunchRec) : Bool :=
  r.zeros && decide (r.entry.toNat % 8 = 0) && decide (r.status.toNat % 32 = 0) && decide (r.defbase.toNat % 65536 = 0) &&
  decide (r.deflen.toNat % 65536 = 0) &&
  (!r.load || (decide (r.entry = 0#64) && decide (r.defbase = 0#64) && decide (r.deflen = 0#64) && decide (r.wdper = 0#32)))

/-- The checks of R370 in order, with the argument values. -/
def checkRecord (s : State) (k : Nat) (r : LaunchRec) : State × Except Nat (List Word) :=
  let p := s.part (s.stream k).part
  if !r.formed then (s, .error 1)
  else if !r.load && !p.apps.any (fun a => decide (a.handle = r.app)) then (s, .error 2)
  else if r.debug && !p.debugOk then (s, .error 3)
  else if r.load || decide (r.args = 0#64) then (s, .ok [])
  else
    match readWords s k r.args 8 with
    | (s, none) => (s, .error 5)
    | (s, some l) => (s, .ok l)

/-- A slot with nothing of its last stream but its queues, counters and lease (R327, R328, R390). -/
def Stream.blank (x : Stream) : Stream :=
  { Stream.reset with
    part := x.part, winstall := x.winstall, freestall := x.freestall, qbase := x.qbase, qsize := x.qsize, tail := x.tail
    head := x.head, qen := x.qen, retries := 0, parked := x.parked, devq := x.devq, lease := x.lease, serial := x.serial + 1, qstate := .running }

/-- The address space a context was moved to, if it was (R171). -/
def State.ctxSpace (s : State) (ctx : Nat) : Option (Nat × Nat) :=
  match s.streams.find? (fun e => e.2.active && decide (e.2.ctx = ctx)) with
  | some e => e.2.space
  | none => none

/-- t1 upward (R328). -/
def argStreamRegs : Nat → List Word → List (Nat × Word) → List (Nat × Word)
  | _, [], r => r
  | n, a :: as, r => argStreamRegs (n + 1) as (store 0#64 r n a)

/-- Starts a record (R328, R370): a stream, a load that waits for the resident OS, or the record's end as BAD_RECORD; the
descriptors of the slot's last stream are free again. -/
def startRecord (s : State) (k : Nat) (r : LaunchRec) (fromHost : Bool) (ctx : Nat) : State :=
  let sp := s.ctxSpace ctx
  let s := s.freeHeld k
  match checkRecord s k r with
  | (s, .error n) =>
    s.setStream k { (s.stream k).blank with
      active := true, lrec := r, fromHost := fromHost, ctx := ctx, ending := some .badRecord, endReason := n }
  | (s, .ok args) =>
    let s := s.setStream k { (s.stream k).blank with
      active := true, lrec := r, fromHost := fromHost, ctx := ctx, space := sp, spc := r.entry, t := argStreamRegs 1 args [] }
    s.setStream k { s.stream k with wdLeft := wdPeriod s k }

/-! ### Taking records (R368, R369, R372, R375) -/

/-- Address of record i of a slot's ring. -/
def Stream.ringAt (x : Stream) : Word := x.qbase + BitVec.ofNat 64 (64 * (x.head.toNat % 2 ^ x.qsize.toNat))

/-- Reads the tag and, where it matches, the record (R369); a failed read is a tag that does not match. -/
def fetchRecord (s : State) (k : Nat) : State :=
  let x := s.stream k
  let miss := fun (s : State) => s.setStream k { s.stream k with qstate := .fetching }
  match streamRead s k (x.ringAt + 56#64) with
  | (s, .error _) => miss s
  | (s, .ok tag) =>
    if tag ≠ x.head + 1#64 then miss s
    else
      match readWords s k x.ringAt 7 with
      | (s, none) => miss s
      | (s, some l) =>
        let s := s.setStream k { s.stream k with head := x.head + 1#64, retries := 0 }
        let c := s.nextCtx
        startRecord { s with nextCtx := c + 1 } k (recordOf (fun i => (l ++ [tag]).getD i 0#64)) true c

/-- An idle slot takes from its device queue, then from its host queue (R375). Log 39 (DEDUCED, safe). -/
def takeNext (s : State) (k : Nat) : State :=
  let x := s.stream k
  let p := s.part x.part
  if x.active || p.draining || !p.slots.contains k || decide (x.qstate = .fetching) then s
  else
    match x.devq with
    | (r, c) :: rest => startRecord (s.setStream k { x with devq := rest }) k r false c
    | [] =>
      if !x.qen then s.setStream k { x with qstate := .disabled }
      else if x.parked then s.setStream k { x with qstate := .parked }
      else if x.head.ult x.tail then fetchRecord (s.setStream k { x with retries := 0 }) k
      else s.setStream k { x with qstate := .idle }

/-- A kick (R369): TAIL is written, a parked slot reads again, and a retry window starts afresh with a read of the tag, whatever
waits in the device queue: the slot is not idle. -/
def State.kick (s : State) (k : Nat) (v : Word) : State :=
  let x := s.stream k
  let s := s.setStream k { x with tail := v, parked := false }
  if x.qstate = .fetching then
    if x.head.ult v && !(s.part x.part).draining then fetchRecord (s.setStream k { s.stream k with retries := 0 }) k
    else takeNext (s.setStream k { s.stream k with qstate := .idle }) k
  else takeNext s k

/-- KICK (R369). -/
def execKick (k : Nat) (v : Word) (s : State) : Out :=
  if Config.streamSlots ≤ k then .fault .noSuchUnit else .next (s.kick k v)

/-- SEQTAG_RETRY (R369): one of the five re-reads; after the last the slot parks. -/
def execSeqtagRetry (k : Nat) (s : State) : Out :=
  if Config.streamSlots ≤ k then .fault .noSuchUnit
  else
    let x := s.stream k
    -- a draining partition accepts no record (R377)
    if x.qstate ≠ .fetching ∨ x.qen = false ∨ (s.part x.part).draining then .next s
    else
      let s := fetchRecord s k
      if (s.stream k).active then .next s
      else
        let n := x.retries + 1
        if n < 5 then .next (s.setStream k { s.stream k with retries := n })
        else .next (takeNext (s.setStream k { s.stream k with retries := 0, parked := true, qstate := .parked }) k)

/-- QCTL.EN written (R368). -/
def State.enable (s : State) (k : Nat) (en : Bool) : State :=
  let x := s.stream k
  if en = x.qen then s
  else if en then
    s.setStream k { x with qen := true, head := 0, tail := 0, parked := false, retries := 0
                           qstate := if x.active then .running else .idle }
  else
    -- a retry window stops at once; a device-side launch may be waiting for the slot
    takeNext (s.setStream k { x with qen := false, parked := false, retries := 0
                                     qstate := if x.active then .running else .disabled }) k

/-- QCTL_EN (R368). -/
def execQctlEn (k : Nat) (en : Bool) (s : State) : Out :=
  if Config.streamSlots ≤ k then .fault .noSuchUnit else .next (s.enable k en)

/-! ### Leases (R382, R384) -/

/-- A write of LEASE (R382): each field keeps its value where the written one is not legal; two legal ones request a lease
for the running stream, unless it holds one. -/
def Stream.leaseWrite (x : Stream) (v : Word) : Stream :=
  let dur : BitVec 16 := v.extractLsb' 32 16
  let w : BitVec 16 := v.extractLsb' 0 16
  let okD := decide (1 ≤ dur.toNat) && decide (dur.toNat ≤ 10000)
  let okW := decide (1 ≤ w.toNat) && decide (w.toNat ≤ 800)
  if !x.active || x.ending.isSome || x.lrec.load || decide (x.lease.st = .active) || decide (x.lease.st = .suspended) then x
  else
    let l := { x.lease with dur := if okD then dur else x.lease.dur, watts := if okW then w else x.lease.watts }
    { x with lease := if okD && okW then { l with req := true } else l }

/-- LEASE_REQUEST (R382). -/
def execLeaseRequest (k : Nat) (v : Word) (s : State) : Out :=
  if Config.streamSlots ≤ k then .fault .noSuchUnit else .next (s.setStream k ((s.stream k).leaseWrite v))

/-- A lease as its stream ends (R384); a request not yet begun is gone. A kill or a drain comes before an expiry of the same
epoch (R392). Log 45 (DEDUCED, unsafe). -/
def Lease.end' (l : Lease) (e : EndStatus) : Lease :=
  let closed := { l with req := false, lapsed := none }
  match l.lapsed, e with
  | some n, .watchdog | some n, .powerKill => { closed with st := .forfeited, left := n }
  | _, _ =>
    match l.st with
    | .active | .suspended => { closed with st := if e = .done then .expired else .forfeited }
    | _ => closed

/-- LEASESTAT (R382). -/
def Lease.stat (l : Lease) : Word := l.left ++ l.granted ++ BitVec.ofNat 16 l.st.code

/-! ### Ends of streams (R372, R373, R376, R386) -/

/-- Ends a stream that has not ended: its window squashed, its descriptors freed, its lease forfeited (R44, R376, R384,
R386); STREAM_END does the rest. Log 58 (DEDUCED, unsafe). -/
def State.killStream (s : State) (k : Nat) (st : EndStatus) (reason : Nat) : State :=
  let x := s.stream k
  if !x.active || x.ending.isSome then s
  else
    let es := x.window
    let s := squashAll s k es
    let x := s.stream k
    let s := s.setStream k { x with
      window := [], rmap := [], ending := some st, endReason := reason, posted := false, answered := false
      seq := match es with | e :: _ => e.snapSeq | [] => x.seq
      lease := x.lease.end' st }
    { s.freeDescs x.part (x.heldDescs ++ es.flatMap (fun e => e.renamed.map Prod.snd)) with
      syscalls := s.syscalls.filter (fun c => decide (c.caller ≠ .stream k)) }

/-- The context of whoever posted a call. -/
def State.ctxOf (s : State) (c : Caller) : Option Nat :=
  match c with
  | .team tk => if (s.team tk).present then some (s.stream (s.team tk).bind.slot).ctx else none
  | .stream k => some (s.stream k).ctx

/-- Tears a context down (R376): its streams end, what it has queued is discarded and counted. Log 41 (DEDUCED, unsafe). -/
def State.tearDown (s : State) (ctx : Nat) : State :=
  let mine := s.streams.filter (fun e => e.2.active && decide (e.2.ctx = ctx))
  let queued := s.streams.foldl (fun n e => n + (e.2.devq.filter (fun d => decide (d.2 = ctx))).length) 0
  let calls := (s.syscalls.filter (fun c => decide (c.num = 2) && decide (s.ctxOf c.caller = some ctx))).length +
    -- a call posted by a team that has been put back since and has not gone on
    (s.teams.filter (fun e => e.2.present && decide (e.2.call = some 2) && mine.any (fun x => decide (x.1 = e.2.bind.slot)) &&
      !s.syscalls.any (fun c => decide (c.caller = .team e.1)))).length +
    -- a call posted by a team whose context has been saved since
    (s.saved.filter (fun x => decide (x.team.call = some 2) && mine.any (fun e => decide (e.1 = x.k)))).length
  let s := mine.foldl (fun (s : State) e => s.killStream e.1 .tornDown 0) s
  { s with streams := s.streams.map (fun e =>
      let x := { e.2 with devq := e.2.devq.filter (fun d => decide (d.2 ≠ ctx)) }
      (e.1, if x.fromHost && x.active && decide (x.ctx = ctx) then { x with discarded := queued + calls } else x)) }

/-- QCTL.ABORT written with 1 (R376). -/
def State.abort (s : State) (k : Nat) : State := if (s.stream k).active then s.tearDown (s.stream k).ctx else s

/-- ABORT (R376). -/
def execAbort (k : Nat) (s : State) : Out := if Config.streamSlots ≤ k then .fault .noSuchUnit else .next (s.abort k)

/-- SEQ of the completion record (R373). -/
def Stream.recSeq (x : Stream) (e : EndStatus) : Word :=
  match e with
  | .badRecord | .loadFailed => 0#64
  | .done => if x.lrec.load then 0#64 else x.seq
  | _ => x.seq

/-- The 32 bytes of a completion record as a number (R373). -/
def completion (x : Stream) (e : EndStatus) : Nat :=
  let reason := x.endReason % 256
  let cause := match e with | .taskFault => x.endCause % 256 | _ => 0
  let handle := match e with | .done => x.handle.toNat | _ => 0
  e.code + reason * 2 ^ 16 + cause * 2 ^ 24 + x.discarded % 2 ^ 32 * 2 ^ 32 + (x.recSeq e).toNat * 2 ^ 64 + handle * 2 ^ 128 +
    x.lrec.tag.toNat * 2 ^ 192

/-- Where the n bytes from an address lie, if each can be written. -/
def writableBytes (s : State) (k : Nat) (a : Word) : Nat → State × Option (List Xlat)
  | 0 => (s, some [])
  | n + 1 =>
    match writableBytes s k a n with
    | (s, none) => (s, none)
    | (s, some l) =>
      match streamXlat s k .write (a + BitVec.ofNat 64 n) with
      | (s, .error _) => (s, none)
      | (s, .ok x) => if pageBlk x.ent.leaf ≠ 0 then (s, none) else (s, some (l ++ [x]))

/-- Writes the completion record at its home; a record that cannot be written is not, and nothing reports it (R372). Log 37
(DEDUCED, safe). -/
def writeCompletion (s : State) (k : Nat) (e : EndStatus) : State :=
  let x := s.stream k
  let a := x.lrec.status
  if a = 0#64 then s
  else
    match writableBytes s k a 32 with
    | (s, none) => s
    | (s, some xs) =>
      let v := completion x e
      xs.zipIdx.foldl (fun (s : State) y =>
        let ms := s.ms.markWrite y.1 (a.toNat + y.2)
        { s with ms := ms.homeWrite y.1.pa 1 (v / 2 ^ (8 * y.2) % 256) none }) s

/-- The place of a slot among its partition's, in ascending slot number. -/
def Partition.slotRank (p : Partition) (k : Nat) : Nat := (p.slots.filter (fun j => decide (j < k))).length

/-- The slot's completion interrupt (R398): of function 0, and of its partition's virtual function, numbered from 1. Log 38
(DEDUCED, unsafe). -/
def completionMsis (s : State) (k : Nat) : List Msi :=
  let j := (s.stream k).part
  [{ fn := 0, vec := 1 + k, what := .completion }, { fn := 1 + j, vec := 1 + (s.part j).slotRank k, what := .completion }]

/-- A module event on vector 0 of each function (R398): of function 0, and of the virtual function of each partition that
has a series pair, numbered from 1. Log 38 (DEDUCED, unsafe). -/
def State.moduleEvent (s : State) (w : MsiWhat) : State :=
  let fns := 0 :: ((List.range 20).filter (fun j => !(s.part j).pairs.isEmpty)).map (1 + ·)
  { s with msis := s.msis ++ fns.map (fun f => { fn := f, vec := 0, what := w }) }

/-- The cores of a series pair (R15). -/
def coresOfPair (p : Nat) : List Nat := (List.range 16).map (16 * p + ·)

/-- Every write of a partition's teams that its caches hold goes home. -/
def State.publishPart (s : State) (p : Partition) : State :=
  { s with ms := (p.pairs.flatMap coresOfPair).foldl (fun (m : MemSys) c =>
      m.cleanLines c (fun l => (lostAddr m l).isNone)) s.ms }

/-- Whether a near-memory command of the stream or of its teams still writes. -/
def State.nmBusy (s : State) (k : Nat) : Bool := s.jobs.any (fun j => decide (j.slot = k))

/-- STREAM_END (R372): writes to system scope, acknowledged by their links, the record, the interrupt, then the next record;
the slot is back in its partition's address space (R171). A write whose link has gone down is no longer waited for (R401).
Log 103 (DESIGN CHOICE, unsafe). -/
def execStreamEnd (k : Nat) (s : State) : Out :=
  if Config.streamSlots ≤ k then .fault .noSuchUnit
  else
    let x := s.stream k
    match x.active, x.ending with
    | true, some e =>
      if s.nmBusy k then .next s
      else
      let s := s.publishPart (s.part x.part)
      if s.ms.unacked.any (fun u => Unack.ofStream k u && !u.dead) then .next s
      else
      let s := { s with ms := s.ms.dropUnacked (Unack.ofStream k) }
      let s := writeCompletion s k e
      let s := { s with msis := s.msis ++ completionMsis s k }
      let x := s.stream k
      let s := s.setStream k { x with
        active := false, ending := none, window := [], space := none, lease := x.lease.end' e, discarded := 0
        qstate := if x.qen then .idle else .disabled }
      .next (takeNext s k)
    | _, _ => .next s

/-! ### The register page (R368, R382, R397) -/

def QState.code : QState → Nat
  | .disabled => 0 | .idle => 1 | .fetching => 2 | .parked => 3 | .running => 4

/-- What a read of a register of the slot's page gives; every other offset reads zero (R368, R382, R390, R397). -/
def Stream.register (x : Stream) (off : Nat) : Word :=
  match off with
  | 0x00 => x.qbase
  | 0x08 => x.qsize.setWidth 64
  | 0x10 => x.tail
  | 0x18 => x.head
  | 0x20 => BitVec.ofNat 64 x.qstate.code
  | 0x28 => ofBool64 x.qen
  | 0x30 => 0#16 ++ x.lease.dur ++ 0#16 ++ x.lease.watts
  | 0x38 => x.lease.stat
  | 0x40 => BitVec.ofNat 64 (x.wear / 100)
  | _ => 0#64

/-- REGISTER_WRITE (R368, R397): each register by its access codes; every other offset ignores writes. -/
def execRegisterWrite (k off : Nat) (v : Word) (s : State) : Out :=
  if Config.streamSlots ≤ k then .fault .noSuchUnit
  else
    let x := s.stream k
    match off with
    | 0x00 => .next (if x.qen then s else s.setStream k { x with qbase := v &&& 0x01FFFFFFFFFFFFC0#64 })
    | 0x08 =>
      .next (if x.qen || decide (12 < (v.extractLsb' 0 4).toNat) then s else s.setStream k { x with qsize := v.extractLsb' 0 4 })
    | 0x10 => .next (s.kick k v)
    | 0x28 =>
      let s := s.enable k (v.getLsbD 0)
      .next (if v.getLsbD 1 then s.abort k else s)
    | 0x30 => .next (s.setStream k (x.leaseWrite v))
    | _ => .next s

/-! ### System calls (R157, R162, R208, R261, R353, R375) -/

/-- Whether a caller's call n is posted and still waits. -/
def State.calling (s : State) (c : Caller) (n : Nat) : Bool :=
  s.syscalls.any (fun x => decide (x.caller = c) && decide (x.num = n)) &&
  (match c with
   | .team tk => decide ((s.team tk).status = .forwarded)
   | .stream k => (s.stream k).active && (s.stream k).posted)

/-- The resident OS answers in s1 or t1. -/
def State.answer (s : State) (c : Caller) (v : Word) : State :=
  let s := { s with syscalls := s.syscalls.filter (fun x => decide (x.caller ≠ c)) }
  match c with
  | .team tk => s.setTeam tk { (s.team tk).setReg 1#5 v with status := .running, call := none }
  | .stream k => s.setStream k { (s.stream k).setReg 1#4 v with answered := true }

/-- The stream a caller belongs to. -/
def State.callerStream (s : State) (c : Caller) : Nat :=
  match c with
  | .team tk => (s.team tk).bind.slot
  | .stream k => k

/-- Argument register i of a call. -/
def State.callArg (s : State) (c : Caller) (i : Nat) : Word :=
  match c with
  | .team tk => (s.team tk).reg (BitVec.ofNat 5 i)
  | .stream k => (s.stream k).reg (BitVec.ofNat 4 i)

/-- The slots of a partition in ascending order. -/
def Partition.slotAt (p : Partition) (i : Nat) : Option Nat := ((List.range Config.streamSlots).filter p.slots.contains)[i]?

/-- What LAUNCH comes to (R375): its status, and the launch where that is 0. Log 39 (DEDUCED, safe). -/
def launchCall (s : State) (c : Caller) : State × Nat × Option (Nat × LaunchRec) :=
  let k := s.callerStream c
  let a := s.callArg c 1
  match (s.part (s.stream k).part).slotAt (s.callArg c 2).toNat with
  | none => (s, 1, none)
  | some d =>
    if a.toNat % 64 ≠ 0 then (s, 2, none)
    else
      match readWords s k a 8 with
      | (s, none) => (s, 2, none)
      | (s, some l) =>
        let r := recordOf (fun i => l.getD i 0#64)
        if 16 ≤ (s.stream d).devq.length then (s, 3, none)
        else if r.load || !r.zeros then (s, 4, none)
        else
          let u := (s.stream k).lrec
          (s, 0, some (d, { r with cls := if r.cls.ult u.cls then u.cls else r.cls, debug := u.debug }))

/-- LAUNCH (R375). -/
def execLaunch (c : Caller) (s : State) : Out :=
  if !s.calling c 2 then .next s
  else
    let x := s.stream (s.callerStream c)
    match launchCall s c with
    | (s, st, none) => .next (s.answer c (BitVec.ofNat 64 st))
    | (s, _, some (d, r)) =>
      let s := s.setStream d { s.stream d with devq := (s.stream d).devq ++ [(r, x.ctx)] }
      .next (takeNext (s.answer c 0#64) d)

/-- The capacities of a script, each read at its home; none where one cannot be read. -/
def readCaps (s : State) (k : Nat) (a : Word) : Nat → State × Option (List Nat)
  | 0 => (s, some [])
  | n + 1 =>
    match readCaps s k a n with
    | (s, none) => (s, none)
    | (s, some l) =>
      match streamXlat s k .read (a + BitVec.ofNat 64 (2 * n)) with
      | (s, .error _) => (s, none)
      | (s, .ok x) =>
        if inScaleArea x.ent (a.toNat + 2 * n) || s.ms.poisoned x.pa then (s, none) else (s, some (l ++ [s.ms.homeRead x.pa 2]))

/-- CAPSCRIPT (R208, R261): the lowest status that holds. -/
def execCapscript (c : Caller) (s : State) : Out :=
  match c with
  | .stream _ => .next s
  | .team tk =>
    if !s.calling c 3 then .next s
    else
      let k := s.callerStream c
      let n := (s.callArg c 2).toNat
      let a := s.callArg c 1
      if !(s.stream k).lrec.debug then .next (s.answer c 1#64)
      else if n = 0 ∨ 16 < n then .next (s.answer c 2#64)
      else if a.getLsbD 0 then .next (s.answer c 3#64)
      else
        match readCaps s k a n with
        | (s, none) => .next (s.answer c 3#64)
        | (s, some l) => .next ((s.setTeam tk { s.team tk with script := some { caps := l, pos := 0 } }).answer c 0#64)

end Sys2Proof.Machine
end

