-- ==== Sys2Proof/Machine/Image.lean ====
section
/-! DEFINITION. Code objects and application images: their bytes read, checked, mapped and unloaded by the resident OS (R184 to
R187, R191, R374, R402). -/

namespace Sys2Proof.Machine

/-! ### The bytes of a code object (R184, R185) -/

/-- n little-endian bytes of a file. -/
def leAt (b : List Byte) (a n : Nat) : Nat := readLE (fun i => b.getD i 0#8) a n

/-- A 64-bit two's-complement number of a file. -/
def intAt (b : List Byte) (a : Nat) : Int := (BitVec.ofNat 64 (leAt b a 8)).toInt

/-- Section descriptor i: its fields packed in the order R184 lists them. Log 93 (DEDUCED, unsafe). -/
def sectionAt (b : List Byte) (i : Nat) : Section :=
  let d := 128 + 32 * i
  { kind := leAt b d 4, offset := intAt b (d + 20), align := leAt b (d + 28) 4
    bytes := (b.drop (leAt b (d + 4) 8)).take (leAt b (d + 12) 8) }

/-- The bytes of a section lie in the file. -/
def sectionInFile (b : List Byte) (i : Nat) : Bool :=
  decide (leAt b (128 + 32 * i + 4) 8 + leAt b (128 + 32 * i + 12) 8 ≤ b.length)

/-- The bytes of the first section of a type. -/
def sectionBytes (l : List Section) (kind : Nat) : List Byte :=
  match l.find? (fun x => decide (x.kind = kind)) with
  | some x => x.bytes
  | none => []

/-- Entry i of a kernel table. -/
def kernelAt (b : List Byte) (i : Nat) : Kernel :=
  let a := 32 * i
  let n := leAt b (a + 12) 2
  { entry := leAt b a 8, gsz := leAt b (a + 8) 1, pure := decide (leAt b (a + 9) 1 % 2 = 1), lmu := leAt b (a + 10) 2
    kinds := (List.range n).map (fun j => leAt b (a + 14) 2 / 4 ^ j % 4) }

/-- R185: a kernel-table entry is well formed. -/
def kernelFormed (b : List Byte) (i : Nat) : Bool :=
  let k := kernelAt b i
  decide (k.entry % 4 = 0) && decide (1 ≤ k.gsz) && decide (k.gsz ≤ 8) && decide (1 ≤ k.lmu) && decide (k.lmu ≤ 48) &&
  decide (k.kinds.length ≤ 8) && k.kinds.all (fun x => decide (x ≤ 2)) && decide (leAt b (32 * i + 9) 1 ≤ 1) &&
  decide (leAt b (32 * i + 16) 16 = 0)

/-- What a file's header and tables say. -/
def objOf (b : List Byte) : CodeObj :=
  let secs := (List.range (leAt b 10 2)).map (sectionAt b)
  { sv := leAt b 8 2, sched := decide (leAt b 6 1 = 1), gen := leAt b 7 1, size := leAt b 16 8, ltOff := intAt b 24
    imports := leAt b 32 4, exports := leAt b 36 4, sections := secs
    kernels := (List.range (leAt b 12 4)).map (kernelAt (sectionBytes secs 5)), digest := sha384 b }

/-- The header's own fields (R184); without imports the linkage table's displacement is 0 (R196). -/
def headerFormed (b : List Byte) : Bool :=
  decide (128 + 32 * leAt b 10 2 ≤ b.length) && decide (leAt b 0 4 = 0x31484449) && decide (leAt b 4 2 = 1) &&
  decide (leAt b 6 1 ≤ 1) && (decide (leAt b 6 1 = 1) || decide (leAt b 7 1 = 0)) && decide (1 ≤ leAt b 10 2) &&
  decide (leAt b 10 2 ≤ 16) && decide (leAt b 12 4 ≤ 65535) && decide (leAt b 16 8 % 65536 = 0) && decide (intAt b 24 % 8 = 0) &&
  decide (leAt b 32 4 ≤ 65536) && (decide (leAt b 32 4 ≠ 0) || decide (intAt b 24 = 0)) && decide (leAt b 40 88 = 0)

/-- The 64 KiB pages a range from a signed offset touches. -/
def pagesFrom (a : Int) (n : Nat) : List Int :=
  (List.range (((a + n + 65535) / 65536 - a / 65536).toNat)).map (fun (i : Nat) => a / 65536 + (i : Int))

/-- The bytes a section takes: the code section all of the code size. -/
def objRoom (o : CodeObj) (x : Section) : Nat := if x.kind = 1 then o.size else x.bytes.length

/-- The section table (R184): known types, aligned offsets, the code at 0, every section in pages of its own, the linkage table
where the header says or none without imports (R196), the tables as large as their counts. -/
def sectionsFormed (b : List Byte) (o : CodeObj) : Bool :=
  (List.range o.sections.length).all (sectionInFile b) &&
  o.sections.all (fun x => decide (1 ≤ x.kind) && decide (x.kind ≤ 8) &&
    (if x.align < 64 then decide (x.offset % (2 ^ x.align : Nat) = 0) else decide (x.offset = 0)) &&
    (decide (x.kind ≠ 1) || (decide (x.offset = 0) && decide (x.bytes.length ≤ o.size)))) &&
  decide ((o.sections.filter (fun x => decide (x.kind = 1))).length = 1) &&
  decide ((o.sections.flatMap (fun x => pagesFrom x.offset (objRoom o x))).Nodup) &&
  (if o.imports = 0 then o.sections.all (fun x => decide (x.kind ≠ 8)) else o.sections.any (fun x => decide (x.kind = 8) && decide (x.offset = o.ltOff) && decide (8 * o.imports ≤ x.bytes.length))) &&
  decide (32 * o.kernels.length ≤ (sectionBytes o.sections 5).length)

/-- Step 4 of R187: header, section table and kernel table well formed, and the manifest's SV. -/
def objFormed (b : List Byte) (sv : Nat) : Bool :=
  let o := objOf b
  headerFormed b && sectionsFormed b o && (List.range o.kernels.length).all (kernelFormed (sectionBytes o.sections 5)) && decide (o.sv = sv)

/-- The exports of an object: what import records name, and the offset from its base. -/
def objExports (o : CodeObj) : List (Nat × Nat) :=
  if o.exports = 0 then [] else Config.exportsOf (sectionBytes o.sections 7)

/-- Where an offset from a base lies. -/
def objAt (base : Nat) (off : Int) : Nat := ((base : Int) + off).toNat

/-- The lowest and the highest offset of an object. -/
def objLow (o : CodeObj) : Int := o.sections.foldl (fun n x => min n x.offset) 0
def objHigh (o : CodeObj) : Int := o.sections.foldl (fun n x => max n (x.offset + objRoom o x)) o.size

/-! ### Memory as the resident OS reaches it -/

/-- The 64 KiB pages a range touches, as page numbers. -/
def pagesOf (a n : Nat) : List Nat := (List.range ((a + n + 65535) / 65536 - a / 65536)).map (a / 65536 + ·)

/-- Whether a page maps something. -/
def pageMapped (m : MemSys) (root page : Nat) : Bool := (walkFrom m (page * 65536) root ptLevels).leaf?.isSome

/-- The physical address of a mapped virtual one. -/
def physOf (m : MemSys) (root a : Nat) : Nat :=
  match (walkFrom m a root ptLevels).leaf? with
  | none => 0
  | some w => fld w.2.1 16 36 * 65536 + a % w.2.2

/-- The leaf of a page suits a section (R184): X for code alone, W for writable data and the linkage table, over populated
memory. -/
def pageSuits (m : MemSys) (root : Nat) (kind page : Nat) : Bool :=
  match (walkFrom m (page * 65536) root ptLevels).leaf? with
  | none => false
  | some w =>
    decide (fld w.2.1 3 1 = (if kind = 1 then 1 else 0)) && m.isPop (physOf m root (page * 65536)) &&
    (if kind = 1 then decide (fld w.2.1 2 1 = 0) else (!(decide (kind = 3) || decide (kind = 8)) || decide (fld w.2.1 2 1 = 1)))

/-- A byte at its home through the tables of an address space, if it can be read. -/
def osByte (m : MemSys) (root a : Nat) : Option Byte :=
  match (walkFrom m a root ptLevels).leaf? with
  | none => none
  | some w =>
    let pa := fld w.2.1 16 36 * 65536 + a % w.2.2
    if decide (a < 2 ^ 57) && m.isPop pa && !m.poisoned pa then some (m.byteAt pa) else none

/-- Whether these bytes stand at an address. -/
def bytesStand (m : MemSys) (root : Nat) : Nat → List Byte → Bool
  | _, [] => true
  | a, b :: r => decide (osByte m root a = some b) && bytesStand m root (a + 1) r

/-- Puts bytes at a virtual address, and, for code, where instruction fetch reads (R57). Log 12 (DEDUCED, safe). -/
def placeBytes (root : Nat) (code : Bool) : Nat → List Byte → MemSys → MemSys
  | _, [], m => m
  | a, b :: bs, m =>
    let pa := physOf m root a
    let m := { m.breakLinks (pa / 64) none with mem := store 0#8 m.mem pa b, code := if code then store 0#8 m.code pa b else m.code }
    placeBytes root code (a + 1) bs m

/-- Drops an instruction-cache range of physical lines from every core (R57). -/
def MemSys.dropCode (m : MemSys) (lines : List Nat) : MemSys :=
  { m with cores := m.cores.map (fun e => (e.1, { e.2 with icache := e.2.icache.filter (fun l => !lines.contains l) })) }

/-- The physical lines of a virtual range of whole pages. -/
def linesOf (m : MemSys) (root a n : Nat) : List Nat :=
  (pagesOf a n).flatMap (fun p => (List.range 1024).map (physOf m root (p * 65536) / 64 + ·))

/-- The resident OS writes table words, each at its home. -/
def MemSys.writeTables (m : MemSys) (ws : List PteWrite) : MemSys := ws.foldl (fun (m : MemSys) w => m.homeWrite w.pa 8 w.val none) m

/-! ### Loading (R187) -/

/-- R191: every entry of the linkage table holds the stub's address. -/
def initLinks (root base stub : Nat) (o : CodeObj) : Nat → MemSys → MemSys
  | 0, m => m
  | n + 1, m =>
    let m := initLinks root base stub o n m
    m.homeWrite (physOf m root (objAt base (o.ltOff + 8 * n))) 8 stub none

/-- The objects fit at their bases, apart from one another and on unmapped pages. -/
def spansFree (m : MemSys) (root : Nat) (os : List (Nat × CodeObj)) : Bool :=
  let pages := fun (x : Nat × CodeObj) => pagesOf (objAt x.1 (objLow x.2)) (objHigh x.2 - objLow x.2).toNat
  os.all (fun x => decide (x.1 % 65536 = 0) && decide (0 ≤ (x.1 : Int) + objLow x.2) && decide ((x.1 : Int) + objHigh x.2 ≤ (2 ^ 57 : Nat)) &&
    (pages x).all (fun p => !pageMapped m root p)) &&
  decide ((os.flatMap pages).Nodup)

/-- R191, R420: the stub of an object with imports lies in its code. Log 89 (DESIGN CHOICE, unsafe). -/
def stubOk (base stub : Nat) (o : CodeObj) : Bool :=
  decide (o.imports = 0) || (decide (base ≤ stub) && decide (stub < base + o.size) && decide (stub % 4 = 0))

/-- Step 6 of R187: the mapping made and the objects placed, or none if it cannot be. -/
def mapImage (m : MemSys) (asn root : Nat) (objs : List CodeObj) (plan : MapPlan) : Option MemSys :=
  let os := plan.bases.zip objs
  if plan.bases.length ≠ objs.length ∨ plan.stubs.length ≠ objs.length then none
  else if !spansFree m root os || !(plan.stubs.zip os).all (fun x => stubOk x.2.1 x.1 x.2.2) then none
  else
    let m := m.writeTables plan.writes
    let suits := os.all (fun x => x.2.sections.all (fun y =>
      (pagesOf (objAt x.1 y.offset) (objRoom x.2 y)).all (pageSuits m root y.kind)))
    if !suits then none
    else
      some ((plan.stubs.zip os).foldl (fun (m : MemSys) x =>
        let base := x.2.1
        let o := x.2.2
        let m := m.invalidate asn (objAt base (objLow o)) (objAt base (objHigh o))
        let m := o.sections.foldl (fun (m : MemSys) y => placeBytes root (decide (y.kind = 1)) (objAt base y.offset) y.bytes m) m
        let m := initLinks root base x.1 o o.imports m
        m.dropCode (linesOf m root base o.size)) m)

/-- The bytes of an image as they stand in memory (R186): the manifest, the signature's two numbers, the objects. Log 94
(DEDUCED, unsafe). -/
def imageBytes (i : AppImage) : List Byte := i.manifest ++ beBytes 48 i.sig.r ++ beBytes 48 i.sig.s ++ i.objs.flatten

/-- The first step of R187 that fails, or the storage with the image mapped. Log 94 (DEDUCED, unsafe). -/
def loadImage (s : State) (p : Partition) (image : Option AppImage) (plan : Option MapPlan) : Except Nat (AppImage × MapPlan × MemSys) :=
  match image with
  | none => .error 1
  | some i =>
    let sv := (Config.manifestSv i.manifest).toNat
    if !p.keys.any (fun k => verifies k i.manifest i.sig) then .error 1
    else if sv < s.svFuses then .error 2
    else if i.objs.map sha384 ≠ Config.manifestDigests i.manifest then .error 3
    else if !i.objs.all (fun b => objFormed b sv) then .error 4
    else if !i.objs.all (fun b => !(objOf b).sched || decide ((objOf b).gen = 9)) then .error 5
    else
      match plan with
      | none => .error 6
      | some pl =>
        match mapImage s.ms p.asn p.root (i.objs.map objOf) pl with
        | none => .error 6
        | some m => .ok (i, pl, m)

/-- The image an event brings is the one at ARGS (R374); there is none only where not even a signature's bytes can be read.
Log 94 (DEDUCED, unsafe). -/
def imageStands (s : State) (k : Nat) (image : Option AppImage) : Bool :=
  let root := (s.part (s.stream k).part).root
  let a := (s.stream k).lrec.args.toNat
  match image with
  | none => (List.range 96).any (fun i => (osByte s.ms root (a + i)).isNone)
  | some i => bytesStand s.ms root a (imageBytes i)

/-- The application a load leaves. -/
def appOfImage (handle : Word) (i : AppImage) (pl : MapPlan) : App :=
  { handle := handle, kindex := Config.manifestKernels i.manifest, programs := Config.manifestPrograms i.manifest
    objs := ((pl.bases.zip pl.stubs).zip (i.objs.map objOf)).map (fun y =>
      { base := y.1.1, stub := y.1.2, obj := y.2, sched := y.2.sched, holdIssue := false }) }

/-- LOAD_APPLICATION (R374): a load record ends DONE with a handle, or LOAD_FAILED with the step's status and nothing mapped. -/
def execLoadApplication (k : Nat) (image : Option AppImage) (plan : Option MapPlan) (s : State) : Out :=
  if Config.streamSlots ≤ k then .fault .noSuchUnit
  else
    let x := s.stream k
    let p := s.part x.part
    if !x.active || x.ending.isSome || !x.lrec.load || !imageStands s k image then .next s
    else
      match loadImage s p image plan with
      | .error n => .next (s.setStream k { x with ending := some .loadFailed, endReason := n })
      | .ok (i, pl, m) =>
        let s := ({ s with ms := m } : State).setPart x.part
          { p with apps := p.apps ++ [appOfImage p.nextHandle i pl], nextHandle := p.nextHandle + 1 }
        .next (s.setStream k { x with ending := some .done, handle := p.nextHandle })

/-! ### The operator (R402) -/

/-- Whether a request is signed with the operator key in the fuses. Log 95 (DESIGN CHOICE, safe). -/
def State.byOperator (s : State) (g : Signed) : Bool := verifies s.opKey g.bytes g.sig

/-- APPLICATION_UNLOAD (R374, R402): the handle is no longer valid. -/
def execApplicationUnload (part : Nat) (handle : Request Word) (s : State) : Out :=
  let p := s.part part
  .next (if s.byOperator handle.auth then s.setPart part { p with apps := p.apps.filter (fun a => a.handle ≠ handle.what) } else s)

end Sys2Proof.Machine
end

