-- ==== Sys2Proof/Machine/Translate.lean ====
section
/-! DEFINITION. Translations of code objects and their swap, invalidation, and what a debugger changes in a context (R57, R171, R181,
R183, R188 to R190, R419). -/

namespace Sys2Proof.Machine

/-! ### What a translation keeps (R188) -/

/-- Syllable i of a code section. -/
def sylAt (code : List Byte) (i : Nat) : BitVec 32 := BitVec.ofNat 32 (leAt code (4 * i) 4)

/-- A bundle of scheduled code begins at syllable i. -/
def beginsBundle (code : List Byte) : Nat → Bool
  | 0 => true
  | i + 1 => !sylP (sylAt code i)

/-- The first syllable after the bundle that holds syllable i, four syllables on at most. -/
def afterBundle (code : List Byte) : Nat → Nat → Nat
  | 0, i => i + 1
  | n + 1, i => if sylP (sylAt code i) then afterBundle code n (i + 1) else i + 1

/-- The syllable that a branch, a jump or an `lpc` at syllable i names. -/
def sylTarget (i : Nat) (w : BitVec 32) : Option Int :=
  match decodeSyl w with
  | .ok (.beq _ _ o) | .ok (.bne _ _ o) | .ok (.blt _ _ o) | .ok (.bge _ _ o) | .ok (.bltu _ _ o) | .ok (.bgeu _ _ o) =>
    some (i + o.toInt)
  | .ok (.jal _ o) | .ok (.lpc _ o) => some (i + o.toInt)
  | _ => none

/-- Whether a syllable links. -/
def sylLinks (w : BitVec 32) : Bool :=
  match decodeSyl w with
  | .ok (.jal _ _) | .ok (.jalr _ _ _) => true
  | _ => false

/-- The syllables whose address serial form can make visible: kernel entries, exports, targets, and the resolver stub that its
linkage-table entries name. -/
def visible (y : LoadedObj) : List Nat :=
  let o := y.obj
  let code := sectionBytes o.sections 1
  (if o.imports = 0 then [] else [(y.stub - y.base) / 4]) ++
  let n := code.length / 4
  o.kernels.map (fun k => k.entry / 4) ++ (objExports o).map (fun e => e.2 / 4) ++
  (List.range n).filterMap (fun i =>
    match sylTarget i (sylAt code i) with
    | some t => if 0 ≤ t ∧ t < n then some t.toNat else none
    | none => none)

/-- The link values, by syllable, of the calls in a code section, in serial or in scheduled form. -/
def linkValues (code : List Byte) (sched : Bool) : List Nat :=
  ((List.range (code.length / 4)).filter (fun i => sylLinks (sylAt code i))).map (fun i => if sched then afterBundle code 3 i else i + 1)

/-- R188: visible addresses begin bundles, and the calls have the source's link values; that every effect is reproduced is
the translator's own promise. Log 96 (DESIGN CHOICE, safe). -/
def keepsForm (o : LoadedObj) (code : List Byte) : Bool :=
  let src := linkValues (sectionBytes o.obj.sections 1) false
  let new := linkValues code true
  (visible o).all (beginsBundle code) && src.all new.contains && new.all src.contains

/-- What a translation's signature covers: its tags and its code. Log 96 (DESIGN CHOICE, safe). -/
def transBytes (t : Translation) : List Byte := beBytes 48 t.digest ++ beBytes 2 t.sv ++ beBytes 1 t.gen ++ t.code

/-- Signed with the device's translation key. -/
def State.transSigned (s : State) (t : Translation) : Bool := verifies s.devKey (transBytes t) t.sig

/-- A loaded object of a partition by its base. -/
def Partition.loaded? (p : Partition) (base : Nat) : Option LoadedObj :=
  (p.apps.flatMap (fun a => a.objs)).find? (fun o => decide (o.base = base))

/-- TRANSLATE_OBJECT (R188): a signed translation, tagged as its source and of its code size, joins the cache. -/
def execTranslateObject (part base : Nat) (t : Translation) (s : State) : Out :=
  match (s.part part).loaded? base with
  | none => .next s
  | some o =>
    if !o.obj.sched && s.transSigned t && decide (t.digest = o.obj.digest) && decide (t.sv = o.obj.sv) && decide (t.gen = 9) &&
        decide (t.code.length = o.obj.size) && keepsForm o t.code then
      .next { s with trans := s.trans ++ [t] }
    else .next s

/-! ### Invalidation (R181, R183) -/

/-- Whether a queued vector access of a team still uses a translation of a range that its probe pinned (R181). -/
def Team.pins (t : Team) (lo hi : Nat) : Bool :=
  t.q.viq.any (fun e => e.fault.isNone &&
    (match e.probe with
     | some p => p.pins.any (fun x => decide (x.2.ent.va < hi) && decide (lo < x.2.ent.va + x.2.ent.size))
     | none => false))

/-- Whether a release that a team has still to perform goes to a knot in a range. -/
def Team.releasesIn (t : Team) (lo hi : Nat) : Bool :=
  t.krels.any (fun k => decide (lo < k.knot.toNat + 16) && decide (k.knot.toNat < hi))

/-- Whether something under way still uses translations of a range: a near-memory command, a release to perform, of a saved team
too, a probed vector access, a write that a peer has not acknowledged. -/
def spaceBusy (s : State) (asn lo hi : Nat) : Bool :=
  s.jobs.any (fun j => decide (j.asn = asn)) ||
  s.teams.any (fun e => decide (e.2.bind.asn = asn) && (e.2.pins lo hi || e.2.releasesIn lo hi)) ||
  s.saved.any (fun z => decide (z.team.bind.asn = asn) && z.team.releasesIn lo hi) ||
  (s.ms.unacked ++ s.saved.flatMap (fun z => z.unacked)).any (fun u =>
    decide (u.asn = asn) && !u.dead && decide (lo ≤ u.va) && decide (u.va < hi))

/-- The lines that were reached through a range. -/
def reachedIn (asn lo hi : Nat) (l : Line) : Bool :=
  l.vas.any (fun v => decide (v.1 = asn) && decide (v.2 * 64 < hi) && decide (lo < v.2 * 64 + 64))

/-- Every core's dirty lines of a range go home, so that the writes through its translations are performed. -/
def MemSys.settle (m : MemSys) (asn lo hi : Nat) : MemSys :=
  (m.cores.map Prod.fst).foldl (fun (m : MemSys) c =>
    m.cleanLines c (fun l => reachedIn asn lo hi l && (lostAddr m l).isNone)) m

/-- A range is invalidated once no access uses its entries (R183): stores through them are at their homes first. -/
def State.invalidate (s : State) (asn lo hi : Nat) : State := { s with ms := (s.ms.settle asn lo hi).invalidate asn lo hi }

/-- TLB_INVALIDATE (R183): complete once no access uses the entries; until then nothing changes. -/
def execTlbInvalidate (asn lo hi : Nat) (s : State) : Out :=
  if spaceBusy s asn lo hi then .next s else .next (s.invalidate asn lo hi)

/-! ### Swaps (R189, R190) -/

/-- R189: whether a cached translation may be used for an object now. -/
def transUsable (s : State) (t : Translation) (o : CodeObj) : Bool :=
  s.transSigned t && decide (t.digest = o.digest) && decide (t.sv = o.sv) && decide (t.gen = 9) && decide (s.svFuses ≤ t.sv)

/-- The streams of a partition that run an application which holds the object. -/
def streamsOfObj (s : State) (part base : Nat) : List (Nat × Stream) :=
  s.streams.filter (fun e => e.2.active && decide (e.2.part = part) && !e.2.lrec.load &&
    (match s.appOf e.1 with | some a => a.objs.any (fun o => decide (o.base = base)) | none => false))

/-- An issued task of a kernel of the object. -/
def runsObj (s : State) (k base : Nat) (e : WEntry) : Bool :=
  decide (e.st = .issued) &&
  (match e.op with
   | .launch ker _ _ _ _ => (match s.kernelOf k ker with | some o => decide (o.1.base = base) | none => false)
   | _ => false)

/-- R190: no task already issued runs a kernel of the object. -/
def safePoint (s : State) (part base : Nat) : Bool :=
  (streamsOfObj s part base).all (fun e => e.2.window.all (fun w => !runsObj s e.1 base w))

/-- A breakpoint is enabled. -/
def Ctl.breaks (c : Ctl) : Bool := c.bkp.any (fun b => b.2.getLsbD 0)

/-- R190: a debug launch, a private code page, or a team, bound or saved, with a breakpoint enabled keeps the object in serial
form. -/
def heldSerial (s : State) (part base : Nat) : Bool :=
  (streamsOfObj s part base).any (fun e => e.2.lrec.debug || e.2.space.isSome ||
    (s.teamsOf e.1).any (fun tk => (s.team tk).ctl.breaks) ||
    s.saved.any (fun z => decide (z.k = e.1) && z.team.ctl.breaks))

/-- Changes a loaded object of a partition. -/
def Partition.setObj (p : Partition) (base : Nat) (f : LoadedObj → LoadedObj) : Partition :=
  { p with apps := p.apps.map (fun a => { a with objs := a.objs.map (fun o => if o.base = base then f o else o) }) }

/-- The code pages take new bytes, with caches and translations dropped (R57, R183, R190). -/
def swapCode (s : State) (part base : Nat) (o : LoadedObj) (bytes : List Byte) (sched : Bool) : State :=
  let p := s.part part
  let m := placeBytes p.root true base (bytes ++ List.replicate (o.obj.size - bytes.length) 0#8) s.ms
  let m := m.dropCode (linesOf m p.root base o.obj.size)
  (({ s with ms := m } : State).invalidate p.asn base (base + o.obj.size)).setPart part
    (p.setObj base (fun o => { o with sched := sched, holdIssue := false }))

/-- TRANSLATION_SWAP (R190): at a safe point the pages are swapped, once nothing uses their translations; before that, issue of the
object's tasks is held. A cached translation that fails R189's checks is discarded. -/
def execTranslationSwap (part base : Nat) (toTrans : Bool) (s : State) : Out :=
  let p := s.part part
  match p.loaded? base with
  | none => .next s
  | some o =>
    if o.obj.sched || (toTrans && heldSerial s part base) then .next s
    else
      let s := { s with trans := s.trans.filter (fun t => decide (t.digest ≠ o.obj.digest) || transUsable s t o.obj) }
      match (if toTrans then (s.trans.find? (fun t => transUsable s t o.obj)).map (fun t => (t.code, true))
             else some (sectionBytes o.obj.sections 1, false)) with
      | none => .next s
      | some (bytes, sched) =>
        if safePoint s part base && !spaceBusy s p.asn base (base + o.obj.size) then .next (swapCode s part base o bytes sched)
        else .next (s.setPart part (p.setObj base (fun o => { o with holdIssue := true })))

/-! ### Debugging (R171, R190, R419) -/

/-- Copies n bytes of a byte map from one address to another. -/
def moveCells (l : List Host.Cell) (src dst n : Nat) : List Host.Cell :=
  let cells := (l.filter (fun c => decide (src ≤ c.1) && decide (c.1 < src + n))).map (fun c => (c.1 - src, c.2))
  cells.foldl (fun (l : List Host.Cell) c => store 0#8 l (dst + c.1) c.2) (dropRange l dst (dst + n))

/-- The streams, teams and saved teams of a context move to another address space. -/
def State.moveSpace (s : State) (ctx : Nat) (sp : Nat × Nat) : State :=
  let mine := fun (k : Nat) => (s.stream k).active && decide ((s.stream k).ctx = ctx)
  let to' := fun (t : Team) => { t with bind := { t.bind with asn := sp.1, root := sp.2 } }
  { s with
    streams := s.streams.map (fun e => (e.1, if mine e.1 then { e.2 with space := some sp } else e.2))
    teams := s.teams.map (fun e => (e.1, if e.2.present && mine e.2.bind.slot then to' e.2 else e.2))
    saved := s.saved.map (fun z => if mine z.k then { z with team := to' z.team } else z) }

/-- An address space of the partition's set that no other context uses, or the one the context is in already. -/
def spareSpace (s : State) (k : Nat) (sp : Nat × Nat) : Bool :=
  let x := s.stream k
  decide (x.space = some sp) ||
  ((s.part x.part).more.contains sp && s.streams.all (fun e => !(e.2.active && decide (e.2.space = some sp))))

/-- Whether another address space than the one numbered maps a page of physical memory (R171). -/
def mapsElsewhere (m : MemSys) (asn page : Nat) : Bool :=
  m.spaces.any (fun x => decide (x.asn ≠ asn) && leafAny m (fun leaf size =>
    decide (fld leaf 16 36 * 65536 ≤ page * 65536) && decide (page * 65536 < fld leaf 16 36 * 65536 + size)) ptLevels x.root)

/-- The context's own copy of a code page is made where it is not yet (R171): a page no other address space maps, mapped by the
resident OS, filled with the page's bytes, the context moved to it once its dirty lines are home. -/
def privatePage (s : State) (k va : Nat) (c : DebugCopy) : Option State :=
  let old := physOf s.ms (s.streamSpace k).2 (va / 65536 * 65536)
  let m := s.ms.writeTables c.writes
  let new := physOf m c.root (va / 65536 * 65536)
  if !spareSpace s k (c.asn, c.root) || !pageSuits m c.root 1 (va / 65536) || decide (new ≠ c.page * 65536) || mapsElsewhere m c.asn c.page then none
  else if decide (new = old) then (if (s.stream k).space = some (c.asn, c.root) then some { s with ms := m } else none)
  else
    let m := (m.cores.map Prod.fst).foldl (fun (m : MemSys) i => m.cleanLines i (fun l => (lostAddr m l).isNone)) m
    let m := { m.breakRange new 65536 with mem := moveCells m.mem old new 65536, code := moveCells m.code old new 65536 }
    some (({ s with ms := m } : State).moveSpace (s.stream k).ctx (c.asn, c.root))

/-- `trap.brk` planted at a syllable of the context's own copy, which keeps the syllable's P; the affected instruction-cache
lines are dropped (R57, R171). Log 97 (DEDUCED, unsafe). -/
def plantBreak (s : State) (k va : Nat) (code : BitVec 12) (c : DebugCopy) : State :=
  match privatePage s k va c with
  | none => s
  | some s =>
    let a := va / 4 * 4
    let pa := physOf s.ms c.root a
    let w := BitVec.ofNat 32 (readLE (fun i => look 0#8 s.ms.code i) pa 4)
    match encodeSyl (sylP w) (.trapBrk code) with
    | none => s
    | some w =>
      let m := { s.ms.breakLinks (pa / 64) none with mem := storeLE s.ms.mem pa 4 w.toNat, code := storeLE s.ms.code pa 4 w.toNat }
      { s with ms := m.dropCode (linesOf m c.root (a / 65536 * 65536) 65536) }

/-- Every object of a stream's application runs the form it was loaded in (R190). -/
def State.inSource (s : State) (k : Nat) : Bool :=
  match s.appOf k with
  | some a => a.objs.all (fun o => decide (o.sched = o.obj.sched))
  | none => true

/-- DEBUGGER_REQUEST (R171, R190, R419): of a team held at a breakpoint, it goes on as a `tret` from its saved trap state would, or
its task ends; before that, code of its own may be given a `trap.brk`, or a breakpoint enabled. -/
def execDebuggerRequest (tk : Nat) (req : DebugReq) (s : State) : Out :=
  if Config.teams ≤ tk then .fault .noSuchUnit
  else
    let t := s.team tk
    if t.status ≠ .heldDebug then .next s
    else
      match req with
      | .resume =>
        let t := { t with hregs := handlerBank t t.ctl.tcause.toNat t.ctl.tval, status := .running }
        .next (s.setTeam tk (t.trapReturn.rejoin (s.team (otherSlot tk))))
      | .finish => .next (s.faultTeam tk { cause := .breakpoint, tval := t.ctl.tval })
      | .plant va code c => if s.inSource t.bind.slot then .next (plantBreak s t.bind.slot va code c) else .next s
      | .breakpoint n v =>
        if 8 ≤ n ∨ s.inSource t.bind.slot = false then .next s
        else .next (s.setTeam tk { t with ctl := { t.ctl with bkp := store 0#64 t.ctl.bkp n (v &&& maskBkp) } })

end Sys2Proof.Machine
end

