-- ==== Sys2Proof/Machine/Load.lean ====
section
/-! DEFINITION. What the resident OS and the operator do with links, partitions, fuses and keys (R40 to R42, R174, R187, R191, R194,
R334, R360, R377, R378, R402). -/

namespace Sys2Proof.Machine

/-! ### Lazy binding (R191, R194) -/

/-- The object and import that a linkage-table address names, in the caller's application. -/
def App.linkEntry (a : App) (addr : Nat) : Option (LoadedObj × Nat) :=
  (a.objs.find? (fun o =>
    decide (objAt o.base o.obj.ltOff ≤ addr) && decide (addr < objAt o.base o.obj.ltOff + 8 * o.obj.imports))).map
    (fun o => (o, (addr - objAt o.base o.obj.ltOff) / 8))

/-- The address of the export an import record names. -/
def App.exportOf (a : App) (name : Nat) : Option Nat :=
  a.objs.findSome? (fun o => ((objExports o.obj).find? (fun e => decide (e.1 = name))).map (fun e => o.base + e.2))

/-- A failed RESOLVE ends the task with the trap its handler was given (R191, R355). Log 36 (DEDUCED, unsafe). -/
def State.resolveFails (s : State) (tk : Nat) : State :=
  let t := s.team tk
  s.faultTeam tk { cause := causeOf t.ctl.tcause.toNat, tval := t.ctl.tval }

/-- RESOLVE (R191): the entry written once, the caller's line dropped, s1 zero. -/
def execResolve (c : Caller) (s : State) : Out :=
  match c with
  | .stream _ => .next s
  | .team tk =>
    if !s.calling c 1 then .next s
    else
      let k := s.callerStream c
      let a := s.callArg c 1
      match (s.appOf k).bind (fun p => (p.linkEntry a.toNat).map (fun e => (p, e))) with
      | none => .next (s.resolveFails tk)
      | some (app, o, j) =>
        match streamAccess s k .write a with
        | (s, .error _) => .next (s.resolveFails tk)
        | (s, .ok x) =>
          if s.ms.poisoned x.pa then .next (s.resolveFails tk)
          else
            let done := fun (s : State) => { s with ms := s.ms.evictLine (coreOf tk) x.pa }.answer c 0#64
            if s.ms.homeRead x.pa 8 ≠ o.stub then .next (done s)
            else
              match app.exportOf (Config.importName (sectionBytes o.obj.sections 6) j) with
              | none => .next (s.resolveFails tk)
              | some v => .next (done { s with ms := (s.ms.markWrite x a.toNat).homeWrite x.pa 8 v (none : Party) })

/-! ### Partitions (R40 to R42, R377, R378) -/

/-! ### The resident OS's answer to a fault (R358, R360) -/

/-- R360: the page's table entries written, its memory zero and free of poison, and its translations dropped (R183); none where the
writes do not map the page to the HBM4E page named, or something still uses a translation of it. -/
def backPage (s : State) (k a : Nat) (b : Backing) : Option State :=
  let sp := s.streamSpace k
  let lo := a / 65536 * 65536
  let m := s.ms.writeTables b.writes
  if decide (regionOf (b.page * 65536) ≠ 0) || !m.isPop (b.page * 65536) || !pageMapped m sp.2 (a / 65536) ||
      decide (physOf m sp.2 lo ≠ b.page * 65536) || spaceBusy s sp.1 lo (lo + 65536) then none
  else
    let m := { m.breakRange (b.page * 65536) 65536 with
      mem := dropRange m.mem (b.page * 65536) (b.page * 65536 + 65536)
      memPoison := m.memPoison.filter (fun x => decide (x / 1024 ≠ b.page)) }
    let p := s.part (s.stream k).part
    some ((({ s with ms := m } : State).invalidate sp.1 lo (lo + 65536)).setPart (s.stream k).part
      { p with backed := p.backed ++ [(sp.1, a / 65536)] })

/-- STREAM_RESTART (R358): decode again at the faulting T-op, a deferred page backed first and at most once, or the stream's end
with TASK_FAULT. -/
def execStreamRestart (k : Nat) (restart : Bool) (back : Option Backing) (s : State) : Out :=
  if Config.streamSlots ≤ k then .fault .noSuchUnit
  else
    let x := s.stream k
    match x.faultRec with
    | none => .next s
    | some f =>
      if !x.active || x.ending.isSome || !x.stopped || !x.window.isEmpty then .next s
      else if !restart then
        .next (s.setStream k { x with ending := some .taskFault, endReason := f.reason, endCause := f.cause })
      else
        let go := fun (s : State) => s.setStream k { s.stream k with stopped := false }
        if !deferredFault x f || (s.part x.part).backed.contains ((s.streamSpace k).1, f.tval.toNat / 65536) then .next (go s)
        else
          -- the OS backs a deferred page before it restarts
          match back.bind (backPage s k f.tval.toNat) with
          | some s => .next (go s)
          | none => .next s

/-! ### Requests for partitions -/

/-- Two descriptors' memories lie apart (R334). -/
def descsApart (x y : Nat × Nat × Nat) : Bool := decide (x.1 + 2 ^ x.2.1 ≤ y.1) || decide (y.1 + 2 ^ y.2.1 ≤ x.1)

/-- The address spaces of a request: its partition's own first. -/
def spacesOf (r : PartReq) : List (Nat × Nat × Nat) := (r.asn, r.root, r.dmap) :: r.more

/-- R174: an address space's number has 16 bits; its root is a 4 KiB table of 52-bit physical space. -/
def spaceFormed (x : Nat × Nat × Nat) : Bool := decide (x.1 < 65536) && decide (x.2.1 % 4096 = 0) && decide (x.2.1 < 2 ^ 52)

/-- A request gives every pair to exactly one partition, each with a slot, address spaces of its own and its descriptors (R40, R41,
R174, R334, R378). -/
def reqFormed (req : List PartReq) : Bool :=
  decide (1 ≤ req.length) && decide (req.length ≤ 20) && req.all (fun r => !r.pairs.isEmpty && !r.slots.isEmpty && decide (r.wdper ≠ 0#32)) &&
  (List.range Config.pairs).all (fun p => decide ((req.filter (fun r => r.pairs.contains p)).length = 1)) &&
  (req.flatMap (fun r => r.pairs)).all (fun p => decide (p < Config.pairs)) && decide ((req.flatMap (fun r => r.pairs)).Nodup) &&
  (req.flatMap (fun r => r.slots)).all (fun k => decide (k < Config.streamSlots)) && decide ((req.flatMap (fun r => r.slots)).Nodup) &&
  decide ((req.flatMap (fun r => (spacesOf r).map Prod.fst)).Nodup) && req.all (fun r => (spacesOf r).all spaceFormed) &&
  req.all (fun r => decide (r.descs.length = Config.descriptors) && decide (r.descs.Pairwise (fun x y => descsApart x y = true)))

/-- A pair or slot moves out of or into partition j while it may not: a bound team, or a stream that runs. Log 48 (DEDUCED,
safe). -/
def reqMoves (s : State) (j : Nat) (r : PartReq) : Bool :=
  let p := s.part j
  let anyBound := p.pairs.any (fun q => s.teams.any (fun e => decide (pairOf (coreOf e.1) = q) && e.2.present))
  let lost := p.pairs.any (fun q => !r.pairs.contains q)
  let lostSlot := p.slots.any (fun k => !r.slots.contains k && (s.stream k).active)
  let lostSpace := p.slots.any (fun k => (s.stream k).active && (match (s.stream k).space with
    | some sp => !(r.more.map (fun x => (x.1, x.2.1))).contains sp
    | none => false))
  (lost && anyBound) || lostSlot || lostSpace ||
  (!p.pairs.isEmpty && (decide (p.asn ≠ r.asn) || decide (p.root ≠ r.root)) && p.slots.any (fun k => (s.stream k).active))

def descsOf (l : List (Nat × Nat × Nat)) : List Desc :=
  l.zipIdx.map (fun d => { id := d.2, base := BitVec.ofNat 64 d.1.1, cap := d.1.2.1, place := d.1.2.2 })

/-- A partition as a request leaves it: what it had stays where its address space does. -/
def newPartition (p : Partition) (r : PartReq) : Partition :=
  let base := if !p.pairs.isEmpty && decide (p.asn = r.asn) && decide (p.root = r.root) then p
    else { Partition.reset with descs := descsOf r.descs, free := descsOf r.descs, keys := p.keys }
  { base with pairs := r.pairs, slots := r.slots, asn := r.asn, root := r.root, more := r.more.map (fun x => (x.1, x.2.1)), wdper := r.wdper, debugOk := r.debugOk }

/-- The address spaces of partition j; checkpointing stays as it was (R396). -/
def spaceOf (old : List Space) (j : Nat) (r : PartReq) : List Space :=
  (spacesOf r).map (fun x =>
    { asn := x.1, root := x.2.1, dmap := x.2.2, part := j
      ckpt := match old.find? (fun y => decide (y.asn = x.1)) with | some y => y.ckpt | none => false })

/-- Applies a request that may be applied; a slot that moves leaves its last stream's descriptors behind. Log 58 (DEDUCED,
unsafe). -/
def State.applyParts (s : State) (req : List PartReq) : State :=
  let s := req.zipIdx.foldl (fun (s : State) r =>
    (r.1.slots.filter (fun k => decide ((s.stream k).part ≠ r.2))).foldl State.freeHeld s) s
  let old := s.ms.spaces
  let parts := req.zipIdx.map (fun r => (r.2, newPartition (s.part r.2) r.1))
  let fresh := (List.range 20).filter (fun j =>
    match req[j]? with
    | some r => decide ((s.part j).asn ≠ r.asn) || decide ((s.part j).root ≠ r.root)
    | none => true)
  let ms := { s.ms with
    spaces := req.zipIdx.flatMap (fun r => spaceOf old r.2 r.1)
    knots := s.ms.knots.filter (fun e => !fresh.contains (e.1 / 65536)) }
  let s := { s with parts := parts, ms := ms }
  req.zipIdx.foldl (fun (s : State) r => r.1.slots.foldl (fun (s : State) k => s.setStream k { s.stream k with part := r.2 }) s) s

/-- PARTITION_CHANGE (R40, R378, R402, R403): applied whole and stored, or refused. -/
def execPartitionChange (r : Request (List PartReq)) (s : State) : Out :=
  let req := r.what
  let gone := (s.parts.filter (fun e => decide (req.length ≤ e.1))).any (fun e =>
    reqMoves s e.1 { pairs := [], slots := [], asn := e.2.asn, root := e.2.root, dmap := 0, more := [], wdper := 1, debugOk := false, descs := [] })
  if s.byOperator r.auth && reqFormed req && !gone && req.zipIdx.all (fun r => !reqMoves s r.2 r.1) then
    .next { s.applyParts req with stored := req }
  else .next s

/-- FUSE_ADVANCE (R187, R402): fuses only blow. -/
def execFuseAdvance (n : Request Nat) (s : State) : Out :=
  if s.byOperator n.auth ∧ s.svFuses ≤ n.what ∧ n.what ≤ 64 then .next { s with svFuses := n.what } else .next s

/-- KEY_ENROLL (R402). -/
def execKeyEnroll (part : Nat) (key : Request PubKey) (s : State) : Out :=
  let p := s.part part
  if !s.byOperator key.auth || p.keys.contains key.what then .next s else .next (s.setPart part { p with keys := p.keys ++ [key.what] })

end Sys2Proof.Machine
end

