-- ==== Sys2Proof/Machine/MatrixQueue.lean ====
section
/-! DEFINITION. The matrix queue and the shared array: one step of a slot's oldest entry (R275 to R278, R283, R294 to
R296). -/

namespace Sys2Proof.Machine

/-- A byte of a team's local memory by its `lm:` offset. -/
def State.lmByteOf (s : State) (tk off : Nat) : Byte := s.ms.lmByte (coreOf tk) ((s.team tk).lmBase + off)

/-- The `lm:` address of the first poisoned block a step reads. -/
def lmPoisonIn (s : State) (tk : Nat) (ss : List Span) : Option Nat :=
  let t := s.team tk
  firstSome (fun (x : Span) =>
    if x.len = 0 then none
    else ((List.range ((x.addr + x.len - 1) / 64 - x.addr / 64 + 1)).map (x.addr / 64 + ·)).find?
      (fun b => s.ms.lmBad (coreOf tk) (t.lmBase + b * 64))) ss |>.map (· * 64)

/-- R393: a step reads a poisoned block of a vector register, which comes before everything the words read there lead to.
Log 22 (DEDUCED, unsafe). -/
def mVecPoison (s : State) (tk : Nat) (o : MOp) (e : QEntry) : Bool := (mopStepVec o e).any (s.team tk).vec.vPoison.contains

/-- R295: the poisoned data a step reads, local memory first. -/
def mStepPoison (s : State) (tk : Nat) (o : MOp) (e : QEntry) : Option TrapInfo :=
  let t := s.team tk
  match lmPoisonIn s tk (mopStepReads o e t.vec t.bind.tidx e.start) with
  | some a => some (ueAt false a)
  | none => if (mopStepBlocks o e e.start).any t.vec.accPoison.contains then some ueNoAddr else none

/-- Whether the bytes an entry writes to local memory set full/empty bits (R52). -/
def mopFills : MOp → Bool
  | .st | .drain _ _ _ => true
  | _ => false

/-- The bytes a step leaves in local memory, with the bits of their granules (R52, R275). -/
def putOut (s : State) (tk : Nat) (fill : Bool) (out : List (Nat × Byte)) : State :=
  let base := (s.team tk).lmBase
  out.foldl (fun (s : State) b =>
    let ms := s.ms.lmWrite (coreOf tk) (base + b.1) 1 b.2.toNat
    { s with ms := if fill then ms.setFull (coreOf tk) (base + b.1) true else ms }) s

/-- One step of an entry that passed its checks. -/
def mStepRun (s : State) (tk : Nat) (o : MOp) (e : QEntry) : State :=
  let t := s.team tk
  let r := mopStep o e t.vec (s.lmByteOf tk) t.bind.tidx e.start
  let w := clsWeight t.bind.cls
  let t := { t with vec := r.vec, mvt := (t.mvt + 8 * mopCycles o e / w) % 2 ^ 64 }
  let e := { e with start := e.start + 1, fl := e.fl ||| r.fl }
  let t := if mopSteps o e ≤ e.start then
      ({ t with q := { t.q with mq := dropEntry t.q.mq e.no } } : Team).complete e
    else { t with q := { t.q with mq := putEntry t.q.mq e } }
  let core := s.ms.core (coreOf tk)
  let s := { s with ms := s.ms.setCore (coreOf tk) { core with mOwner := tk % 2 } }
  putOut (s.setTeam tk t) tk (mopFills o) r.out

/-- Whether the slot's oldest M entry can go on. -/
def mReady (s : State) (tk : Nat) : Bool :=
  let t := s.team tk
  t.runs &&
  (match t.q.mq with
   | [] => false
   | e :: _ =>
     match e.op with
     | .m o => !(t.faultBefore e.no || t.mWaits e || (mopFills o && t.relWaits e.no))
     | _ => false)

/-- Whether the array's next step is the slot's: the other has none, or a larger virtual time, or on a tie was served last
(R277). Log 65 (DEDUCED, safe). -/
def mServe (s : State) (tk : Nat) : Bool :=
  let t := s.team tk
  let o := s.team (otherSlot tk)
  !mReady s (otherSlot tk) || decide (t.mvt < o.mvt) ||
    (decide (t.mvt = o.mvt) && decide ((s.ms.core (coreOf tk)).mOwner ≠ tk % 2))

/-- The next step of the queue's oldest entry; its checks come before its first (R283). -/
def matrixTurn (s : State) (tk : Nat) : State :=
  let t := s.team tk
  match t.q.mq with
  | [] => s
  | e :: _ =>
    match e.op with
    | .m o =>
      if !mReady s tk || !mServe s tk then s
      else if mopSteps o e ≤ e.start then
        s.setTeam tk (({ t with q := { t.q with mq := dropEntry t.q.mq e.no } } : Team).complete e)
      else
        let fault := fun (e : QEntry) (f : TrapInfo) =>
          s.setTeam tk { t with q := { t.q with mq := putEntry t.q.mq { e with fault := some f } } }
        if mVecPoison s tk o e then fault e ueNoAddr
        else
        match (if e.idx = 0 then mopFault t.lmSize o e t.vec t.bind.tidx else none) with
        | some f => fault e f
        | none =>
          let e := { e with idx := 1 }
          match mStepPoison s tk o e with
          | some f => fault e f
          | none => mStepRun s tk o e
    | _ => s

/-- MATRIX_STEP (R277). -/
def execMatrixStep (tk : Nat) (s : State) : Out :=
  if Config.teams ≤ tk then .fault .noSuchUnit
  else if !(s.team tk).runs then .next s
  else .next ((matrixTurn s tk).wakeFe s)

end Sys2Proof.Machine
end

