-- ==== Sys2Proof/Machine/Power.lean ====
section
/-! DEFINITION. The power manager, leases, over-current kills, watchdog drains, thermal levels and wear (R377, R379 to R392). -/

namespace Sys2Proof.Machine

/-! ### Levels (R380, R381) -/

/-- What the share of a team rests on: its slot, weight, and, in position units, its class floor and its demand. -/
structure PTeam where
  tk   : Nat
  w    : Nat
  flr  : Nat
  dem  : Nat
  deriving DecidableEq, Repr

/-- The most positions a cluster's level and its core's wear let a team hold (R387, R391). -/
def capPositions (s : State) (tk : Nat) : Nat :=
  let lv := match (s.cluster (clusterOf tk)).level with | .l0 => 2048 | .l1 => 1024 | .l2 | .trip => 64
  let wr := match (s.ms.core (coreOf tk)).wearState with | .healthy => 2048 | _ => 1024
  min lv wr

/-- A resident team: its demand is VLMAX(32) of its core and mode, within what level and wear allow. -/
def pTeam (s : State) (e : Nat × Team) : PTeam :=
  let b := e.2.bind
  let d := posUnits b.prot (min (vlmax (s.lanesOf e.1) 32) (capPositions s e.1))
  { tk := e.1, w := clsWeight b.cls, flr := min d (posUnits b.prot (clsFloor b.cls)), dem := d }

/-- Units at level l: in proportion to the weight, not below the floor, not above the demand. -/
def PTeam.units (x : PTeam) (l : Nat) : Nat := min x.dem (max x.flr (x.w * l / 8))

def unitsAt (ts : List PTeam) (l : Nat) : Nat := ts.foldl (fun n x => n + x.units l) 0

/-- A level at which every team has its demand. -/
def topLevel : Nat := 32768

/-- The largest level from lo that p admits, p admitting lo; `step` halves (binary search). -/
def topWhere (p : Nat → Bool) : Nat → Nat → Nat → Nat
  | 0, _, lo => lo
  | k + 1, step, lo => topWhere p k (step / 2) (if decide (lo + step ≤ topLevel) && p (lo + step) then lo + step else lo)

/-- The largest level at or above lo. -/
def maxLevel (p : Nat → Bool) (lo : Nat) : Nat := topWhere p 16 32768 lo

/-- The smallest level at or above lo at which the units reach n. -/
def reachLevel (ts : List PTeam) (n lo : Nat) : Nat :=
  if n ≤ unitsAt ts lo then lo
  else
    let l := maxLevel (fun l => decide (unitsAt ts l < n)) lo
    min topLevel (l + 1)

/-- The units a cluster needs so that ballast can balance it against one that draws da. -/
def leastUnits (da : Nat) : Nat := needBallast da 0 - maxBallast

/-- The two levels when no team lies below level t, the lighter cluster raised only as far as balance asks. -/
def levelsAt (a b : List PTeam) (t : Nat) : Nat × Nat :=
  let da := unitsAt a t
  let db := unitsAt b t
  if db ≤ da then (t, reachLevel b (leastUnits da) t) else (reachLevel a (leastUnits db) t, t)

/-- The weighted max-min levels of a pair's two clusters within its budget and balance (R380, R381). Log 46 (DEDUCED,
unsafe). -/
def shareLevels (budget : Nat) (a b : List PTeam) : Nat × Nat :=
  let fits := fun (x : Nat × Nat) => pairFits budget (unitsAt a x.1) (unitsAt b x.2)
  let t := maxLevel (fun t => fits (levelsAt a b t)) 0
  let l := levelsAt a b t
  let la := maxLevel (fun x => fits (x, l.2)) l.1
  let lb := maxLevel (fun x => fits (la, x)) l.2
  (la, lb)

/-- A cluster's teams with their floors at most c. -/
def cutFloors (c : Nat) (ts : List PTeam) : List PTeam := ts.map (fun x => { x with flr := min c x.flr })

/-- Where a kill or a throttled cluster leaves the other's floors without balance, the floors yield, all of the heavier
cluster alike and no more than balance asks (R380). Log 46 (DEDUCED, unsafe). -/
def yieldFloors (budget : Nat) (a b : List PTeam) : List PTeam × List PTeam :=
  let fits := fun (a b : List PTeam) =>
    let l := levelsAt a b 0
    pairFits budget (unitsAt a l.1) (unitsAt b l.2)
  let da := unitsAt a 0
  let db := unitsAt b 0
  if db ≤ da then (cutFloors (maxLevel (fun c => decide (unitsAt (cutFloors c a) 0 ≤ db) || fits (cutFloors c a) b) 0) a, b)
  else (a, cutFloors (maxLevel (fun c => decide (unitsAt (cutFloors c b) 0 ≤ da) || fits a (cutFloors c b)) 0) b)

/-- A team with the units it is given. -/
abbrev Given := List (PTeam × Nat)

def givenSum (g : Given) : Nat := g.foldl (fun n x => n + x.2) 0

/-- The whole draw of a pair: static, capacities and ballast. -/
def pairDraw (a b : Nat) : Nat := 2 * staticUnits + a + b + needBallast (max a b) (min a b)

/-- A leased stream's teams raised to level l where that gives them more; none on a throttled cluster (R383, R387). -/
def raiseTo (s : State) (k l : Nat) (g : Given) : Given :=
  g.map (fun x =>
    if (s.team x.1.tk).bind.slot = k ∧ (s.cluster (clusterOf x.1.tk)).level = .l0 then (x.1, max x.2 (x.1.units l)) else x)

/-- A lease's share on a pair, in units: in proportion to the stream's bound teams there (R383). -/
def leaseUnits (s : State) (k pair : Nat) : Nat :=
  let x := s.stream k
  let all := (s.teamsOf k).filter (fun tk => decide ((s.team tk).status ≠ .halted))
  let here := all.filter (fun tk => decide (pairOf (coreOf tk) = pair))
  if x.lease.st = .active ∧ all ≠ [] then wattUnits x.lease.granted.toNat * here.length / all.length else 0

/-- Adds the leases on a pair, stream by stream in slot order. Log 46 (DEDUCED, unsafe). -/
def addLeases (s : State) (pair : Nat) : List Nat → Given × Given → Given × Given
  | [], g => g
  | k :: ks, g =>
    let extra := leaseUnits s k pair
    if extra = 0 then addLeases s pair ks g
    else
      let most := pairDraw (givenSum g.1) (givenSum g.2) + extra
      let fits := fun (l : Nat) =>
        let a := givenSum (raiseTo s k l g.1)
        let b := givenSum (raiseTo s k l g.2)
        decide (needBallast (max a b) (min a b) ≤ maxBallast) && decide (pairDraw a b ≤ most)
      let l := maxLevel fits 0
      addLeases s pair ks (raiseTo s k l g.1, raiseTo s k l g.2)

/-- The capacities of one pair as an epoch sets them, with its ballast (R379 to R381, R383). -/
def setPair (s : State) (pair : Nat) : State :=
  let ca := 2 * pair
  let cb := 2 * pair + 1
  let budget := wattUnits (s.pairWatts pair)
  let f := yieldFloors budget ((s.resident ca).map (pTeam s)) ((s.resident cb).map (pTeam s))
  let a := f.1
  let b := f.2
  let l := shareLevels budget a b
  let g := addLeases s pair (List.range Config.streamSlots) (a.map (fun x => (x, x.units l.1)), b.map (fun x => (x, x.units l.2)))
  let da := givenSum g.1
  let db := givenSum g.2
  let s := (g.1 ++ g.2).foldl (fun (s : State) x =>
    s.setTeam x.1.tk { s.team x.1.tk with cap32 := if (s.team x.1.tk).bind.prot then x.2 / 2 else x.2 }) s
  let n := needBallast (max da db) (min da db)
  let s := s.setCluster ca { s.cluster ca with ballast := if da < db then n else 0 }
  s.setCluster cb { s.cluster cb with ballast := if db < da then n else 0 }

/-! ### Operator policies (R380) -/

/-- The module's sustained watts, which the partitions share (R8). -/
def moduleWatts : Nat := 3200

/-- Watts of every pair together. -/
def State.allWatts (s : State) : Nat := (List.range Config.pairs).foldl (fun n p => n + s.pairWatts p) 0

/-- Watts of every pair once all waiting policies have been applied. -/
def State.plannedWatts (s : State) (next : List (Nat × Nat)) : Nat :=
  (List.range Config.pairs).foldl (fun n p => n + look (s.pairWatts p) next p) 0

/-- The floors of a pair's residents fit a budget. -/
def floorsUnder (s : State) (pair w : Nat) : Bool := pairFits (wattUnits w) (floorUnits s (2 * pair)) (floorUnits s (2 * pair + 1))

/-- Applies each waiting policy whose pair's floors allow it and which keeps the module within its watts (R8, R380). -/
def State.applyPolicies (s : State) : State :=
  s.pairNext.foldl (fun (s : State) x =>
    let t := { s with pairW := put s.pairW x.1 x.2, pairNext := drop s.pairNext x.1 }
    if floorsUnder s x.1 x.2 && decide (t.allWatts ≤ max moduleWatts s.allWatts) then t else s) s

/-- POWER_POLICY_CHANGE (R8, R380, R402): the watts of a partition's pairs, the shares of all partitions staying within the
module's 3,200 W; each part applies once the floors allow. Log 47 (DEDUCED, safe). -/
def execPowerPolicyChange (part : Nat) (r : Request (List (Nat × Nat))) (s : State) : Out :=
  let p := s.part part
  let shares := r.what
  let next := shares.foldl (fun m x => put m x.1 x.2) s.pairNext
  if s.byOperator r.auth && shares.all (fun x => p.pairs.contains x.1) && decide ((shares.map Prod.fst).Nodup) &&
      decide (s.plannedWatts next ≤ moduleWatts) then
    .next ({ s with pairNext := next } : State).applyPolicies
  else .next s

/-! ### Leases (R382 to R384) -/

/-- Watts of active leases. -/
def State.leased (s : State) : Nat :=
  s.streams.foldl (fun n e => n + (if e.2.lease.st = .active then e.2.lease.granted.toNat else 0)) 0

/-- Energy of leases begun in the last 100 ms, in microjoules. Log 45 (DEDUCED, unsafe). -/
def State.begun (s : State) : Nat :=
  s.energy.foldl (fun n e => if s.epoch < e.1 + 10000 then n + e.2 else n) 0

/-- The most watts the pool and the window allow a lease of `us` microseconds. -/
def State.leaseRoom (s : State) (us : Nat) : Nat := min (800 - s.leased) ((8000000 - s.begun) / max 1 us)

def State.begin' (s : State) (w us : Nat) : State := { s with energy := (s.epoch, w * us) :: s.energy }

/-- One stream's lease at an epoch: a request granted or refused, a suspended lease tried again, LEFT counted down to its
expiry (R383, R384). Log 31 (DEDUCED, unsafe). -/
def leaseEpoch (s : State) (k : Nat) : State :=
  let x := s.stream k
  let l := x.lease
  if l.req then
    let w := min l.watts.toNat (s.leaseRoom l.dur.toNat)
    if w = 0 then s.setStream k { x with lease := { l with req := false, st := .refused, granted := 0, left := 0 } }
    else
      (s.begin' w l.dur.toNat).setStream k { x with
        lease := { l with req := false, st := .active, granted := BitVec.ofNat 16 w, left := l.dur.setWidth 32 } }
  else
  match l.st with
  | .suspended =>
    if s.anyBound k && decide (l.granted.toNat ≤ s.leaseRoom l.left.toNat) then
      (s.begin' l.granted.toNat l.left.toNat).setStream k { x with lease := { l with st := .active } }
    else s
  | .active =>
    -- LEFT stands while no team of the stream is bound (R383)
    if !s.anyBound k then s
    -- expiry comes before the epoch's capacities (R392)
    else if l.left.toNat ≤ 10 then s.setStream k { x with lease := l.expire }
    else s.setStream k { x with lease := { l with left := l.left - 10#32 } }
  | _ => s

/-- Watchdogs count the epoch's 10 µs (R377). Log 31 (DEDUCED, unsafe). -/
def tickWatchdog (s : State) (k : Nat) : State :=
  let x := s.stream k
  if x.active && x.ending.isNone && !x.lrec.load then
    s.setStream k { x with wdLeft := if x.wdLeft.toNat ≤ 10 then 0 else x.wdLeft - 10#32 }
  else s

/-- The teams of a partition's streams. -/
def State.teamsOfPart (s : State) (p : Nat) : List Nat :=
  ((s.streams.filter (fun e => decide (e.2.part = p))).map Prod.fst).flatMap s.teamsOf

/-- The leases of a drained partition's streams are forfeited before anything can suspend them (R384, R392). -/
def State.forfeit (s : State) (part : Nat) : State :=
  { s with streams := s.streams.map (fun e =>
      (e.1, if decide (e.2.part = part) && e.2.active then { e.2 with lease := e.2.lease.end' .watchdog } else e.2)) }

/-- A watchdog has expired (R377): the partition stops decoding and asks for the pre-emption of its teams. -/
def State.watchdogDrain (s : State) (k : Nat) : State :=
  let x := s.stream k
  let s := s.setStream k { x with wdLeft := 0, endReason := 1 }
  let s := (s.setPart x.part { s.part x.part with draining := true }).forfeit x.part
  (s.teamsOfPart x.part).foldl (fun (s : State) tk => s.setTeam tk { s.team tk with preemptReq := true }) s

/-- A watchdog counts in a stream that runs. -/
def Stream.watched (x : Stream) : Bool := x.active && x.ending.isNone && !x.lrec.load

/-- A watchdog at 0 drains its partition. Log 31 (DEDUCED, unsafe). -/
def State.watchdogDue (s : State) (k : Nat) : State :=
  if (s.stream k).watched && decide ((s.stream k).wdLeft = 0#32) then s.watchdogDrain k else s

/-- No lease counts as having expired in this epoch. Log 31 (DEDUCED, unsafe). -/
def State.closeLeases (s : State) : State :=
  { s with streams := s.streams.map (fun e => (e.1, { e.2 with lease := { e.2.lease with lapsed := none } })) }

/-- POWER_EPOCH (R379, R392): policies, then the watchdogs and the leases of the epoch, then every slot's capacity. -/
def execPowerEpoch (s : State) : Out :=
  let s := { s with epoch := s.epoch + 1, energy := s.energy.filter (fun e => decide (s.epoch + 1 < e.1 + 10000)) }
  let s := s.applyPolicies
  let ks := List.range Config.streamSlots
  let s := ks.foldl tickWatchdog s
  let s := ks.foldl State.watchdogDue s
  let s := ks.foldl leaseEpoch s
  .next ((List.range Config.pairs).foldl setPair s.closeLeases)

/-- LEASE_EXPIRY (R383): the watts return to the pool; it may come between two epochs, once at most an epoch's time is left
and while a team of the stream is bound. Log 31 (DEDUCED, unsafe). -/
def execLeaseExpiry (k : Nat) (s : State) : Out :=
  if Config.streamSlots ≤ k then .fault .noSuchUnit
  else
    let x := s.stream k
    if x.lease.st = .active ∧ x.lease.left.toNat ≤ 10 ∧ s.anyBound k = true then .next (s.setStream k { x with lease := x.lease.expire })
    else .next s

/-! ### Over-current (R385, R386) -/

/-- Samples of 10 µs in the dwell of 1 ms (R388). -/
def dwellSamples : Nat := 100

/-- The contexts that run; a load record starts no stream and is none (R374, R375). -/
def State.contexts (s : State) : List Nat :=
  ((s.streams.filter (fun e => e.2.active && e.2.ending.isNone && !e.2.lrec.load)).map (fun e => e.2.ctx)).eraseDups

/-- The slots of a context. -/
def State.ctxSlots (s : State) (c : Nat) : List Nat :=
  (s.streams.filter (fun e => e.2.active && e.2.ending.isNone && decide (e.2.ctx = c))).map Prod.fst

/-- A cluster has entered Trip since the last sample, which comes once an epoch (R387). Log 42 (DEDUCED, unsafe). -/
def Cluster.justTripped (x : Cluster) : Bool := decide (x.level = .trip) && decide (x.dwell = dwellSamples)

/-- The teams of a context that are bound, a pre-empted one being so no longer; a kill comes before a trip of the same epoch
(R392). -/
def State.ctxTeams (s : State) (c : Nat) : List Nat :=
  ((s.ctxSlots c).flatMap s.teamsOf).filter (fun tk =>
    decide ((s.team tk).status ≠ .halted) || (s.cluster (clusterOf tk)).justTripped)

/-- A context's class: the one its host record gave it, the lowest of its streams. -/
def State.ctxClass (s : State) (c : Nat) : Nat := (s.ctxSlots c).foldl (fun n k => min n (s.stream k).lrec.cls.toNat) 3

/-- The capacity its bound teams hold. Log 43 (DEDUCED, unsafe). -/
def State.ctxCap (s : State) (c : Nat) : Nat := (s.ctxTeams c).foldl (fun n tk => n + (s.team tk).cap32) 0

/-- The context to kill: of the numerically highest class, then of the most capacity, then the oldest. Log 42 (DEDUCED,
unsafe). -/
def chooseKill (s : State) (pair : Option Nat) : Option Nat :=
  let cs := s.contexts.filter (fun c =>
    match pair with
    | none => true
    | some p => (s.ctxTeams c).any (fun tk => decide (pairOf (coreOf tk) = p)))
  cs.foldl (fun (b : Option Nat) c =>
    match b with
    | none => some c
    | some d =>
      if decide (s.ctxClass d < s.ctxClass c) || (decide (s.ctxClass d = s.ctxClass c) &&
          (decide (s.ctxCap d < s.ctxCap c) || (decide (s.ctxCap d = s.ctxCap c) && decide (c < d)))) then some c else some d) none

/-- A power kill (R386): every stream of the context ends at once; what it had queued does not start. Log 42 (DEDUCED,
unsafe). -/
def State.killContext (s : State) (c : Nat) : State :=
  let s := (s.ctxSlots c).foldl (fun (s : State) k => s.killStream k .powerKill 0) s
  { s with streams := s.streams.map (fun e => (e.1, { e.2 with devq := e.2.devq.filter (fun d => decide (d.2 ≠ c)) })) }

def killNext (s : State) (pair : Option Nat) : State :=
  match chooseKill s pair with
  | none => s
  | some c => s.killContext c

def badPair (pair : Option Nat) : Bool :=
  match pair with
  | some p => decide (Config.pairs ≤ p)
  | none => false

/-- OVER_CURRENT_EVENT (R385): the first kill, and the module event. -/
def execOverCurrentEvent (pair : Option Nat) (s : State) : Out :=
  if badPair pair then .fault .noSuchUnit else .next (killNext (s.moduleEvent .overCurrent) pair)

/-- NEXT_CONTEXT_KILL (R385): the limit is still exceeded 2 µs on. -/
def execNextContextKill (pair : Option Nat) (s : State) : Out :=
  if badPair pair then .fault .noSuchUnit else .next (killNext s pair)

/-! ### Watchdogs (R377) -/

/-- WATCHDOG_EXPIRY (R377): the drain of the stream's partition. It may come once at most an epoch's time is left. Log 31
(DEDUCED, unsafe). -/
def execWatchdogExpiry (k : Nat) (s : State) : Out :=
  if Config.streamSlots ≤ k then .fault .noSuchUnit
  else
    let x := s.stream k
    if !x.active || x.ending.isSome || x.lrec.load || decide (10 < x.wdLeft.toNat) then .next s
    else .next (s.watchdogDrain k)

/-- A slot of a drained partition (R377): registers, maps and device queue reset, the host queue disabled; a stream that
ran has its record still to write. -/
def drainSlot (s : State) (k : Nat) : State :=
  let s := s.killStream k .watchdog (s.stream k).endReason
  let x := s.stream k
  s.setStream k { x with
    spc := 0, t := [], smap := [], rmap := [], window := [], devq := [], stopped := false, qen := false, parked := false
    retries := 0, qstate := if x.active then .running else .disabled }

/-- DRAIN_KILL_TIMEOUT (R377): what has not halted is killed, saved contexts are discarded, and the partition is reset. -/
def execDrainKillTimeout (part : Nat) (s : State) : Out :=
  let p := s.part part
  if !p.draining then .next s
  else
    let ks := (s.streams.filter (fun e => decide (e.2.part = part))).map Prod.fst
    let s := ks.foldl drainSlot s
    let s := { s with ms := { s.ms with knots := s.ms.knots.filter (fun e => decide (e.1 / 65536 ≠ part)) } }
    .next (s.setPart part { s.part part with free := p.descs, draining := false })

/-! ### Temperature (R387, R388) -/

/-- The level a reading, in quarter degrees, moves a cluster to. -/
def nextLevel (l : Thermal) (r : Int) : Thermal :=
  if 460 ≤ r then .trip
  else
    match l with
    | .l0 => if 380 ≤ r then .l1 else .l0
    | .l1 => if 420 ≤ r then .l2 else if r ≤ 368 then .l0 else .l1
    | .l2 => if r ≤ 408 then .l1 else .l2
    | .trip => if r ≤ 448 then .l2 else .trip

/-- THERMAL_SAMPLE (R387, R388): a transition, at most one in 1 ms but for entry to Trip, which pre-empts the cluster. -/
def execThermalSample (c : Nat) (r : Int) (s : State) : Out :=
  if Config.clusters ≤ c then .fault .noSuchUnit
  else
    let x := s.cluster c
    let left := x.dwell - 1
    let l := nextLevel x.level r
    if l = x.level ∨ (0 < left ∧ l ≠ .trip) then .next (s.setCluster c { x with dwell := left })
    else
      let s := s.setCluster c { x with level := l, dwell := dwellSamples }
      if l = .trip then .next (((s.resident c).map Prod.fst).foldl State.preempt (s.moduleEvent .trip)) else .next s

/-! ### Wear (R389 to R391) -/

/-- The lifetime budget of a core, in 2^−20 WU / 100. -/
def wearBudget : Nat := 200000000 * 1048576 * 100

/-- The state a consumption brings; a state never reverts. -/
def wearStateOf (old : WearState) (w : Nat) : WearState :=
  if wearBudget ≤ w then .retired
  else
    match old with
    | .retired => .retired
    | _ =>
      if 95 * wearBudget ≤ 100 * w then .drained
      else
        match old with
        | .drained => .drained
        | _ =>
          if 80 * wearBudget ≤ 100 * w then .derated
          else match old with | .derated => .derated | _ => .healthy

/-- Charges the stream of a team that was bound, unless its slot has started another since (R390). -/
def State.chargeWear (s : State) (u : Nat × Nat × Nat) (n : Nat) : State :=
  let x := s.stream u.2.1
  if x.serial = u.2.2 then s.setStream u.2.1 { x with wear := x.wear + n } else s

/-- The last team in a slot's part of a list. -/
def lastOf (l : List (Nat × Nat × Nat)) (u : Nat × Nat × Nat) (i : Nat) : Bool := !(l.drop (i + 1)).any (fun v => decide (v.1 = u.1))

/-- What each of the teams bound in an interval is charged (R390): by active cycles; where neither slot was active, half for
each slot, to the last team it held, or all to the one that held a team. Log 98 (DEDUCED, unsafe). -/
def wearShares (units : Nat) (used : List (Nat × Nat × Nat)) (act : List Nat) : List ((Nat × Nat × Nat) × Nat) :=
  let total := (act.take used.length).foldl (· + ·) 0
  let slots := (used.zipIdx.filter (fun u => lastOf used u.1 u.2)).length
  used.zipIdx.map (fun u =>
    (u.1, if total = 0 then (if lastOf used u.1 u.2 then units / slots else 0) else units * act.getD u.2 0 / total))

/-- Samples of 10 ms in the 60 s within which the record reaches flash. -/
def flashSamples : Nat := 6000

/-- The lifetime record goes to flash (R389). -/
def State.recordWear (s : State) : State :=
  { s with flash := s.ms.cores.map (fun e => (e.1, e.2.wear)), rates := [], wearAge := [] }

/-- The wear, its state and the record's account of one sample: 10 ms at the greater of the two monitors' rates, given in
2^−20. -/
def State.sampleWear (s : State) (core rate : Nat) : State :=
  let s := if look 0 s.wearAge core < flashSamples then s else s.recordWear
  let c := s.ms.core core
  let live := [2 * core, 2 * core + 1].filter (fun tk => (s.team tk).present)
  { s with
    ms := s.ms.setCore core { c with
      wear := c.wear + rate, wearState := wearStateOf c.wearState (c.wear + rate)
      used := live.map (fun tk => (tk, (s.team tk).bind.slot, (s.stream (s.team tk).bind.slot).serial)) }
    rates := put s.rates core (max rate (look 0 s.rates core))
    wearAge := put s.wearAge core (look 0 s.wearAge core + 1) }

/-- WEAR_SAMPLE (R389 to R391): the bias-temperature and electromigration monitors' rates in 2^−20, with the active cycles
of each team bound since the last sample. A core with no team consumes at the same rate, charged to the module. Log 98
(DEDUCED, unsafe). -/
def execWearSample (core bias migration : Nat) (act : List Nat) (s : State) : Out :=
  if Config.cores ≤ core then .fault .noSuchUnit
  else
    let rate := max bias migration
    let used := (s.ms.core core).used
    let s := s.sampleWear core rate
    let s := (wearShares rate used act).foldl (fun (s : State) x => s.chargeWear x.1 x.2) s
    .next (if (s.ms.core core).wearState = .retired then [2 * core, 2 * core + 1].foldl State.preempt s else s)

/-- WEAR_RECORD_WRITE (R389). -/
def execWearRecordWrite (s : State) : Out := .next s.recordWear

end Sys2Proof.Machine
end

