-- ==== Sys2Proof/Machine/Reliability.lean ====
section
/-! DEFINITION. Errors and poison, background activities, checkpoints, the host and lacet links, bring-up, freeze and the loss of
power (R58, R389, R393 to R405). -/

namespace Sys2Proof.Machine

/-! ### Errors (R393, R394) -/

/-- An error site the module has. -/
def siteOk : EccSite → Bool
  | .memory _ => true
  | .lm core block => decide (core < Config.cores) && decide (block < Config.lmBytes / 64)
  | .l1 core _ => decide (core < Config.cores)
  | .vreg tk reg row lane => decide (tk < Config.teams) && decide (reg < 32) && decide (row < 32) && decide (lane < 64)
  | .acc tk row block => decide (tk < Config.teams) && decide (row < 256) && decide (block < 16)
  | .icache core _ => decide (core < Config.cores)
  | .tlb _ _ => true

/-- Epochs of 10 µs in 24 hours. Log 69 (DEDUCED, safe). -/
def dayEpochs : Nat := 8640000000

/-- A corrected error of a lane slice (R394): more than 16 in 24 h mark the lane, which is retired once no team is bound. -/
def countLane (s : State) (core lane : Nat) : State :=
  let c := s.ms.core core
  let errs := (lane, s.epoch) :: c.laneErr.filter (fun e => decide (s.epoch < e.2 + dayEpochs))
  let n := (errs.filter (fun e => decide (e.1 = lane))).length
  let marked := if decide (16 < n) && !c.marked.contains lane && !c.lmap.getLsbD lane then lane :: c.marked else c.marked
  ({ s with ms := s.ms.setCore core { c with laneErr := errs, marked := marked } } : State).retireLanes core

/-- Storage kept under parity is dropped and fetched again: a clean line, an instruction-cache line, a translation. -/
def refetch (s : State) : EccSite → State
  | .l1 core line =>
    { s with ms := s.ms.dropLines core (fun l => decide (l.pa = line) && decide (l.dirty = 0#64)) }
  | .icache core line =>
    let c := s.ms.core core
    { s with ms := s.ms.setCore core { c with icache := c.icache.filter (fun l => l ≠ line) } }
  | .tlb asn va => { s with ms := s.ms.invalidate asn va (va + 1) }
  | _ => s

/-- ECC_CORRECTABLE_ERROR (R393, R394): data stand; parity-protected storage is refetched; a lane slice's error counts. -/
def execEccCorrectableError (x : EccSite) (s : State) : Out :=
  if !siteOk x then .fault .noSuchUnit
  else
    match x with
    | .vreg tk _ _ lane => .next (countLane s (coreOf tk) lane)
    | _ => .next (refetch s x)

def addOnce (l : List Nat) (n : Nat) : List Nat := if l.contains n then l else n :: l

/-- Poisons the vector state of a slot. -/
def State.poisonVec (s : State) (tk : Nat) (f : VecState → VecState) : State :=
  s.setTeam tk { s.team tk with vec := f (s.team tk).vec }

/-- The bytes of its registers that a team or one of its queued syllables still holds elements in: what lies above them holds
none and reads as zero once a grant takes it back (R205). -/
def Team.liveBytes (t : Team) : Nat :=
  (t.q.all ++ (match t.image with | some q => q.all | none => [])).foldl
    (fun n e => max n (e.gl * ((vtFmt e.vtype).width / 8))) (t.ctl.gl.toNat * (t.ctl.width / 8))

/-- The 64-byte block of a register in which a row's word of a physical lane lies; none where the lane holds no element
(R198, R205). Log 22 (DEDUCED, unsafe). -/
def vregBlock (s : State) (tk row lane : Nat) : Option Nat :=
  let t := s.team tk
  match wordAt (s.ms.core (coreOf tk)).lmap t.bind.prot t.ctl.width row lane with
  | some w => if 4 * w < t.liveBytes then some (w / 16) else none
  | none => none

/-- ECC_UNCORRECTABLE_ERROR (R393): the 64-byte block is poisoned; clean lines, instruction caches and TLBs refetch. A dirty line's
block is poisoned by the time the line is home. -/
def execEccUncorrectableError (x : EccSite) (s : State) : Out :=
  if !siteOk x then .fault .noSuchUnit
  else
    match x with
    | .memory b => .next { s with ms := { s.ms with memPoison := addOnce s.ms.memPoison b } }
    | .lm core b => .next { s with ms := { s.ms with lmPoison := addOnce s.ms.lmPoison (lmKey core 0 / 64 + b) } }
    | .l1 core line =>
      let s := refetch s x
      let c := s.ms.core core
      .next { s with ms := s.ms.setCore core { c with l1 := c.l1.map (fun l => if l.pa = line then { l with lost := true } else l) } }
    | .vreg tk r row lane =>
      match vregBlock s tk row lane with
      | some b => .next (s.poisonVec tk (fun v => { v with vPoison := addOnce v.vPoison (r * 128 + b) }))
      | none => .next s
    | .acc tk r b => .next (s.poisonVec tk (fun v => { v with accPoison := addOnce v.accPoison (r * 16 + b) }))
    | .icache _ _ => .next (refetch s x)
    | .tlb _ _ => .next (refetch s x)

/-! ### Background activities (R395): timing alone -/

/-- PATROL_SCRUB (R395): what it corrects reads as before. Log 53 (DEDUCED, safe). -/
def execPatrolScrub (s : State) : Out := .next s
/-- SRAM_SCRUB (R395). -/
def execSramScrub (s : State) : Out := .next s
/-- HBM_CALIBRATION (R395). -/
def execHbmCalibration (s : State) : Out := .next s
/-- LINK_CALIBRATION (R395). -/
def execLinkCalibration (s : State) : Out := .next s

/-! ### Checkpoints (R178, R396) -/

/-- The granules a byte of the dirty map marks, its address counting eight a byte. -/
def markedIn (dmap : Nat) (c : Host.Cell) : List Nat :=
  ((List.range 8).filter (fun i => c.2.getLsbD i)).map ((c.1 - dmap) * 8 + ·)

/-- Bytes of a dirty map: one bit for each 64 KiB of virtual space. -/
def mapBytes : Nat := 2 ^ 38

/-- The first poisoned byte of a granule, as an offset; 65,536 without one. -/
def granulePoison (m : MemSys) (pa : Nat) : Nat :=
  match (List.range 1024).find? (fun i => m.poisoned (pa + 64 * i)) with
  | some i => 64 * i
  | none => 65536

/-- Copies a granule's bytes up to n at their homes to another physical address. -/
def copyGranule (m : MemSys) (src dst n : Nat) : MemSys :=
  { m.breakRange dst n with mem := moveCells m.mem src dst n }

/-- One granule of a round: copied to the next place of the target, up to the first poisoned block. Log 50 (DEDUCED,
unsafe). -/
def roundGranule (root target : Nat) (a : MemSys × Nat × Bool) (g : Nat) : MemSys × Nat × Bool :=
  match (walkFrom a.1 (g * 65536) root ptLevels).leaf? with
  | none => a
  | some w =>
    let pa := fld w.2.1 16 36 * 65536 + g * 65536 % w.2.2
    let dst := target + 65536 * a.2.1
    if !a.1.isPop pa || (regionOf dst ≠ 1 && regionOf dst ≠ 2) || !a.1.isPop dst || !a.1.isPop (dst + 65535) then a
    else
      let n := granulePoison a.1 pa
      (copyGranule a.1 pa dst n, a.2.1 + 1, a.2.2 || decide (n ≠ 65536))

/-- CHECKPOINT_ROUND (R396): the map read and cleared, each marked granule copied out in ascending order, a round record. -/
def execCheckpointRound (asn target : Nat) (s : State) : Out :=
  match s.ms.space? asn with
  | none => .next s
  | some sp =>
    let gs := (s.ms.mem.filter (fun c => decide (sp.dmap ≤ c.1) && decide (c.1 < sp.dmap + mapBytes))).flatMap (markedIn sp.dmap)
    let m := { s.ms.breakRange sp.dmap mapBytes with mem := dropRange s.ms.mem sp.dmap (sp.dmap + mapBytes) }
    let r := gs.foldl (roundGranule sp.root target) (m, 0, false)
    let n := (s.rounds.filter (fun x => decide (x.asn = asn))).length + 1
    .next { s with ms := r.1, rounds := s.rounds ++ [{ asn := asn, number := n, count := gs.length, ue := r.2.2 }] }

/-- CHECKPOINT_CONTROL (R396, R402). -/
def execCheckpointControl (asn : Nat) (en : Request Bool) (s : State) : Out :=
  if !s.byOperator en.auth then .next s
  else .next { s with ms := { s.ms with spaces := s.ms.spaces.map (fun x => if x.asn = asn then { x with ckpt := en.what } else x) } }

/-! ### Requests from outside (R58, R397) -/

/-- A request to physical bytes at their homes: a write breaks the links of every team (R256); a read is answered. -/
def busAccess (s : State) (x : BusAccess) : State :=
  match x.write with
  | some v =>
    let m := (List.range x.size).foldl (fun (m : MemSys) i => m.homeWrite (x.addr + i) 1 (v / 2 ^ (8 * i) % 256) none) s.ms
    { s with ms := m, reply := { data := 0, ur := false, poison := false } }
  | none =>
    let bad := (List.range x.size).any (fun i => s.ms.poisoned (x.addr + i))
    { s with reply := { data := if bad then 0 else s.ms.homeRead x.addr x.size, ur := false, poison := bad } }

/-- All ones of n bytes. -/
def onesOf (n : Nat) : Nat := 2 ^ (8 * n) - 1

/-- The answer to an Unsupported Request: a read gives all ones, a write is dropped. -/
def State.unsupported (s : State) (x : BusAccess) : State :=
  { s with reply := { data := match x.write with | some _ => 0 | none => onesOf x.size, ur := true, poison := false } }

/-- The answer to a write, or to a read of these bytes from an address. -/
def State.answered (s : State) (x : BusAccess) (byte : Nat → Byte) : State :=
  { s with reply := { data := match x.write with | some _ => 0 | none => readLE byte x.addr x.size, ur := false, poison := false } }

/-- The slot whose register page a page of BAR2 is: of function 0 all 32, of a virtual function those of its partition in
ascending slot number. -/
def barSlot (s : State) (fn page : Nat) : Option Nat :=
  if fn = 0 then (if page < Config.streamSlots then some page else none)
  else (s.part (fn - 1)).slotAt page

/-- Byte i of a register page. -/
def Stream.pageByte (x : Stream) (i : Nat) : Byte := (x.register (i % 4096 / 8 * 8)).extractLsb' (8 * (i % 8)) 8

/-- A request to a slot's register page: a write acts on a whole aligned register. Log 91 (DESIGN CHOICE, safe). -/
def slotPage (s : State) (fn : Nat) (x : BusAccess) : Out :=
  match barSlot s fn (x.addr / 4096) with
  | none => .next (s.unsupported x)
  | some k =>
    let s := s.answered x (s.stream k).pageByte
    match x.write with
    | some v => if x.size = 8 ∧ x.addr % 8 = 0 then execRegisterWrite k (x.addr % 4096) (BitVec.ofNat 64 v) s else .next s
    | none => .next s

/-- A word of BAR0. Log 91 (DESIGN CHOICE, safe). -/
def bar0Word (s : State) (i : Nat) : Word :=
  match Config.bar0At i with
  | .fuseCount => BitVec.ofNat 64 s.svFuses
  | .freeze => ofBool64 (decide (s.power = .frozen))
  | .round j w =>
    match s.rounds[j]? with
    | some r => BitVec.ofNat 64 (match w with | 0 => r.number | 1 => r.count | 2 => bit r.ue | _ => 0)
    | none => 0#64
  | .partition => Config.freeValue (s.fresh + i)
  | .other => Config.freeValue (s.fresh + i)

/-- FREEZE (R404): the clocks of a running module stop. -/
def execFreeze (s : State) : Out :=
  if s.power = .ready then .next { s.moduleEvent .freeze with power := .frozen, lostLink := false } else .next s

/-- A request to the module registers of BAR0: the fuse count and the round records are read, a freeze is asserted; the
partition control registers change nothing, as the partitioning changes through the management port alone (R378). Log 91
(DESIGN CHOICE, safe). -/
def moduleRegs (s : State) (x : BusAccess) : Out :=
  let r := s.answered x (fun i => (bar0Word s (i / 8)).extractLsb' (8 * (i % 8)) 8)
  let r := { r with fresh := r.fresh + 131072 }
  match x.write with
  | some v => if Config.bar0At (x.addr / 8) = .freeze ∧ v % 2 = 1 then execFreeze r else .next r
  | none => .next r

/-- Where region 0x02 begins. -/
def hostBase : Nat := 2 * 2 ^ 44

/-- HOST_HDM_ACCESS (R397): BAR4's first 768 GiB are HBM4E, above which reads give all ones and writes are dropped; BAR2 holds the
register pages, BAR0 the module's registers; what a function does not have is an Unsupported Request. The host's own memory is
kept coherent with its home, region 0x02. -/
def execHostHdmAccess (x : HostAccess) (s : State) : Out :=
  if x.own then
    let a := { x.acc with addr := hostBase + x.acc.addr }
    if x.acc.addr + x.acc.size ≤ hostBase / 2 ∧ s.ms.isPop a.addr ∧ s.ms.isPop (a.addr + (a.size - 1)) then .next (busAccess s a)
    else .next (s.unsupported x.acc)
  else
  match x.bar with
  | 0 => if x.fn = 0 ∧ x.acc.addr + x.acc.size ≤ 2 ^ 20 then moduleRegs s x.acc else .next (s.unsupported x.acc)
  | 2 => slotPage s x.fn x.acc
  | 4 =>
    if x.fn = 0 ∧ x.acc.addr + x.acc.size ≤ hbmRegion.size then .next (busAccess s x.acc) else .next (s.unsupported x.acc)
  | _ => .next (s.unsupported x.acc)

/-! ### Lacet links and far-tier ports (R173, R398 to R401, R405) -/

def State.link (s : State) (l : Nat) : Link := look { up := false } s.links l

/-- The regions of the firmware's map that lie in region r. -/
def mapOf (l : List Region) (r : Nat) : List Region := l.filter (fun x => decide (regionOf x.base = r))

/-- PEER_ACCESS (R58, R256): a peer's request over a link that is up. -/
def execPeerAccess (l : Nat) (x : BusAccess) (s : State) : Out :=
  if 16 ≤ l then .fault .noSuchUnit
  else if !(s.link l).up then .next s
  else if (List.range x.size).all (fun i => s.ms.isPop (x.addr + i) && !isHostOrPeer (x.addr + i)) then .next (busAccess s x)
  else .next { s with reply := { data := 0, ur := true, poison := false } }

/-- FLIT_REPLAY (R400): the replayed flit arrives once and in order; programs see nothing. Log 53 (DEDUCED, safe). -/
def execFlitReplay (l : Nat) (s : State) : Out := if 16 ≤ l then .fault .noSuchUnit else .next s

/-- The writes of a list whose acknowledgment can no longer come over a link. -/
def lostAcks (l : Nat) (us : List Unack) : List Unack :=
  us.map (fun (u : Unack) => if regionOf u.pa = 16 + l then { u with dead := true } else u)

/-- A link goes down (R401): its region is unpopulated from now on; a frozen module cannot be resumed (R405). -/
def State.downLink (s : State) (l : Nat) : State :=
  if !(s.link l).up then s
  else
    let s := { s with
      links := put s.links l { up := false }
      ms := { s.ms with
        populated := s.ms.populated.filter (fun x => decide (regionOf x.base ≠ 16 + l))
        unacked := lostAcks l s.ms.unacked }
      saved := s.saved.map (fun (x : SavedTeam) => { x with unacked := lostAcks l x.unacked }) }
    if s.power = .frozen then { s with lostLink := true } else s.moduleEvent .linkDown

/-- LINK_DOWN (R401). -/
def execLinkDown (l : Nat) (s : State) : Out := if 16 ≤ l then .fault .noSuchUnit else .next (s.downLink l)

/-- LINK_CREDIT_TIMEOUT (R405): without a credit for 1 ms the link counts as down. -/
def execLinkCreditTimeout (l : Nat) (s : State) : Out := if 16 ≤ l then .fault .noSuchUnit else .next (s.downLink l)

/-- Whether any partition maps a region (R399, R401). -/
def State.maps (s : State) (r : Nat) : Bool := s.ms.spaces.any (fun x =>
  leafAny s.ms (fun leaf _ => decide (regionOf (fld leaf 16 36 * 65536) = r)) ptLevels x.root)

/-- LINK_RETRAIN (R401): only while no partition maps the link's region. -/
def execLinkRetrain (l : Nat) (s : State) : Out :=
  if 16 ≤ l then .fault .noSuchUnit
  else if (s.link l).up || s.maps (16 + l) then .next s
  else
    .next { s with
      links := put s.links l { up := true }
      ms := { s.ms with populated := s.ms.populated ++ mapOf s.physMap (16 + l) } }

/-- DEVICE_REMOVAL (R398, R399): refused while any partition maps part of it; region 0x01 is spread over every port, and is
unpopulated once one of them is gone; the port's vector tells. Log 49 (DEDUCED, safe). -/
def execDeviceRemoval (port : Nat) (s : State) : Out :=
  if 8 ≤ port then .fault .noSuchUnit
  else if !s.cxl.contains port || s.maps 1 then .next s
  else
    .next { s with
      cxl := s.cxl.filter (fun p => p ≠ port)
      msis := s.msis ++ [{ fn := 0, vec := 33 + port, what := .cxl }]
      physMap := s.physMap.filter (fun x => decide (regionOf x.base ≠ 1))
      ms := { s.ms with populated := s.ms.populated.filter (fun x => decide (regionOf x.base ≠ 1)) } }

/-! ### Bring-up, freeze, loss of power (R389, R403 to R405) -/

/-- What stays without power or through a reset: the flash (firmware, wear record, stored partitioning), the fuses, the
translation key and the cached translations, the enrolled keys. Log 51 (DEDUCED, unsafe). -/
def State.unpowered (s : State) : State :=
  { State.reset with
    flash := s.flash, rates := s.rates, svFuses := s.svFuses, fwFuses := s.fwFuses, trans := s.trans, rootDigest := s.rootDigest
    opKey := s.opKey, devKey := s.devKey, fwA := s.fwA, fwB := s.fwB, stored := s.stored, turns := s.turns, fresh := s.fresh
    parts := s.parts.map (fun e => (e.1, { Partition.reset with keys := e.2.keys })) }

/-- A firmware slot that may run: it is signed with the key whose digest is in the fuses, and its version is not below the
firmware counter. -/
def slotRuns (s : State) (x : Option FwImage) : Bool :=
  match x with
  | none => false
  | some f => decide (sha384 (keyBytes f.key) = s.rootDigest) && verifies f.key f.bytes f.sig && decide (s.fwFuses ≤ f.ver)

/-- The cores as the wear record gives them, those that fail out of service. -/
def coresFrom (flash : List (Nat × Nat)) (dead : List Nat) : List (Nat × Core) :=
  let cs := flash.map (fun e => (e.1, { Core.reset with wear := e.2, wearState := wearStateOf .healthy e.2 }))
  dead.foldl (fun (l : List (Nat × Core)) c => put l c { look Core.reset l c with wearState := .retired }) cs

/-- The bytes of each region the module can have: HBM4E, the far tier where a port has trained, host memory, the peers' (R5,
R173). -/
def regionBytes (cxl : List Nat) (r : Nat) : Nat :=
  if r = 0 then hbmRegion.size
  else if r = 1 then (if cxl.isEmpty then 0 else 2 ^ 43)
  else if r = 2 then 2 ^ 44
  else if 16 ≤ r ∧ r < 32 then 2 ^ 44
  else 0

/-- The part of a range that its region can hold (R5, R173). -/
def clipRegion (cxl : List Nat) (x : Region) : Region :=
  { x with size := min x.size (regionBytes cxl (regionOf x.base) - x.base % 2 ^ 44) }

/-- The firmware's physical map, within what the module has (R5, R173). -/
def bootMap (cxl : List Nat) (l : List (Nat × Nat)) : List Region :=
  (l.map (fun x => clipRegion cxl { base := x.1, size := x.2 })).filter (fun x => decide (0 < x.size))

/-- BOOT (R403): power-good to READY, or halted with NO_FIRMWARE. -/
def execBoot (r : BootReport) (s : State) : Out :=
  if s.power ≠ .off ∨ r.supplyOk = false then .next s
  else if !slotRuns s s.fwA && !slotRuns s s.fwB then .next (({ s with power := .halted } : State).moduleEvent .noFirmware)
  else
    let cxl := r.cxl.filter (fun p => decide (p < 8))
    let phys := bootMap cxl r.physMap
    let up := fun (x : Region) => decide (regionOf x.base < 16) || r.links.contains (regionOf x.base - 16)
    let s := { s with
      power := .ready, lostLink := false, physMap := phys
      ms := { s.ms with populated := phys.filter up, cores := coresFrom s.flash (r.deadCores.filter (fun c => decide (c < Config.cores))) }
      links := ((List.range 16).filter r.links.contains).map (fun l => (l, { up := true })), cxl := cxl, rates := []
      trans := s.trans.filter (fun t => decide (s.svFuses ≤ t.sv)) }
    let s := if reqFormed s.stored then s.applyParts s.stored else s
    .next (s.moduleEvent .ready)

/-- FREEZE_RESUME (R405): everything carries on from its frozen value; refused after 1 s or once a link has gone down. -/
def execFreezeResume (tooLong : Bool) (s : State) : Out :=
  if s.power ≠ .frozen ∨ tooLong ∨ s.lostLink then .next s else .next { s with power := .ready }

/-- MODULE_RESET (R405): of a frozen module, which then boots. The lifetime record is kept, as a wear state never reverts (R391). -/
def execModuleReset (s : State) : Out := if s.power = .frozen then .next s.recordWear.unpowered else .next s

/-- POWER_LOSS (R389): for what the record missed, each core is charged 60 s at its highest rate since the last write. -/
def execPowerLoss (s : State) : Out :=
  .next { s.unpowered with
    rates := []
    flash := s.rates.foldl (fun (f : List (Nat × Nat)) e => put f e.1 (look 0 f e.1 + 6000 * e.2)) s.flash }

/-- ORDERLY_SHUTDOWN (R389): the record reaches flash before power goes. -/
def execOrderlyShutdown (s : State) : Out := .next s.recordWear.unpowered

end Sys2Proof.Machine
end

