-- ==== Sys2Proof/Machine/Scalar.lean ====
section
/-! DEFINITION. Integer arithmetic of the team sequencer (R132 to R135, R149). -/

namespace Sys2Proof.Machine

/-! ### The functions of R132 and R133 -/

/-- The shift amount sb[5:0]. -/
def sh (b : Word) : Nat := b.toNat % 64

def clz64 (x : Word) : Nat := if x = 0#64 then 64 else 63 - Nat.log2 x.toNat

def ctz64 (x : Word) : Nat := ((List.range 64).find? (fun i => x.getLsbD i)).getD 64

def popc64 (x : Word) : Nat := ((List.range 64).filter (fun i => x.getLsbD i)).length

/-- Sign extension of the low n bits. -/
def sextLow (n : Nat) (x : Word) : Word := (x.setWidth n).signExtend 64

/-- Zero extension of the low n bits. -/
def zextLow (n : Nat) (x : Word) : Word := (x.setWidth n).setWidth 64

/-- Bits [127:64] of an exact product. -/
def mulHigh (p : Int) : Word := BitVec.ofInt 64 (p / (2 ^ 64 : Nat))

/-- Division truncated toward zero, with the borderline results of R133. -/
def divS (a b : Word) : Word := if b = 0#64 then BitVec.allOnes 64 else BitVec.ofInt 64 (a.toInt.tdiv b.toInt)
def divU (a b : Word) : Word := if b = 0#64 then BitVec.allOnes 64 else BitVec.ofNat 64 (a.toNat / b.toNat)
def remS (a b : Word) : Word := if b = 0#64 then a else BitVec.ofInt 64 (a.toInt.tmod b.toInt)
def remU (a b : Word) : Word := if b = 0#64 then a else BitVec.ofNat 64 (a.toNat % b.toNat)

/-! ### The ALU group (R132) -/

/-- sa + sb. -/
def execAdd (d a b : Reg) (s : State) : Out := .next (s.write 1 d (s.rd a + s.rd b))

/-- sa − sb. -/
def execSub (d a b : Reg) (s : State) : Out := .next (s.write 1 d (s.rd a - s.rd b))

/-- Bitwise AND. -/
def execAnd (d a b : Reg) (s : State) : Out := .next (s.write 1 d (s.rd a &&& s.rd b))

/-- Bitwise OR. -/
def execOr (d a b : Reg) (s : State) : Out := .next (s.write 1 d (s.rd a ||| s.rd b))

/-- Bitwise XOR. -/
def execXor (d a b : Reg) (s : State) : Out := .next (s.write 1 d (s.rd a ^^^ s.rd b))

/-- Left shift. -/
def execSll (d a b : Reg) (s : State) : Out := .next (s.write 1 d (s.rd a <<< sh (s.rd b)))

/-- Right shift with zeros. -/
def execSrl (d a b : Reg) (s : State) : Out := .next (s.write 1 d (s.rd a >>> sh (s.rd b)))

/-- Right shift with copies of bit 63. -/
def execSra (d a b : Reg) (s : State) : Out := .next (s.write 1 d ((s.rd a).sshiftRight (sh (s.rd b))))

/-- 1 if sa < sb, signed. -/
def execSlt (d a b : Reg) (s : State) : Out := .next (s.write 1 d (ofBool64 ((s.rd a).slt (s.rd b))))

/-- 1 if sa < sb, unsigned. -/
def execSltu (d a b : Reg) (s : State) : Out := .next (s.write 1 d (ofBool64 ((s.rd a).ult (s.rd b))))

/-- The lesser, signed. -/
def execMin (d a b : Reg) (s : State) : Out := .next (s.write 1 d (if (s.rd b).slt (s.rd a) then s.rd b else s.rd a))

/-- The greater, signed. -/
def execMax (d a b : Reg) (s : State) : Out := .next (s.write 1 d (if (s.rd a).slt (s.rd b) then s.rd b else s.rd a))

/-- The lesser, unsigned. -/
def execMinu (d a b : Reg) (s : State) : Out := .next (s.write 1 d (if (s.rd b).ult (s.rd a) then s.rd b else s.rd a))

/-- The greater, unsigned. -/
def execMaxu (d a b : Reg) (s : State) : Out := .next (s.write 1 d (if (s.rd a).ult (s.rd b) then s.rd b else s.rd a))

/-- sa AND NOT sb. -/
def execAndn (d a b : Reg) (s : State) : Out := .next (s.write 1 d (s.rd a &&& ~~~(s.rd b)))

/-- sa OR NOT sb. -/
def execOrn (d a b : Reg) (s : State) : Out := .next (s.write 1 d (s.rd a ||| ~~~(s.rd b)))

/-- Rotation left. -/
def execRol (d a b : Reg) (s : State) : Out := .next (s.write 1 d ((s.rd a).rotateLeft (sh (s.rd b))))

/-- Rotation right. -/
def execRor (d a b : Reg) (s : State) : Out := .next (s.write 1 d ((s.rd a).rotateRight (sh (s.rd b))))

/-- Leading zeros. -/
def execClz (d a : Reg) (s : State) : Out := .next (s.write 1 d (BitVec.ofNat 64 (clz64 (s.rd a))))

/-- Trailing zeros. -/
def execCtz (d a : Reg) (s : State) : Out := .next (s.write 1 d (BitVec.ofNat 64 (ctz64 (s.rd a))))

/-- Ones. -/
def execPopc (d a : Reg) (s : State) : Out := .next (s.write 1 d (BitVec.ofNat 64 (popc64 (s.rd a))))

/-- sa[7:0] sign-extended. -/
def execSextB (d a : Reg) (s : State) : Out := .next (s.write 1 d (sextLow 8 (s.rd a)))

/-- sa[15:0] sign-extended. -/
def execSextH (d a : Reg) (s : State) : Out := .next (s.write 1 d (sextLow 16 (s.rd a)))

/-- sa[31:0] sign-extended. -/
def execSextW (d a : Reg) (s : State) : Out := .next (s.write 1 d (sextLow 32 (s.rd a)))

/-- sa[7:0] zero-extended. -/
def execZextB (d a : Reg) (s : State) : Out := .next (s.write 1 d (zextLow 8 (s.rd a)))

/-- sa[15:0] zero-extended. -/
def execZextH (d a : Reg) (s : State) : Out := .next (s.write 1 d (zextLow 16 (s.rd a)))

/-- sa[31:0] zero-extended. -/
def execZextW (d a : Reg) (s : State) : Out := .next (s.write 1 d (zextLow 32 (s.rd a)))

/-! ### The MUL group (R133) -/

/-- Bits [63:0] of the product. -/
def execMul (d a b : Reg) (s : State) : Out := .next (s.write 3 d (s.rd a * s.rd b))

/-- Bits [127:64], both signed. -/
def execMulh (d a b : Reg) (s : State) : Out := .next (s.write 3 d (mulHigh ((s.rd a).toInt * (s.rd b).toInt)))

/-- Bits [127:64], both unsigned. -/
def execMulhu (d a b : Reg) (s : State) : Out := .next (s.write 3 d (mulHigh (((s.rd a).toNat * (s.rd b).toNat : Nat) : Int)))

/-- Bits [127:64], sa signed and sb unsigned. -/
def execMulhsu (d a b : Reg) (s : State) : Out := .next (s.write 3 d (mulHigh ((s.rd a).toInt * ((s.rd b).toNat : Int))))

/-- Signed quotient. -/
def execDiv (d a b : Reg) (s : State) : Out := .next (s.write 12 d (divS (s.rd a) (s.rd b)))

/-- Unsigned quotient. -/
def execDivu (d a b : Reg) (s : State) : Out := .next (s.write 12 d (divU (s.rd a) (s.rd b)))

/-- Signed remainder. -/
def execRem (d a b : Reg) (s : State) : Out := .next (s.write 12 d (remS (s.rd a) (s.rd b)))

/-- Unsigned remainder. -/
def execRemu (d a b : Reg) (s : State) : Out := .next (s.write 12 d (remU (s.rd a) (s.rd b)))

/-! ### Immediates (R134, R135) -/

/-- sa + imm. -/
def execAddi (d a : Reg) (i : BitVec 13) (s : State) : Out := .next (s.write 1 d (s.rd a + sx i))

/-- sa AND imm. -/
def execAndi (d a : Reg) (i : BitVec 13) (s : State) : Out := .next (s.write 1 d (s.rd a &&& sx i))

/-- sa OR imm. -/
def execOri (d a : Reg) (i : BitVec 13) (s : State) : Out := .next (s.write 1 d (s.rd a ||| sx i))

/-- sa XOR imm. -/
def execXori (d a : Reg) (i : BitVec 13) (s : State) : Out := .next (s.write 1 d (s.rd a ^^^ sx i))

/-- 1 if sa < imm, signed. -/
def execSlti (d a : Reg) (i : BitVec 13) (s : State) : Out := .next (s.write 1 d (ofBool64 ((s.rd a).slt (sx i))))

/-- 1 if sa < the sign-extended imm, unsigned. -/
def execSltiu (d a : Reg) (i : BitVec 13) (s : State) : Out := .next (s.write 1 d (ofBool64 ((s.rd a).ult (sx i))))

/-- Left shift by n. -/
def execSlli (d a : Reg) (n : BitVec 6) (s : State) : Out := .next (s.write 1 d (s.rd a <<< n.toNat))

/-- Right shift by n with zeros. -/
def execSrli (d a : Reg) (n : BitVec 6) (s : State) : Out := .next (s.write 1 d (s.rd a >>> n.toNat))

/-- Right shift by n with copies of bit 63. -/
def execSrai (d a : Reg) (n : BitVec 6) (s : State) : Out := .next (s.write 1 d ((s.rd a).sshiftRight n.toNat))

/-- imm18 << 13, sign-extended from bit 30 (R135). -/
def execLhi (d : Reg) (i : BitVec 18) (s : State) : Out := .next (s.write 1 d (sx (i ++ 0#13)))

/-- The address of the syllable plus the offset in syllables (R135). -/
def execLpc (d : Reg) (o : BitVec 18) (s : State) : Out := .next (s.write 1 d (s.target o))

/-- sa + (GL << sh), with the grant as the bundle found it (R149). -/
def execAddgl (d a : Reg) (h : BitVec 6) (s : State) : Out :=
  .next (s.write 1 d (s.rd a + (BitVec.ofNat 64 s.cur.ctl.gl.toNat <<< h.toNat)))

end Sys2Proof.Machine
end

