-- ==== Sys2Proof/Machine/Dispatch.lean ====
section
/-! DEFINITION. One direct call of its meaning for every instruction. -/

namespace Sys2Proof.Machine

def exec (i : Instr) (s : State) : Host.Outcome State Fault Refusal :=
  match i with
  | .add d a b => Sys2Proof.Machine.execAdd d a b s
  | .sub d a b => Sys2Proof.Machine.execSub d a b s
  | .and d a b => Sys2Proof.Machine.execAnd d a b s
  | .or d a b => Sys2Proof.Machine.execOr d a b s
  | .xor d a b => Sys2Proof.Machine.execXor d a b s
  | .sll d a b => Sys2Proof.Machine.execSll d a b s
  | .srl d a b => Sys2Proof.Machine.execSrl d a b s
  | .sra d a b => Sys2Proof.Machine.execSra d a b s
  | .slt d a b => Sys2Proof.Machine.execSlt d a b s
  | .sltu d a b => Sys2Proof.Machine.execSltu d a b s
  | .min d a b => Sys2Proof.Machine.execMin d a b s
  | .max d a b => Sys2Proof.Machine.execMax d a b s
  | .minu d a b => Sys2Proof.Machine.execMinu d a b s
  | .maxu d a b => Sys2Proof.Machine.execMaxu d a b s
  | .clz d a => Sys2Proof.Machine.execClz d a s
  | .ctz d a => Sys2Proof.Machine.execCtz d a s
  | .popc d a => Sys2Proof.Machine.execPopc d a s
  | .sextB d a => Sys2Proof.Machine.execSextB d a s
  | .sextH d a => Sys2Proof.Machine.execSextH d a s
  | .sextW d a => Sys2Proof.Machine.execSextW d a s
  | .zextB d a => Sys2Proof.Machine.execZextB d a s
  | .zextH d a => Sys2Proof.Machine.execZextH d a s
  | .zextW d a => Sys2Proof.Machine.execZextW d a s
  | .andn d a b => Sys2Proof.Machine.execAndn d a b s
  | .orn d a b => Sys2Proof.Machine.execOrn d a b s
  | .rol d a b => Sys2Proof.Machine.execRol d a b s
  | .ror d a b => Sys2Proof.Machine.execRor d a b s
  | .mul d a b => Sys2Proof.Machine.execMul d a b s
  | .mulh d a b => Sys2Proof.Machine.execMulh d a b s
  | .mulhu d a b => Sys2Proof.Machine.execMulhu d a b s
  | .mulhsu d a b => Sys2Proof.Machine.execMulhsu d a b s
  | .div d a b => Sys2Proof.Machine.execDiv d a b s
  | .divu d a b => Sys2Proof.Machine.execDivu d a b s
  | .rem d a b => Sys2Proof.Machine.execRem d a b s
  | .remu d a b => Sys2Proof.Machine.execRemu d a b s
  | .addi d a im => Sys2Proof.Machine.execAddi d a im s
  | .andi d a im => Sys2Proof.Machine.execAndi d a im s
  | .ori d a im => Sys2Proof.Machine.execOri d a im s
  | .xori d a im => Sys2Proof.Machine.execXori d a im s
  | .slti d a im => Sys2Proof.Machine.execSlti d a im s
  | .sltiu d a im => Sys2Proof.Machine.execSltiu d a im s
  | .slli d a n => Sys2Proof.Machine.execSlli d a n s
  | .srli d a n => Sys2Proof.Machine.execSrli d a n s
  | .srai d a n => Sys2Proof.Machine.execSrai d a n s
  | .lhi d im => Sys2Proof.Machine.execLhi d im s
  | .lpc d o => Sys2Proof.Machine.execLpc d o s
  | .beq a b o => Sys2Proof.Machine.execBeq a b o s
  | .bne a b o => Sys2Proof.Machine.execBne a b o s
  | .blt a b o => Sys2Proof.Machine.execBlt a b o s
  | .bge a b o => Sys2Proof.Machine.execBge a b o s
  | .bltu a b o => Sys2Proof.Machine.execBltu a b o s
  | .bgeu a b o => Sys2Proof.Machine.execBgeu a b o s
  | .jal d o => Sys2Proof.Machine.execJal d o s
  | .jalr d a im => Sys2Proof.Machine.execJalr d a im s
  | .ld d a c z x o => Sys2Proof.Machine.execLd d a c z x o s
  | .st d a c z o => Sys2Proof.Machine.execSt d a c z o s
  | .ldAcq d a e z x o => Sys2Proof.Machine.execLdAcq d a e z x o s
  | .stRel d a e z o => Sys2Proof.Machine.execStRel d a e z o s
  | .amoAdd d a b z c => Sys2Proof.Machine.execAmoAdd d a b z c s
  | .amoAnd d a b z c => Sys2Proof.Machine.execAmoAnd d a b z c s
  | .amoOr d a b z c => Sys2Proof.Machine.execAmoOr d a b z c s
  | .amoXor d a b z c => Sys2Proof.Machine.execAmoXor d a b z c s
  | .amoMin d a b z c => Sys2Proof.Machine.execAmoMin d a b z c s
  | .amoMax d a b z c => Sys2Proof.Machine.execAmoMax d a b z c s
  | .amoMinu d a b z c => Sys2Proof.Machine.execAmoMinu d a b z c s
  | .amoMaxu d a b z c => Sys2Proof.Machine.execAmoMaxu d a b z c s
  | .amoSwap d a b z c => Sys2Proof.Machine.execAmoSwap d a b z c s
  | .amoCas d a b z c => Sys2Proof.Machine.execAmoCas d a b z c s
  | .fence e => Sys2Proof.Machine.execFence e s
  | .kbind d a b => Sys2Proof.Machine.execKbind d a b s
  | .kacq a b e => Sys2Proof.Machine.execKacq a b e s
  | .krel a b e => Sys2Proof.Machine.execKrel a b e s
  | .ktry d a b e => Sys2Proof.Machine.execKtry d a b e s
  | .gbarWait u => Sys2Proof.Machine.execGbarWait u s
  | .setgl d a => Sys2Proof.Machine.execSetgl d a s
  | .setglH d a b => Sys2Proof.Machine.execSetglH d a b s
  | .stb a => Sys2Proof.Machine.execStb a s
  | .stbW a b => Sys2Proof.Machine.execStbW a b s
  | .ste o => Sys2Proof.Machine.execSte o s
  | .addgl d a h => Sys2Proof.Machine.execAddgl d a h s
  | .crr d n => Sys2Proof.Machine.execCrr d n s
  | .crw a n => Sys2Proof.Machine.execCrw a n s
  | .crs d a n => Sys2Proof.Machine.execCrs d a n s
  | .crc d a n => Sys2Proof.Machine.execCrc d a n s
  | .trapSys c => Sys2Proof.Machine.execTrapSys c s
  | .trapBrk c => Sys2Proof.Machine.execTrapBrk c s
  | .vadd o => Sys2Proof.Machine.execVadd o s
  | .vsub o => Sys2Proof.Machine.execVsub o s
  | .vmul o => Sys2Proof.Machine.execVmul o s
  | .vmulh o => Sys2Proof.Machine.execVmulh o s
  | .vmulhU o => Sys2Proof.Machine.execVmulhU o s
  | .vmin o => Sys2Proof.Machine.execVmin o s
  | .vminU o => Sys2Proof.Machine.execVminU o s
  | .vmax o => Sys2Proof.Machine.execVmax o s
  | .vmaxU o => Sys2Proof.Machine.execVmaxU o s
  | .vand o => Sys2Proof.Machine.execVand o s
  | .vor o => Sys2Proof.Machine.execVor o s
  | .vxor o => Sys2Proof.Machine.execVxor o s
  | .vsll o => Sys2Proof.Machine.execVsll o s
  | .vsrl o => Sys2Proof.Machine.execVsrl o s
  | .vsra o => Sys2Proof.Machine.execVsra o s
  | .vsadd o => Sys2Proof.Machine.execVsadd o s
  | .vsaddU o => Sys2Proof.Machine.execVsaddU o s
  | .vssub o => Sys2Proof.Machine.execVssub o s
  | .vssubU o => Sys2Proof.Machine.execVssubU o s
  | .vcmpuLtu o => Sys2Proof.Machine.execVcmpuLtu o s
  | .vcmpuGeu o => Sys2Proof.Machine.execVcmpuGeu o s
  | .vmerge o => Sys2Proof.Machine.execVmerge o s
  | .vfadd o => Sys2Proof.Machine.execVfadd o s
  | .vfsub o => Sys2Proof.Machine.execVfsub o s
  | .vfmul o => Sys2Proof.Machine.execVfmul o s
  | .vfma o => Sys2Proof.Machine.execVfma o s
  | .vfmaFms o => Sys2Proof.Machine.execVfmaFms o s
  | .vfmaFnma o => Sys2Proof.Machine.execVfmaFnma o s
  | .vfmaFnms o => Sys2Proof.Machine.execVfmaFnms o s
  | .vfdiv o => Sys2Proof.Machine.execVfdiv o s
  | .vfsqrt o => Sys2Proof.Machine.execVfsqrt o s
  | .vfrcp o => Sys2Proof.Machine.execVfrcp o s
  | .vfrsq o => Sys2Proof.Machine.execVfrsq o s
  | .vfmin o => Sys2Proof.Machine.execVfmin o s
  | .vfmax o => Sys2Proof.Machine.execVfmax o s
  | .vfexp2 o => Sys2Proof.Machine.execVfexp2 o s
  | .vflog2 o => Sys2Proof.Machine.execVflog2 o s
  | .vfcvt o => Sys2Proof.Machine.execVfcvt o s
  | .vfclass o => Sys2Proof.Machine.execVfclass o s
  | .vcmpEq o => Sys2Proof.Machine.execVcmpEq o s
  | .vcmpNe o => Sys2Proof.Machine.execVcmpNe o s
  | .vcmpLt o => Sys2Proof.Machine.execVcmpLt o s
  | .vcmpGe o => Sys2Proof.Machine.execVcmpGe o s
  | .vfcmpEq o => Sys2Proof.Machine.execVfcmpEq o s
  | .vfcmpLt o => Sys2Proof.Machine.execVfcmpLt o s
  | .vfcmpLe o => Sys2Proof.Machine.execVfcmpLe o s
  | .vfcmpUnord o => Sys2Proof.Machine.execVfcmpUnord o s
  | .kand o => Sys2Proof.Machine.execKand o s
  | .kor o => Sys2Proof.Machine.execKor o s
  | .kxor o => Sys2Proof.Machine.execKxor o s
  | .kinv d a m => Sys2Proof.Machine.execKinv d a m s
  | .kcount d a => Sys2Proof.Machine.execKcount d a s
  | .kany d a => Sys2Proof.Machine.execKany d a s
  | .kfirst d a => Sys2Proof.Machine.execKfirst d a s
  | .ppinit d => Sys2Proof.Machine.execPpinit d s
  | .ppinitNorm d => Sys2Proof.Machine.execPpinitNorm d s
  | .ppmul o => Sys2Proof.Machine.execPpmul o s
  | .ppmulPb o => Sys2Proof.Machine.execPpmulPb o s
  | .ppdiv d a b => Sys2Proof.Machine.execPpdiv d a b s
  | .ppmvToVector d a m => Sys2Proof.Machine.execPpmvToVector d a m s
  | .ppmvToPoly o => Sys2Proof.Machine.execPpmvToPoly o s
  | .vslideUp o => Sys2Proof.Machine.execVslideUp o s
  | .vslideDown o => Sys2Proof.Machine.execVslideDown o s
  | .vgathR o => Sys2Proof.Machine.execVgathR o s
  | .vscatR o => Sys2Proof.Machine.execVscatR o s
  | .vcompress o => Sys2Proof.Machine.execVcompress o s
  | .vexpand o => Sys2Proof.Machine.execVexpand o s
  | .vbcast d b m => Sys2Proof.Machine.execVbcast d b m s
  | .vext d a b x => Sys2Proof.Machine.execVext d a b x s
  | .vins o => Sys2Proof.Machine.execVins o s
  | .vid d m => Sys2Proof.Machine.execVid d m s
  | .vmv o => Sys2Proof.Machine.execVmv o s
  | .vredSum o => Sys2Proof.Machine.execVredSum o s
  | .vredFsum o => Sys2Proof.Machine.execVredFsum o s
  | .vredMax o => Sys2Proof.Machine.execVredMax o s
  | .vredMin o => Sys2Proof.Machine.execVredMin o s
  | .vfoldSum o => Sys2Proof.Machine.execVfoldSum o s
  | .vfoldFsum o => Sys2Proof.Machine.execVfoldFsum o s
  | .vfoldMax o => Sys2Proof.Machine.execVfoldMax o s
  | .vfoldMin o => Sys2Proof.Machine.execVfoldMin o s
  | .vscanSum o => Sys2Proof.Machine.execVscanSum o s
  | .vscanFsum o => Sys2Proof.Machine.execVscanFsum o s
  | .vscanMax o => Sys2Proof.Machine.execVscanMax o s
  | .vscanMin o => Sys2Proof.Machine.execVscanMin o s
  | .vamoAdd o => Sys2Proof.Machine.execVamoAdd o s
  | .vamoMin o => Sys2Proof.Machine.execVamoMin o s
  | .vamoMax o => Sys2Proof.Machine.execVamoMax o s
  | .vamoSwap o => Sys2Proof.Machine.execVamoSwap o s
  | .vtocb d a x => Sys2Proof.Machine.execVtocb d a x s
  | .vrep c a t => Sys2Proof.Machine.execVrep c a t s
  | .vld o => Sys2Proof.Machine.execVld o s
  | .vst o => Sys2Proof.Machine.execVst o s
  | .vldx o => Sys2Proof.Machine.execVldx o s
  | .vstx o => Sys2Proof.Machine.execVstx o s
  | .tensorLoad o => Sys2Proof.Machine.execTensorLoad o s
  | .tensorStore o => Sys2Proof.Machine.execTensorStore o s
  | .vgl d a b o v m => Sys2Proof.Machine.execVgl d a b o v m s
  | .vsc d a b y m => Sys2Proof.Machine.execVsc d a b y m s
  | .mma o => Sys2Proof.Machine.execMma o s
  | .mmaG o => Sys2Proof.Machine.execMmaG o s
  | .mzero t => Sys2Proof.Machine.execMzero t s
  | .mld t a => Sys2Proof.Machine.execMld t a s
  | .mst t a => Sys2Proof.Machine.execMst t a s
  | .mdrainF32 t d c => Sys2Proof.Machine.execMdrainF32 t d c s
  | .mdrainBf16 t d c => Sys2Proof.Machine.execMdrainBf16 t d c s
  | .mdrainI8 t d q c => Sys2Proof.Machine.execMdrainI8 t d q c s
  | .maddRow t a f x => Sys2Proof.Machine.execMaddRow t a f x s
  | .maddCol t a f x => Sys2Proof.Machine.execMaddCol t a f x s
  | .msum t a b f u x => Sys2Proof.Machine.execMsum t a b f u x s
  | .cpy o => Sys2Proof.Machine.execCpy o s
  | .cpyt o => Sys2Proof.Machine.execCpyt o s
  | .cfill o => Sys2Proof.Machine.execCfill o s
  | .cgath o => Sys2Proof.Machine.execCgath o s
  | .cnm d a y e g => Sys2Proof.Machine.execCnm d a y e g s
  | .cnmAll d a y e g => Sys2Proof.Machine.execCnmAll d a y e g s
  | .cwait g => Sys2Proof.Machine.execCwait g s
  | .cpf a l e g => Sys2Proof.Machine.execCpf a l e g s
  | .cfence g => Sys2Proof.Machine.execCfence g s
  | .tli d im => Sys2Proof.Machine.execTli d im s
  | .tadd d a b => Sys2Proof.Machine.execTadd d a b s
  | .taddi d a im => Sys2Proof.Machine.execTaddi d a im s
  | .tsub d a b => Sys2Proof.Machine.execTsub d a b s
  | .tmul d a b => Sys2Proof.Machine.execTmul d a b s
  | .tand d a b => Sys2Proof.Machine.execTand d a b s
  | .tor d a b => Sys2Proof.Machine.execTor d a b s
  | .tshl d a b => Sys2Proof.Machine.execTshl d a b s
  | .tshr d a b => Sys2Proof.Machine.execTshr d a b s
  | .tld d a o => Sys2Proof.Machine.execTld d a o s
  | .tst a b o => Sys2Proof.Machine.execTst a b o s
  | .tbeq a b o => Sys2Proof.Machine.execTbeq a b o s
  | .tbne a b o => Sys2Proof.Machine.execTbne a b o s
  | .tblt a b o => Sys2Proof.Machine.execTblt a b o s
  | .tbge a b o => Sys2Proof.Machine.execTbge a b o s
  | .tj o => Sys2Proof.Machine.execTj o s
  | .tjal d o => Sys2Proof.Machine.execTjal d o s
  | .tjr a => Sys2Proof.Machine.execTjr a s
  | .tbuf lb x f pl => Sys2Proof.Machine.execTbuf lb x f pl s
  | .tbind lb a => Sys2Proof.Machine.execTbind lb a s
  | .tfree lb => Sys2Proof.Machine.execTfree lb s
  | .tlaunch h ops => Sys2Proof.Machine.execTlaunch h ops s
  | .tcopy dst src => Sys2Proof.Machine.execTcopy dst src s
  | .tnm a => Sys2Proof.Machine.execTnm a s
  | .tnmAll a => Sys2Proof.Machine.execTnmAll a s
  | .tread d lb off => Sys2Proof.Machine.execTread d lb off s
  | .tsig a b => Sys2Proof.Machine.execTsig a b s
  | .twait a b => Sys2Proof.Machine.execTwait a b s
  | .tsys c => Sys2Proof.Machine.execTsys c s
  | .nmFill c => Sys2Proof.Machine.execNmFill c s
  | .nmCopy c => Sys2Proof.Machine.execNmCopy c s
  | .nmScale c => Sys2Proof.Machine.execNmScale c s
  | .nmAxpy c => Sys2Proof.Machine.execNmAxpy c s
  | .nmSgdwd c => Sys2Proof.Machine.execNmSgdwd c s
  | .nmMomentum c => Sys2Proof.Machine.execNmMomentum c s
  | .nmAdamw c => Sys2Proof.Machine.execNmAdamw c s
  | .nmSumsq c => Sys2Proof.Machine.execNmSumsq c s
  | .nmCast c => Sys2Proof.Machine.execNmCast c s
  | .gbarArr => Sys2Proof.Machine.execGbarArr s
  | .tret => Sys2Proof.Machine.execTret s
  | .texit => Sys2Proof.Machine.execTexit s
  | .wfe => Sys2Proof.Machine.execWfe s
  | .nop => Sys2Proof.Machine.execNop s
  | .mwait => Sys2Proof.Machine.execMwait s
  | .tfence => Sys2Proof.Machine.execTfence s
  | .thalt => Sys2Proof.Machine.execThalt s
  | .cnmComplete j => Sys2Proof.Machine.execCnmComplete j s
  | .nmuRun j stack => Sys2Proof.Machine.execNmuRun j stack s
  | .acquirePhase e => Sys2Proof.Machine.execAcquirePhase e s
  | .copyUnit e => Sys2Proof.Machine.execCopyUnit e s
  | .viqIssue tk n => Sys2Proof.Machine.execViqIssue tk n s
  | .matrixStep tk => Sys2Proof.Machine.execMatrixStep tk s
  | .ueReplay tk el mirror => Sys2Proof.Machine.execUeReplay tk el mirror s
  | .scalarResultReady tk im => Sys2Proof.Machine.execScalarResultReady tk im s
  | .heldBundleRelease tk => Sys2Proof.Machine.execHeldBundleRelease tk s
  | .knotReleasePerformed tk => Sys2Proof.Machine.execKnotReleasePerformed tk s
  | .wfeTimeout tk => Sys2Proof.Machine.execWfeTimeout tk s
  | .landingSlotLand tk => Sys2Proof.Machine.execLandingSlotLand tk s
  | .escalateTrap tk => Sys2Proof.Machine.execEscalateTrap tk s
  | .instructionFill cluster line => Sys2Proof.Machine.execInstructionFill cluster line s
  | .l1Eviction core line => Sys2Proof.Machine.execL1Eviction core line s
  | .preemptionRequest req => Sys2Proof.Machine.execPreemptionRequest req s
  | .contextSave tk => Sys2Proof.Machine.execContextSave tk s
  | .gangResume k id gidx places => Sys2Proof.Machine.execGangResume k id gidx places s
  | .gangBind k id gidx places => Sys2Proof.Machine.execGangBind k id gidx places s
  | .gangArm cluster mask => Sys2Proof.Machine.execGangArm cluster mask s
  | .teamStart k id gidx => Sys2Proof.Machine.execTeamStart k id gidx s
  | .startPhaseTableWrite cluster v => Sys2Proof.Machine.execStartPhaseTableWrite cluster v s
  | .taskIssue k id => Sys2Proof.Machine.execTaskIssue k id s
  | .taskComplete k id => Sys2Proof.Machine.execTaskComplete k id s
  | .entryRetire k => Sys2Proof.Machine.execEntryRetire k s
  | .twaitComplete k id => Sys2Proof.Machine.execTwaitComplete k id s
  | .taskFaultTaken k => Sys2Proof.Machine.execTaskFaultTaken k s
  | .streamRestart k restart back => Sys2Proof.Machine.execStreamRestart k restart back s
  | .streamEnd k => Sys2Proof.Machine.execStreamEnd k s
  | .kick k v => Sys2Proof.Machine.execKick k v s
  | .seqtagRetry k => Sys2Proof.Machine.execSeqtagRetry k s
  | .qctlEn k en => Sys2Proof.Machine.execQctlEn k en s
  | .abort k => Sys2Proof.Machine.execAbort k s
  | .leaseRequest k v => Sys2Proof.Machine.execLeaseRequest k v s
  | .registerWrite k off v => Sys2Proof.Machine.execRegisterWrite k off v s
  | .loadApplication k image plan => Sys2Proof.Machine.execLoadApplication k image plan s
  | .resolve c => Sys2Proof.Machine.execResolve c s
  | .launch c => Sys2Proof.Machine.execLaunch c s
  | .capscript c => Sys2Proof.Machine.execCapscript c s
  | .tlbInvalidate asn lo hi => Sys2Proof.Machine.execTlbInvalidate asn lo hi s
  | .translateObject part base t => Sys2Proof.Machine.execTranslateObject part base t s
  | .translationSwap part base toTrans => Sys2Proof.Machine.execTranslationSwap part base toTrans s
  | .partitionChange req => Sys2Proof.Machine.execPartitionChange req s
  | .fuseAdvance n => Sys2Proof.Machine.execFuseAdvance n s
  | .keyEnroll part key => Sys2Proof.Machine.execKeyEnroll part key s
  | .checkpointRound asn target => Sys2Proof.Machine.execCheckpointRound asn target s
  | .deviceRemoval port => Sys2Proof.Machine.execDeviceRemoval port s
  | .powerEpoch => Sys2Proof.Machine.execPowerEpoch s
  | .leaseExpiry k => Sys2Proof.Machine.execLeaseExpiry k s
  | .overCurrentEvent pair => Sys2Proof.Machine.execOverCurrentEvent pair s
  | .nextContextKill pair => Sys2Proof.Machine.execNextContextKill pair s
  | .thermalSample cluster reading => Sys2Proof.Machine.execThermalSample cluster reading s
  | .wearSample core bias migration act => Sys2Proof.Machine.execWearSample core bias migration act s
  | .wearRecordWrite => Sys2Proof.Machine.execWearRecordWrite s
  | .watchdogExpiry k => Sys2Proof.Machine.execWatchdogExpiry k s
  | .drainKillTimeout part => Sys2Proof.Machine.execDrainKillTimeout part s
  | .eccCorrectableError site => Sys2Proof.Machine.execEccCorrectableError site s
  | .eccUncorrectableError site => Sys2Proof.Machine.execEccUncorrectableError site s
  | .patrolScrub => Sys2Proof.Machine.execPatrolScrub s
  | .sramScrub => Sys2Proof.Machine.execSramScrub s
  | .hbmCalibration => Sys2Proof.Machine.execHbmCalibration s
  | .linkCalibration => Sys2Proof.Machine.execLinkCalibration s
  | .hostHdmAccess x => Sys2Proof.Machine.execHostHdmAccess x s
  | .flitReplay link => Sys2Proof.Machine.execFlitReplay link s
  | .linkDown link => Sys2Proof.Machine.execLinkDown link s
  | .linkCreditTimeout link => Sys2Proof.Machine.execLinkCreditTimeout link s
  | .linkRetrain link => Sys2Proof.Machine.execLinkRetrain link s
  | .boot r => Sys2Proof.Machine.execBoot r s
  | .freeze => Sys2Proof.Machine.execFreeze s
  | .freezeResume tooLong => Sys2Proof.Machine.execFreezeResume tooLong s
  | .moduleReset => Sys2Proof.Machine.execModuleReset s
  | .powerLoss => Sys2Proof.Machine.execPowerLoss s
  | .orderlyShutdown => Sys2Proof.Machine.execOrderlyShutdown s
  | .checkpointControl asn en => Sys2Proof.Machine.execCheckpointControl asn en s
  | .applicationUnload part handle => Sys2Proof.Machine.execApplicationUnload part handle s
  | .powerPolicyChange part shares => Sys2Proof.Machine.execPowerPolicyChange part shares s
  | .debuggerRequest tk req => Sys2Proof.Machine.execDebuggerRequest tk req s
  | .peerAccess link x => Sys2Proof.Machine.execPeerAccess link x s

end Sys2Proof.Machine
end

