-- ==== Sys2Proof/Machine/Bundle.lean ====
section
/-! DEFINITION. One bundle of a team: fetch, the checks made before any syllable commits, the holds, execution in class
order, and what commits (R20 to R22, R57, R76 to R85, R95, R126, R151 to R163, R170, R201, R206, R243). -/

namespace Sys2Proof.Machine

/-! ### The code object a team runs in (R80, R188, R190) -/

/-- The loaded object whose pages hold an address. -/
def Partition.objAt (p : Partition) (a : Nat) : Option LoadedObj :=
  (p.apps.flatMap (fun x => x.objs)).find? (fun o => decide (o.base ≤ a) && decide (a < o.base + o.obj.size))

/-- Whether the bundle at an address is in scheduled form; code outside every loaded object, such as a handler's, is taken
as serial. Log 10 (DEDUCED, unsafe). -/
def schedAt (s : State) (tk : Nat) (a : Word) : Bool :=
  match (s.part (s.partOf tk)).objAt a.toNat with
  | some o => o.sched
  | none => false

/-! ### Fetch (R17, R57, R76, R77) -/

/-- A syllable with its address. -/
structure Syl where
  at' : Word
  w   : BitVec 32
  deriving DecidableEq, Repr

def Syl.cls (x : Syl) : Nat := (sylClass x.w).toNat

/-- A class number (R76). -/
def classOf (n : Nat) : Class := match n with | 0 => .s | 1 => .v | 2 => .m | _ => .c

/-- What a bundle's fetch comes to. -/
inductive Fetch where
  | ok (l : List Syl)
  /-- The last syllable breaks R77. -/
  | form (l : List Syl)
  | miss
  | fault (i : TrapInfo)
  deriving DecidableEq, Repr

/-- A miss joins the outstanding fill of its line, or starts one (R17). -/
def State.askFill (s : State) (core line : Nat) : State :=
  let c := core / 8
  let x := s.cluster c
  let w := look [] x.fills line
  if w.contains core then s else s.setCluster c { x with fills := put x.fills line (w ++ [core]) }

/-- The bytes instruction fetch reads. Log 1 (DESIGN CHOICE, unsafe). -/
def MemSys.codeByte (m : MemSys) (pa : Nat) : Byte := look 0#8 m.code pa

/-- Fetches one syllable: through the instruction cache, from what the resident OS has loaded (R57). Log 12 (DEDUCED, safe). -/
def fetchSyl (s : State) (tk : Nat) (a : Word) : State × Except (Option TrapInfo) (BitVec 32) :=
  let t := s.team tk
  match s.ms.translate (.inst (coreOf tk)) t.bind.asn t.bind.root (decide (t.level = .h)) .fetch a with
  | (ms, .error c) => ({ s with ms := ms }, .error (some { cause := c, tval := a }))
  | (ms, .ok x) =>
    let s := { s with ms := ms }
    if (ms.core (coreOf tk)).icache.contains (x.pa / 64) then
      (s, .ok (BitVec.ofNat 32 (readLE ms.codeByte x.pa 4)))
    else if ms.poisoned x.pa then (s, .error (some (ueAt true a.toNat)))
    else (s.askFill (coreOf tk) (x.pa / 64), .error none)

/-- The bundle from address a: syllables of rising class until one has P = 0; in serial form, one (R77, R80). Log 11
(DEDUCED, safe). -/
def fetchFrom (tk : Nat) (serial : Bool) : Nat → Option Nat → Word → List Syl → State → State × Fetch
  | 0, _, _, l, s => (s, .ok l)
  | k + 1, prev, a, l, s =>
    match fetchSyl s tk a with
    | (s, .error (some i)) => (s, .fault i)
    | (s, .error none) => (s, .miss)
    | (s, .ok w) =>
      let x : Syl := { at' := a, w := w }
      let low := match prev with
        | none => false
        | some c => decide (x.cls ≤ c)
      if low || (serial && sylP w) then (s, .form (l ++ [x]))
      else if sylP w then fetchFrom tk serial k (some x.cls) (a + 4#64) (l ++ [x]) s
      else (s, .ok (l ++ [x]))

/-- Five syllables cannot be of rising class, so five are enough. -/
def fetchBundle (s : State) (tk : Nat) : State × Fetch :=
  fetchFrom tk (!(s.team tk).sched) 5 none (s.team tk).pc [] s

/-! ### Registers still to be written (R82, R85) -/

/-- The registers that queued V syllables are still to write (R85). -/
def Team.pendingRegs (t : Team) : List Reg :=
  t.q.viq.filterMap (fun e =>
    match e.op with
    | .v (.kq _ d _) => if d = 0#5 then none else some d
    | .v (.ext d _) => if d = 0#5 then none else some d
    | _ => none)

/-- The scalar registers a syllable reads or writes. -/
def scalarRegs (i : Instr) : List Reg :=
  Instr.scalarReads i ++ (match Instr.result i with | some r => [r.1] | none => []) ++
  (match Instr.vResult i with | some d => [d] | none => [])

/-- The scale registers that the descriptors of a scaled matrix multiply name, read at commit (R85, R280). -/
def scaleRegs (r : Reg → Word) (i : Instr) : List Reg :=
  match i with
  | .mma o | .mmaG o =>
    if mfScaled o.f then [BitVec.ofNat 5 (Opd.of (r o.a)).sc, BitVec.ofNat 5 (Opd.of (r o.b)).sc] else []
  | _ => []

/-- Whether a register that a syllable of the team's next bundle reads or writes is still to be given its value: by a queued V
syllable, or by a load due at this boundary (R82, R85). -/
def Team.regsWait (t : Team) (i : Instr) : Bool :=
  t.flights.any (fun f => decide (f.left = 0) && f.load.isSome) || (scalarRegs i ++ scaleRegs t.reg i).any t.pendingRegs.contains

/-! ### Checks (R77, R95, R126, R154, R157, R170, R220, R243, R281, R301) -/

/-- The first syllable of the bundle that an enabled breakpoint names, whichever breakpoint it is (R154, R170). Log 77
(DESIGN CHOICE, safe). -/
def breakAt (c : Ctl) (l : List Syl) : Option Word :=
  (l.find? (fun x => c.bkp.any (fun b => b.2.getLsbD 0 && decide (b.2.extractLsb' 2 55 = x.at'.extractLsb' 2 55)))).map Syl.at'

/-- R84: the S syllable would leave a fifth result in flight. -/
def fifthResult (t : Team) (i : Instr) : Bool :=
  t.sched &&
  (match Instr.result i with
   | some (d, lat) =>
     decide (1 < lat) && decide (d ≠ 0#5) &&
     decide (4 ≤ (t.flights.filter (fun f => decide (1 < f.left) && decide (f.reg ≠ 0#5))).length)
   | none => false)

/-- The syllables an open frame refuses (R243). -/
def frameBad : Instr → Bool
  | .vrep _ _ _ | .setgl _ _ | .setglH _ _ _ | .stb _ | .stbW _ _ | .ste _ | .texit => true
  | _ => false

/-- Control-register numbers no register answers to (R126). -/
def crNumber : Instr → Option (BitVec 12)
  | .crr _ n | .crw _ n | .crs _ _ n | .crc _ _ n => some n
  | _ => none

/-- The state in which a syllable of a bundle executes. -/
def State.atSyl (s : State) (tk : Nat) (l : List Syl) (w : BitVec 32) : State :=
  let t := s.team tk
  let a := match l with | x :: _ => x.at' | [] => t.pc
  let link := a + BitVec.ofNat 64 (4 * l.length)
  { s with cur := { s.cur with
      tk := tk, addr := a, word := w, link := link, npc := link, regs := t.bank, ctl := t.ctl, st := .running, cuts := [],
      raise := none, strip := t.strip, ret := false } }

/-- The queue entry a syllable would take, with what it would capture. -/
def entryOf (s : State) (tk : Nat) (i : Instr) : Option QEntry :=
  match exec i s with
  | .next s' => (s'.team tk).q.all.find? (fun e => decide (e.no = (s.team tk).nextNo))
  | _ => none

/-- The checks on what a queued syllable will capture. -/
def entryBad (e : QEntry) (gsz : Nat) : Bool :=
  match e.op with
  | .v o => !VOp.accepts o (vtFmt e.vtype)
  | .m o => mopBad o e.x e.y e.z gsz
  | .c o => copBad o.kind e.x e.y e.z

/-- What checking a decoded syllable comes to. -/
inductive Check (α : Type) where
  | ok (a : α)
  /-- The check waits for a value the syllable will capture (R21, R85). -/
  | wait
  | bad (x : Syl)
  deriving DecidableEq, Repr

/-- The checks on what an M or C syllable will capture wait for its registers (R85, R281, R301). Log 75 (DEDUCED, safe). -/
def QEntry.waits (e : QEntry) (t : Team) (i : Instr) : Bool :=
  match e.op with
  | .v _ => false
  | _ => t.regsWait i

/-- Whether a decoded syllable raises ILLEGAL when its bundle is checked. -/
def checkSyl (s : State) (tk : Nat) (l : List Syl) (x : Syl) (i : Instr) : Check Instr :=
  let t := s.team tk
  let s := s.atSyl tk l x.w
  if (t.q.frame.isSome && frameBad i) ||
    (match crNumber i with
     | some n => decide (crFault s n.toNat = some .illegal)
     | none => false) then .bad x
  else
    match entryOf s tk i with
    | some e => if e.waits t i then .wait else if entryBad e t.bind.gsz then .bad x else .ok i
    | none => .ok i

/-- In class order, the first syllable that raises ILLEGAL or must wait; else every instruction. -/
def decodeAll (s : State) (tk : Nat) (l : List Syl) : List Syl → Check (List (Syl × Instr))
  | [] => .ok []
  | x :: r =>
    match decodeSyl x.w with
    | .error _ => .bad x
    | .ok i =>
      match checkSyl s tk l x i with
      | .bad y => .bad y
      | .wait => .wait
      | .ok i =>
        match decodeAll s tk l r with
        | .bad y => .bad y
        | .wait => .wait
        | .ok is => .ok ((x, i) :: is)

/-- The trap a fetched bundle raises before any of it commits, with the class of the syllable that raises it; else its
instructions, or none while a check waits. Where a bundle both breaks the form of R77 and would leave a fifth result, the
syllable that breaks the form is the one named. Log 76 (DESIGN CHOICE, safe). Log 108 (DESIGN CHOICE, safe). -/
def checkBundle (s : State) (tk : Nat) (l : List Syl) (form : Bool) : Except (TrapInfo × Class) (Option (List (Syl × Instr))) :=
  let t := s.team tk
  let word := fun (c : Cause) (x : Syl) => (({ cause := c, tval := x.w.setWidth 64 } : TrapInfo), classOf x.cls)
  match (if decide (t.level = .a) && !t.afterTret then breakAt t.ctl l else none) with
  | some a => .error ({ cause := .breakpoint, tval := a }, classOf (((l.find? (fun x => decide (x.at' = a))).map Syl.cls).getD 0))
  | none =>
    match (if form then l.getLast? else none) with
    | some x => .error (word .bundleForm x)
    | none =>
      match l.find? (fun x => match decodeSyl x.w with | .ok i => fifthResult t i | .error _ => false) with
      | some x => .error (word .bundleForm x)
      | none =>
        match (if t.level = .h then l.find? (fun x => decide (x.cls = 2)) else none) with
        | some x => .error (word .matrixInHandler x)
        | none =>
          match decodeAll s tk l l with
          | .bad x => .error (word .illegal x)
          | .wait => .ok none
          | .ok is => .ok (some is)

/-! ### Holds before execution (R21, R82, R85) -/

/-- Whether the entry a syllable takes finds no room (R20, R21). -/
def noRoom (s : State) (tk : Nat) (e : QEntry) : Bool :=
  let q := (s.team tk).q
  let other := (s.team (otherSlot tk)).q
  match e.op with
  | .v _ => decide (Config.viqDepth ≤ (q.viq.filter (fun e => e.counts)).length)
  | .m _ => decide (Config.mqDepth ≤ q.mq.length)
  | .c o =>
    if o.tag.toNat < 8 then decide (Config.cqDepth ≤ q.cq0.length) || decide (Config.ceDepth ≤ q.cq0.length + other.cq0.length)
    else decide (Config.cqDepth ≤ q.cq1.length) || decide (Config.ceDepth ≤ q.cq1.length + other.cq1.length)

/-- Whether a bundle is held before its first syllable executes. -/
def bundleWaits (s : State) (tk : Nat) (l : List Syl) (is : List (Syl × Instr)) : Bool :=
  let t := s.team tk
  t.flights.any (fun f => decide (f.left = 0) && f.load.isSome) || is.any (fun x => t.regsWait x.2) ||
  (!t.issued && is.any (fun x =>
    match entryOf (s.atSyl tk l x.1.w) tk x.2 with
    | some e => noRoom s tk e
    | none => false))

/-! ### Execution and commit (R20, R78, R151) -/

/-- How a bundle's execution ends. -/
inductive Ran where
  /-- Every syllable has executed. -/
  | all (s : State)
  /-- The bundle is held; `s` is what the try leaves. -/
  | held (s : State)
  /-- A trap was taken; nothing of the bundle commits. -/
  | trapped (s : State)
  | stop (o : Out)

/-- Executes a bundle's syllables in class order. The S syllable comes first, and what its hold leaves stays; a later
hold undoes the bundle. -/
def runSyls (s0 : State) (first : Bool) : List (Syl × Instr) → State → Ran
  | [], s => .all s
  | x :: r, s =>
    match exec x.2 { s with cur := { s.cur with word := x.1.w } } with
    | .next s' =>
      match s'.cur.st with
      | .running => runSyls s0 false r s'
      | .held => if first then .held s' else .held s0
      | .stopped => .trapped s'
    | o => .stop o

/-- A bundle commits: grant and width points, the counts of results in flight, the PC, and a trap it raised (R78, R81,
R154, R161, R163). -/
def commitBundle (s : State) (tk : Nat) : State :=
  let cur := s.cur
  let s := cur.cuts.foldl State.cut s
  let t := s.team tk
  let t := { t with bno := t.bno + 1, held := false, issued := false }
  let t := if cur.ret then t else { t.tick with pc := cur.npc, afterTret := false }
  match cur.raise with
  | none => s.setTeam tk t
  | some i =>
    match t.level with
    | .h => { s.setTeam tk (t.escalate i .s none) with ms := s.ms.setLinks tk [] }
    | .a =>
      if t.q.all.any (fun e => e.fault.isSome) then s.setTeam tk { t with deferred := some i }
      else { s.setTeam tk (t.takeTrap i .s none cur.npc) with ms := s.ms.setLinks tk [] }

/-- Marks the bundle held. -/
def State.markHeld (s : State) (tk : Nat) : State := s.setTeam tk { s.team tk with held := true }

/-- Whether a bundle is a `tret` with queued syllables of its own, which are issued at H-level first (R163). -/
def retFirst (t : Team) (is : List (Syl × Instr)) : Bool :=
  decide (t.level = .h) && !t.issued &&
  (match is with
   | x :: _ :: _ => decide (x.2 = .tret)
   | _ => false)

/-- Executes a bundle that passed its checks and holds. -/
def executeBundle (s : State) (tk : Nat) (l : List Syl) (is : List (Syl × Instr)) : Out :=
  let t := s.team tk
  let s1 := s.atSyl tk l 0#32
  if retFirst t is then
    match runSyls (s.markHeld tk) false (is.drop 1) s1 with
    | .all s' => .next (s'.setTeam tk { s'.team tk with issued := true, held := true })
    | .held s' => .next (s'.markHeld tk)
    | .trapped s' => .next s'
    | .stop o => o
  else
    let todo := if t.issued then is.take 1 else is
    match runSyls s1 true todo s1 with
    | .all s' => .next ((commitBundle s' tk).finishExit tk)
    | .held s' => .next (s'.markHeld tk)
    | .trapped s' => .next s'
    | .stop o => o

/-! ### Traps at the boundary (R152, R154, R158) -/

/-- Takes a queued trap, or waits for what is older. -/
def takeQueued (s : State) (tk : Nat) (e : QEntry) (i : TrapInfo) (ready : Bool) : State :=
  let t := s.team tk
  if !ready then s.markHeld tk
  else
    { s.setTeam tk (match t.level with
        | .a => t.takeTrap i (qopCls e.op) (some e) t.pc
        | .h => t.escalate i (qopCls e.op) (some e)) with
      ms := s.ms.setLinks tk [] }

/-- The next turn of a team's sequencer: one trap, one bundle, or a hold. A fetch fault has no trapping syllable:
TSTATUS.ENG names class S. Results in flight at a jump from a scheduled object into a serial one go on counting bundles
(R80, R81). Log 78 (DESIGN CHOICE, unsafe). Log 79 (DESIGN CHOICE, unsafe). -/
def runBundle (tk : Nat) (s : State) : Out :=
  let t := s.team tk
  if t.status = .exiting then .next (s.finishExit tk)
  else if t.status ≠ .running then .next s
  else
    match queuedTrap t with
    | some q => .next (takeQueued s tk q.1 q.2.1 q.2.2)
    | none =>
      match (if t.level = .a then t.deferred else none) with
      | some i => .next { s.setTeam tk (({ t with deferred := none } : Team).takeTrap i .s none t.pc) with ms := s.ms.setLinks tk [] }
      | none =>
        let s := s.setTeam tk { t with sched := schedAt s tk t.pc }
        match fetchBundle s tk with
        | (s, .fault i) => .next (s.bundleTrap tk i .s t.pc)
        | (s, .miss) => .next (s.markHeld tk)
        | (s, .form l) =>
          match checkBundle s tk l true with
          | .error e => .next (s.bundleTrap tk e.1 e.2 t.pc)
          | .ok _ => .next s
        | (s, .ok l) =>
          match checkBundle s tk l false with
          | .error e => .next (s.bundleTrap tk e.1 e.2 t.pc)
          | .ok none => .next (s.markHeld tk)
          | .ok (some is) => if bundleWaits s tk l is then .next (s.markHeld tk) else executeBundle s tk l is

end Sys2Proof.Machine
end

