-- ==== Sys2Proof/Machine/Turns.lean ====
section
/-! DEFINITION. Whose turn it is and what a turn does: a bundle, a T-op, a near-memory unit's run, an event; and how a word is
laid where the next turn fetches it (R20, R43, R57, R98, R315, R316, R329, R404). -/

namespace Sys2Proof.Machine

/-! ### A stream slot's next T-op (R329, R355) -/

/-- Whether a slot decodes: not behind a fault, not ending, not in a draining partition. -/
def Stream.decodes (x : Stream) (p : Partition) : Bool :=
  x.active && x.ending.isNone && !x.stopped && !x.lrec.load && !p.draining

/-- The slot's decode stands at a T-op: its address, its word, how many words it has. -/
def State.atTop (s : State) (k : Nat) (a w : Word) (n : Nat) : State :=
  { s with cur := { s.cur with k := k, taddr := a, tword := w, npc := a + BitVec.ofNat 64 (8 + 8 * n), st := .running } }

/-- The operand words after a header, read at their home. -/
def topWords (s : State) (k : Nat) (a : Word) : Nat → State × Except TrapInfo (List Word)
  | 0 => (s, .ok [])
  | n + 1 =>
    match topWords s k a n with
    | (s, .error f) => (s, .error f)
    | (s, .ok l) =>
      match streamRead s k (a + BitVec.ofNat 64 (8 * (n + 1))) with
      | (s, .error f) => (s, .error f)
      | (s, .ok v) => (s, .ok (l ++ [v]))

/-- A malformed T-op (R98); one of a task takes its sequence number. -/
def malformedTop (s : State) (w : Word) : State := s.faultWord .malformed (decide (w.extractLsb' 56 8 = 0x30#8)) []

/-- After a T-op: SPC (57 bits, R327) moves on unless decode holds or has stopped. -/
def afterTop (o : Out) (k : Nat) : Out :=
  match o with
  | .next s =>
    match s.cur.st with
    | .running => .next (s.setStream k { s.stream k with spc := s.cur.npc &&& 0x01FFFFFFFFFFFFF8#64 })
    | _ => .next s
  | o => o

/-- The next T-op of a stream slot; on a full window decode stalls whatever comes next (R338). -/
def runTop (k : Nat) (s : State) : Out :=
  let x := s.stream k
  if !x.decodes (s.part x.part) then .next s
  else if x.full then .next (s.setStream k { x with winstall := x.winstall + 1 })
  else
    match streamRead s k x.spc with
    | (s, .error f) => .next ((s.atTop k x.spc 0 0).faultInfo f)
    | (s, .ok w) =>
      let n := topOperands w
      if 8 < n then .next (malformedTop (s.atTop k x.spc w 0) w)
      else
        match topWords s k x.spc n with
        | (s, .error f) => .next ((s.atTop k x.spc w n).faultInfo f)
        | (s, .ok ops) =>
          let s := s.atTop k x.spc w n
          match decodeTop w ops with
          | .error _ => .next (malformedTop s w)
          | .ok i => afterTop (exec i s) k

/-! ### A near-memory unit's next run (R316) -/

/-- The command of an opcode. -/
def nmInstr (op : Nat) (c : NmCmd) : Option Instr :=
  match op with
  | 1 => some (.nmFill c) | 2 => some (.nmCopy c) | 3 => some (.nmScale c) | 4 => some (.nmAxpy c)
  | 5 => some (.nmSgdwd c) | 6 => some (.nmMomentum c) | 7 => some (.nmAdamw c) | 8 => some (.nmSumsq c)
  | 9 => some (.nmCast c) | _ => none

/-- The next run of a job's command on one unit. -/
def runNm (j stack : Nat) (s : State) : Out :=
  match s.job? j with
  | none => .next s
  | some x =>
    match nmInstr x.opcode x.cmd with
    | none => .next s
    | some i => exec i { s with cur := { s.cur with j := j, stack := stack } }

/-! ### Turns -/

/-- What a module in each run state lets happen (R403 to R405): all of it when ready, else what a stopped module still
meets. Log 52 (DESIGN CHOICE, safe). -/
def Turn.allowed (p : Power) (t : Turn) : Bool :=
  match p, t with
  | .ready, _ => true
  | .off, .ev (.boot _) => true
  | .frozen, .ev (.freezeResume _) | .frozen, .ev .moduleReset | .frozen, .ev (.linkDown _)
  | .frozen, .ev (.linkCreditTimeout _) => true
  | _, .ev .powerLoss => true
  | _, _ => false

/-- One turn. -/
def runTurn (t : Turn) (s : State) : Out :=
  if !t.allowed s.power then .next s
  else
    match t with
    | .bundle tk => if Config.teams ≤ tk then .fault .noSuchUnit else runBundle tk s
    | .top k => if Config.streamSlots ≤ k then .fault .noSuchUnit else runTop k s
    | .nmu j stack => runNm j stack s
    | .ev i => exec i s

/-! ### What the module does of itself, with nothing on the agenda -/

/-- Something that could come next without anything from outside. -/
inductive Due where
  | turn (t : Turn)
  | viq (tk n : Nat) | matrix (tk : Nat) | acquire (e : EngineRef) | unit (e : EngineRef) | knot (tk : Nat)
  | result (tk i : Nat) | wfe (tk : Nat) | escalate (tk : Nat) | save (tk : Nat) | preempt (tk : Nat) (why : PreemptWhy)
  | issue (k id : Nat) | complete (k id : Nat) | bind (k id g : Nat) (pl : List Placement)
  | resume (k id g : Nat) (pl : List Placement) | arm (c : Nat) (m : BitVec 16) | start (k id g : Nat)
  | retire (k : Nat) | faultTaken (k : Nat) | twait (k id : Nat) | restart (k : Nat) (again : Bool) | ends (k : Nat)
  | seqtag (k : Nat) | cnm (j : Nat) | fill (c line : Nat) | call (c : Caller) (n : Nat) | epoch
  | evict (core line : Nat) | ack | watchdog (k : Nat) | drained (p : Nat) | wearRecord
  deriving DecidableEq, Repr

/-- What it does. -/
def Due.run (d : Due) (s : State) : Out :=
  match d with
  | .turn t => runTurn t s
  | .viq tk n => execViqIssue tk n s
  | .matrix tk => execMatrixStep tk s
  | .acquire e => execAcquirePhase e s
  | .unit e => execCopyUnit e s
  | .knot tk => execKnotReleasePerformed tk s
  | .result tk i => execScalarResultReady tk i s
  | .wfe tk => execWfeTimeout tk s
  | .escalate tk => execEscalateTrap tk s
  | .save tk => execContextSave tk s
  | .preempt tk why => execPreemptionRequest ⟨tk, why⟩ s
  | .issue k id => execTaskIssue k id s
  | .complete k id => execTaskComplete k id s
  | .bind k id g pl => execGangBind k id g pl s
  | .resume k id g pl => execGangResume k id g pl s
  | .arm c m => execGangArm c m s
  | .start k id g => execTeamStart k id g s
  | .retire k => execEntryRetire k s
  | .faultTaken k => execTaskFaultTaken k s
  | .twait k id => execTwaitComplete k id s
  | .restart k again => execStreamRestart k again none s
  | .ends k => execStreamEnd k s
  | .seqtag k => execSeqtagRetry k s
  | .cnm j => execCnmComplete j s
  | .fill c line => execInstructionFill c line s
  | .call c n => if n = 1 then execResolve c s else if n = 2 then execLaunch c s else execCapscript c s
  | .epoch => execPowerEpoch s
  | .ack => .next { s with ms := s.ms.acked }
  | .evict core line => execL1Eviction core line s
  | .watchdog k => execWatchdogExpiry k s
  | .drained p => execDrainKillTimeout p s
  | .wearRecord => execWearRecordWrite s

/-- The first slot and allocation of a core that take a team. -/
def corePlace (s : State) (core lmu cls : Nat) : Option Placement :=
  ((([0, 1] : List Nat).flatMap (fun slot => (List.range (49 - lmu)).map (fun b => (slot, b)))).find?
    (fun x => teamFits s core x.1 x.2 lmu cls)).map (fun x => { core := core, slot := x.1, lmb := x.2 })

/-- A core put where its wear places it. -/
def byWear (wear : Nat → Nat) (core : Nat) : List Nat → List Nat
  | [] => [core]
  | c :: r => if wear core ≤ wear c then core :: c :: r else c :: byWear wear core r

/-- Where the firmware could place a gang now: the first cluster with room, its least-worn cores that `ok` admits (R391). -/
def findPlaces (s : State) (p gsz lmu cls : Nat) (prot : Bool) (ok : Nat → Bool) : List Placement :=
  let cores := fun (c : Nat) => ((List.range 8).map (8 * c + ·)).filter (fun core => coreTakes s core lmu cls && ok core)
  match (List.range Config.clusters).find? (fun c => clusterTakes s p c gsz lmu cls prot && decide (gsz ≤ (cores c).length)) with
  | none => []
  | some c =>
    (((cores c).foldr (byWear (fun core => (s.ms.core core).wear)) []).filterMap (fun core => corePlace s core lmu cls)).take gsz

def when' (b : Bool) (d : Due) : List Due := if b then [d] else []

/-- What a team slot could do. -/
def teamDue (s : State) (tk : Nat) (t : Team) : List Due :=
  when' (decide (t.status = .running) || decide (t.status = .exiting)) (.turn (.bundle tk)) ++
  when' (!t.q.viq.isEmpty) (.viq tk 8192) ++ when' (!t.q.viq.isEmpty) (.viq tk 64) ++ when' (!t.q.mq.isEmpty) (.matrix tk) ++
  (List.range t.q.cq0.length).flatMap (fun i => [Due.unit (.team tk 0 i), .acquire (.team tk 0 i)]) ++
  (List.range t.q.cq1.length).flatMap (fun i => [Due.unit (.team tk 1 i), .acquire (.team tk 1 i)]) ++
  when' (!t.krels.isEmpty) (.knot tk) ++ (List.range t.flights.length).map (fun i => Due.result tk i) ++
  when' (decide (t.wake = some false)) (.wfe tk) ++ when' (decide (t.status = .escalating)) (.escalate tk) ++
  when' (decide (t.status = .halted)) (.save tk) ++ when' t.preemptReq (.preempt tk .drain) ++
  when' (t.present && decide (t.bind.cls ≠ 0) && roomWanted s (s.stream t.bind.slot).part) (.preempt tk .room)

/-- What the firmware could do next for a bound gang. -/
def gangDue (s : State) (k : Nat) (e : WEntry) (gidx : Nat) : List Due :=
  let tks := (s.teamsOfTask k (e.seq.getD 0#64)).filter (fun tk => decide ((s.team tk).bind.gidx = gidx))
  match tks with
  | [] => []
  | tk :: _ => [.arm (clusterOf tk) (tks.foldl (fun (m : BitVec 16) tk => m ||| (1#16 <<< (tk % 16))) 0#16), .start k e.id gidx]

/-- What a window entry of a stream could do. -/
def entryDue (s : State) (k : Nat) (e : WEntry) : List Due :=
  let x := s.stream k
  match e.st, e.op with
  | .waiting, .wait _ _ => [.twait k e.id]
  | .waiting, _ => [.issue k e.id]
  | .issued, .copy _ _ _ => [.unit (.task k e.id)]
  | .issued, .launch _ _ gsz lmu _ =>
    let g := fun (st : GangState) => e.gangs.zipIdx.filter (fun y => decide (y.1 = st))
    let places := findPlaces s x.part gsz lmu x.lrec.cls.toNat x.lrec.prot
    [.complete k e.id] ++
    ((g .waiting).take 1).map (fun y => Due.bind k e.id y.2 (places (fun _ => true))) ++
    ((g .saved).take 1).map (fun y => Due.resume k e.id y.2 (places (savedSuits s k (e.seq.getD 0#64) y.2))) ++
    (g .bound).flatMap (fun y => gangDue s k e y.2)
  | _, _ => []

/-- What a stream slot could do. -/
def streamDue (s : State) (e : Nat × Stream) : List Due :=
  let k := e.1
  let x := e.2
  when' (decide (x.qstate = .fetching)) (.seqtag k) ++
  (if !x.active then []
   else if x.ending.isSome then [.ends k]
   else
    when' (!x.lrec.load && decide (x.wdLeft = 0#32)) (.watchdog k) ++ [.turn (.top k), .retire k, .faultTaken k] ++ x.window.flatMap (entryDue s k) ++
    (if x.stopped && x.window.isEmpty then [.restart k false, .restart k true] else []))

/-- What the near-memory units could do for a job. -/
def jobDue (j : NmJob) : List Due := (List.range 12).map (fun st => Due.turn (.nmu j.id st)) ++ [.cnm j.id]

/-- What the rest of the module owes a team slot: lines of its code, its calls, its near-memory commands, its start. -/
def owedDue (s : State) (tk : Nat) (t : Team) : List Due :=
  (s.cluster (clusterOf tk)).fills.map (fun f => Due.fill (clusterOf tk) f.1) ++
  (s.syscalls.filter (fun c => decide (c.caller = .team tk))).map (fun c => Due.call c.caller c.num) ++
  (s.jobs.filter (fun j => j.ofTeam tk)).flatMap jobDue ++
  (match t.status with
   | .bound | .armed => ((s.stream t.bind.slot).window.filter (fun e => decide (e.seq = some t.bind.seq))).flatMap (fun e => gangDue s t.bind.slot e t.bind.gidx)
   | _ => []) ++
  when' (!s.ms.unacked.isEmpty) .ack

/-- What could come next for one team slot. -/
def slotDue (s : State) (tk : Nat) : List Due :=
  match find? s.teams tk with
  | none => []
  | some t => if t.present then teamDue s tk t ++ owedDue s tk t else []

/-- Everything that could come next without anything from outside. Log 6 (DESIGN CHOICE, safe). -/
def allDue (s : State) : List Due :=
  s.teams.flatMap (fun e => teamDue s e.1 e.2) ++ s.streams.flatMap (streamDue s) ++ s.jobs.flatMap jobDue ++
  s.clusters.flatMap (fun c => c.2.fills.map (fun f => Due.fill c.1 f.1)) ++
  s.syscalls.map (fun c => Due.call c.caller c.num) ++
  s.ms.cores.flatMap (fun c => c.2.l1.map (fun l => Due.evict c.1 l.pa)) ++
  s.parts.flatMap (fun p => when' p.2.draining (.drained p.1)) ++ when' (!s.ms.unacked.isEmpty) .ack ++ [.epoch, .wearRecord]

/-- One of a list, counted round it. -/
def pick (l : List Due) (n : Nat) : Option Due := l[n % l.length]?

/-- What is served out of turn, so that no bound team starves (R37): at every second turn one slot after the other, and of
its list one after the other, round and round. Log 6 (DESIGN CHOICE, safe). -/
def fairDue (s : State) : Option Due :=
  if s.turns % 2 = 0 then none
  else pick (slotDue s (s.turns / 2 % Config.teams)) (s.turns / (2 * Config.teams))

/-- The next turn: the agenda's first; else, in a module that is ready, one that fairness owes, or a free choice among those
that are due. Log 6 (DESIGN CHOICE, safe). -/
def nextTurn (s : State) : Option (Due × State) :=
  match s.agenda with
  | t :: r => some (.turn t, { s with agenda := r })
  | [] =>
    if s.power ≠ .ready then none
    else
      match fairDue s with
      | some d => some (d, { s with turns := s.turns + 1 })
      | none => (pick (allDue s) s.free.1.toNat).map (fun d => (d, { s.free.2 with turns := s.turns + 1 }))

/-! ### Where the next turn fetches -/

/-- A leaf that maps the first 64 KiB to the first of HBM4E, readable, writable and executable, where core 0 fetches or where
the stream engine and the near-memory units look. -/
def probeLeaf (p : TlbPlace) (asn : Nat) : TlbEnt :=
  { place := p, asn := asn, va := 0, size := 65536, leafAt := 0, leaf := 0x3D, dc := true, marked := [0] }

/-- Storage in which address 0 of an address space is translated, fetched and populated. -/
def MemSys.probe (m : MemSys) (p : TlbPlace) (asn : Nat) : MemSys :=
  { m.setCore 0 { m.core 0 with icache := 0 :: (m.core 0).icache } with
    tlb := probeLeaf p asn :: m.tlb, populated := hbmRegion :: m.populated, memPoison := [] }

/-- A team in slot 0 at address 0, with nothing that would come before its next bundle. -/
def Team.probe (t : Team) : Team :=
  { t with status := .running, pc := 0, deferred := none, q := Queues.empty, flights := [], afterTret := true, issued := false
           wake := none }

/-- The word laid in the code of slot 0, which has the next turn. Log 7 (DESIGN CHOICE, safe). -/
def State.withSyl (s : State) (w : Nat) : State :=
  let m := s.ms.probe (.inst 0) (s.team 0).bind.asn
  { s with
    power := .ready, agenda := .bundle 0 :: s.agenda, teams := put s.teams 0 (s.team 0).probe
    ms := { m with code := storeLE m.code 0 4 w } }

/-- The words laid where stream slot 0 decodes, which has the next turn. Log 7 (DESIGN CHOICE, safe). -/
def State.withTop (s : State) (w : Nat) : State :=
  let x := s.stream 0
  let p := s.part x.part
  let m := s.ms.probe .hub (s.streamSpace 0).1
  { s with
    power := .ready, agenda := .top 0 :: s.agenda
    streams := put s.streams 0 { x with active := true, ending := none, stopped := false, spc := 0, window := if x.full then [] else x.window, lrec := { x.lrec with load := false } }
    parts := put s.parts x.part { p with draining := false }
    ms := { m with mem := storeLE m.mem 0 72 w } }

/-- The command handed to the near-memory units, the first of which has the next turn. Log 7 (DESIGN CHOICE, safe). -/
def State.withNm (s : State) (w : Nat) : State :=
  let j := s.nextJob
  let s := newJob { s with ms := s.ms.probe .hub 0 } .gone 0 false 0 0 false (BitVec.ofNat 512 w) (true, 0, 0) 0 0 0
  { s with power := .ready, agenda := .nmu j 0 :: s.agenda }

end Sys2Proof.Machine
end

