-- ==== Sys2Proof/Machine/Step.lean ====
section
/-! DEFINITION. One step of the module, and a state whose next step runs a given word. -/

namespace Sys2Proof.Machine

/-- One step: the next turn is taken; with none to take, the module idles. -/
def step (s : State) : Host.Outcome State Fault Refusal :=
  match nextTurn s with
  | none => .next s
  | some (d, s') => d.run s'

/-- The state with an instruction where the next step fetches: a syllable in a team's code, a T-op in a stream's program, a
near-memory command with the units. Log 7 (DESIGN CHOICE, safe). -/
def State.withFetchWord (s : State) (nbits w : Nat) : State :=
  if nbits = 0 then s else if nbits ≤ 32 then s.withSyl w else if nbits ≤ 128 then s.withTop w else s.withNm w

end Sys2Proof.Machine
end

