-- ==== Sys2Proof/Safety.lean ====
section
/-! DEFINITION. The terms claims use: the machine's data in order, steps that go on, what an instruction leaves unchanged, and
what each kind of syllable leaves behind. -/

namespace Sys2Proof.Machine

/-! ### Data in order -/

/-- A register bank or a stream's registers in canonical form: keys rise, nothing listed is zero, register 0 is not listed. -/
def bankOk (b : List (Nat × Word)) : Bool := canonical 0#64 b && (find? b 0).isNone

/-- Both banks of a team in order. -/
def Team.ok (t : Team) : Prop := bankOk t.regs = true ∧ bankOk t.hregs = true

/-- Storage in canonical form (R45, R173). -/
def MemSys.ok (m : MemSys) : Bool := canonical 0#8 m.mem && canonical 0#8 m.lm && canonical false m.fe && canonical 0#8 m.code

/-- One step answers a next state. -/
def goesOn (s : State) : Prop := ∃ t, step s = .next t

/-! ### Frames -/

/-- Nothing of the module but the slot `tk` differs from s to t. -/
structure OnlyTeam (tk : Nat) (s t : State) : Prop where
  rest   : t = { s with teams := t.teams }
  others : ∀ k, k ≠ tk → t.team k = s.team k

/-- Nothing of the module but the stream slot k differs from s to t. -/
structure OnlyStream (k : Nat) (s t : State) : Prop where
  rest   : t = { s with streams := t.streams }
  others : ∀ j, j ≠ k → t.stream j = s.stream j

/-- Nothing of a team but its scalar registers and its results in flight differs, and of the registers only those of the bank
its level names. -/
structure OnlyRegs (x y : Team) : Prop where
  rest : y = { x with regs := y.regs, hregs := y.hregs, flights := y.flights }
  bankA : x.level = .a → y.hregs = x.hregs
  bankH : x.level = .h → y.regs = x.regs

/-- What an S syllable with result v for register d at latency lat leaves (R80 to R83, R123): the other registers as they were;
register d reads v at once in serial form or at latency 1, else v is in flight; a write to s0 is discarded; a result that would
become readable at the next bundle too is superseded. -/
structure Wrote (s : State) (lat : Nat) (d : Reg) (v : Word) (t : State) : Prop where
  frame  : OnlyTeam s.cur.tk s t
  team   : OnlyRegs s.curTeam t.curTeam
  regs   : ∀ r, r ≠ d → t.curTeam.reg r = s.curTeam.reg r
  zero   : d = 0#5 → t.curTeam = s.curTeam
  now    : d ≠ 0#5 → lat ≤ 1 ∨ s.curTeam.sched = false →
    t.curTeam.reg d = v ∧ (∀ f ∈ t.curTeam.flights, f.reg = d → 1 < f.left) ∧
    ∀ f, f.reg ≠ 0#5 → f.reg ≠ d ∨ 1 < f.left → (f ∈ t.curTeam.flights ↔ f ∈ s.curTeam.flights)
  later  : d ≠ 0#5 → 1 < lat → s.curTeam.sched = true →
    t.curTeam.reg d = s.curTeam.reg d ∧
    t.curTeam.flights = s.curTeam.flights ++ [{ reg := d, val := v, load := none, left := lat }]

/-- i completes on s with result v in register d at latency lat, over the state `s'` (s itself where i has no other effect). -/
def Gives (i : Instr) (s s' : State) (lat : Nat) (d : Reg) (v : Word) : Prop := ∃ t, exec i s = .next t ∧ Wrote s' lat d v t

/-- i completes by sending the team, or the stream slot, to `pc` next, and changes nothing else. -/
def GoesTo (i : Instr) (s : State) (pc : Word) : Prop := exec i s = .next { s with cur := { s.cur with npc := pc } }

/-- The queues with the fault of the entry numbered n taken. -/
def Queues.cleared (q : Queues) (n : Nat) : Queues :=
  let f := fun (e : QEntry) => if e.no = n then { e with fault := none } else e
  { q with viq := q.viq.map f, mq := q.mq.map f, cq0 := q.cq0.map f, cq1 := q.cq1.map f }

/-- What taking a trap leaves of a team at A-level (R131, R153, R156, R159): the trap registers, with QP, TVPC and the restart point
of the class of a queued trap's entry, the landing slots, the queue image, the handler's bank, level and PC; nothing else changes. -/
structure TookTrap (x : Team) (i : TrapInfo) (cls : Class) (q : Option QEntry) (tpc : Word) (y : Team) : Prop where
  rest    : y = { x with
    regs := y.regs, hregs := y.hregs, flights := y.flights, saved := y.saved, ctl := y.ctl, q := y.q, image := y.image
    vec := y.vec, under := y.under, entry := y.entry, level := y.level, pc := y.pc, issued := false, acqBind := none, wake := none, held := false }
  ctl     : y.ctl = { x.ctl with
    tcause := BitVec.ofNat 8 i.cause.code, tval := i.tval, tstatus := (if q.isSome then 8#4 else 0#4) ||| BitVec.ofNat 4 cls.code
    tvpc := match q with | some e => e.addr | none => 0#64
    tpc := tpc &&& 0x01FFFFFFFFFFFFFC#64
    es := match q with | some e => (match e.op with | .v _ => BitVec.ofNat 16 e.start | _ => 0#16) | none => 0#16
    mkp := match q with | some e => (match e.op with | .m _ => BitVec.ofNat 16 e.start | _ => 0#16) | none => 0#16
    cp := match q with | some e => (match e.op with | .c _ => BitVec.ofNat 64 e.start | _ => 0#64) | none => 0#64
    ls0 := y.ctl.ls0, ls1 := y.ctl.ls1, ls2 := y.ctl.ls2, ls3 := y.ctl.ls3, lsm := y.ctl.lsm }
  level   : y.level = .h
  pc      : y.pc = x.bind.tvec
  image   : y.image = some (match q with | some e => x.q.cleared e.no | none => x.q)
  queues  : y.q = Queues.empty
  points  : (∀ e ∈ x.q.viq, ∀ vb kb, e.op ≠ .v (.trunc vb kb)) → y.vec = x.vec ∧ y.under = []
  inFlight : y.flights = []
  noSlots : x.flights = [] → y.ctl.lsm = 0#64 ∧ y.saved = []
  regs    : (∀ f ∈ x.flights, f.left ≠ 0) → y.regs = x.regs
  args    : ∀ r : Reg, 1 ≤ r.toNat → r.toNat ≤ 8 → y.reg r = look 0#64 y.regs r.toNat
  cause   : y.reg 9#5 = BitVec.ofNat 64 i.cause.code
  tval    : y.reg 10#5 = i.tval
  hdata   : y.reg 29#5 = x.bind.hdata
  others  : ∀ r : Reg, 8 < r.toNat → r ≠ 9#5 → r ≠ 10#5 → r ≠ 29#5 → y.reg r = 0#64

/-- A bundle trap has been taken. -/
abbrev TrapTaken (x : Team) (i : TrapInfo) (cls : Class) (tpc : Word) (y : Team) : Prop := TookTrap x i cls none tpc y

/-- The S syllable in execution traps: its bundle does not commit, and nothing but its slot and that slot's link set changes. -/
structure TrapsS (s : State) (c : Cause) (v : Word) (t : State) : Prop where
  rest   : t = { s with teams := t.teams, ms := s.ms.setLinks s.cur.tk [], cur := { s.cur with st := .stopped } }
  others : ∀ k, k ≠ s.cur.tk → t.team k = s.team k
  atA    : s.curTeam.level = .a → TrapTaken s.curTeam { cause := c, tval := v } .s s.cur.addr t.curTeam
  atH    : s.curTeam.level = .h → t.curTeam =
    { s.curTeam with status := .escalating, esc := some { info := { cause := c, tval := v }, hpc := s.curTeam.pc, cls := .s, qp := false, tvpc := 0#64, ended := false } }

/-- The bundle in execution is held: nothing of it commits, and nothing but that changes. -/
def Holds (i : Instr) (s : State) : Prop := exec i s = .next { s with cur := { s.cur with st := .held } }

/-! ### Entering a queue (R20 to R22) -/

/-- The entry a queued syllable takes: its place in issue order, and what it captures at commit (R22, R78): the control registers
and scalar operands as they stood before the bundle. -/
def captures (s : State) (op : QOp) (x y z : Reg) : QEntry :=
  { no := s.curTeam.nextNo, bno := s.curTeam.bno, hl := decide (s.curTeam.level = .h), addr := s.cur.addr, word := s.cur.word
    op := op, gl := s.cur.ctl.gl.toNat, vtype := s.cur.ctl.vtype, seed := s.cur.ctl.seed, seb := s.cur.ctl.seb
    ntfw := s.cur.ctl.ntfw, cka := s.cur.ctl.cka, ckr := s.cur.ctl.ckr
    x := regOf s.cur.regs x, y := regOf s.cur.regs y, z := regOf s.cur.regs z, sx := 0#64, sy := 0#64, start := 0, cap := none, probe := none, grans := [], run := none, pfmt := none
    fl := 0, pass := 0, idx := 0, acq := false, done := false, replayed := false, remirrored := false, strip := s.cur.strip, ceNo := 0, fault := none }

/-- A V syllable has taken the last place of its slot's VIQ; nothing of the team changes but its queue, its numbering and what the
strip arbiter counts. `fr` is the repeat frame open afterwards. -/
structure TakesV (s : State) (op : VOp) (x y z : Reg) (fr : Option Frame) (t : State) : Prop where
  frame : OnlyTeam s.cur.tk s t
  team  : t.curTeam = { s.curTeam with
    q := { s.curTeam.q with viq := s.curTeam.q.viq ++ [captures s (.v op) x y z], frame := fr }
    nextNo := s.curTeam.nextNo + 1, vt := t.curTeam.vt, charge := t.curTeam.charge }

/-- The frame left open once one more syllable is captured (R243). -/
def frameLeft : Option Frame → Option Frame
  | none => none
  | some f => if f.left ≤ 1 then none else some { f with left := f.left - 1 }

/-- i completes, on every state, by taking its place in the VIQ. -/
def EntersV (i : Instr) (op : VOp) (x y z : Reg) : Prop :=
  ∀ s : State, ∃ t, exec i s = .next t ∧ TakesV s op x y z (frameLeft s.curTeam.q.frame) t

/-- The scale address of an operand descriptor w: what the scalar register its SC field names held before the bundle (R280). -/
def scaleOf (s : State) (w : Word) : Word := regOf s.cur.regs (BitVec.ofNat 5 (Opd.of w).sc)

/-- i completes, on every state, by taking the last place of the matrix queue, a scaled form with the scale addresses that its two
operand descriptors name. -/
def EntersM (i : Instr) (op : MOp) (x y z : Reg) (scaled : Bool) : Prop :=
  ∀ s : State, ∃ t, exec i s = .next t ∧ OnlyTeam s.cur.tk s t ∧
    let e := captures s (.m op) x y z
    t.curTeam = { s.curTeam with
      q := { s.curTeam.q with mq := s.curTeam.q.mq ++ [if scaled then { e with sx := scaleOf s e.y, sy := scaleOf s e.z } else e] }
      nextNo := s.curTeam.nextNo + 1, mvt := t.curTeam.mvt }

/-- i completes, on every state, by taking the last place of the copy queue its tag selects, and of its engine's queue. -/
def EntersC (i : Instr) (op : COp) (x y z : Reg) : Prop :=
  ∀ s : State, ∃ t, exec i s = .next t ∧ OnlyTeam s.cur.tk s t ∧
    let n := max s.curTeam.ceNo (s.team (otherSlot s.cur.tk)).ceNo + 1
    let e := { captures s (.c op) x y z with ceNo := n }
    t.curTeam = { s.curTeam with
      q := if op.tag.toNat < 8 then { s.curTeam.q with cq0 := s.curTeam.q.cq0 ++ [e] }
           else { s.curTeam.q with cq1 := s.curTeam.q.cq1 ++ [e] }
      nextNo := s.curTeam.nextNo + 1, ceNo := n, cvt0 := t.curTeam.cvt0, cvt1 := t.curTeam.cvt1 }

/-- The bank in which the team in execution has its registers is in order. -/
def State.bankFine (s : State) : Prop := bankOk s.curTeam.bank = true

/-! ### Storage as a core sees it (R54, R55) -/

/-- The 64 bytes core c sees at the line of pa: its L1's line, else the home. -/
def MemSys.seenLine (m : MemSys) (c pa : Nat) : BitVec 512 :=
  match findLine (m.core c).l1 (pa / 64) with
  | some l => l.data
  | none => m.lineData (pa / 64)

/-- n bytes at pa, within one line, as core c sees them. -/
def MemSys.seen (m : MemSys) (c pa n : Nat) : Nat := ((m.seenLine c pa).extractLsb' (8 * (pa % 64)) (8 * n)).toNat

/-- Whether what core c sees at pa is poisoned. -/
def MemSys.seenBad (m : MemSys) (c pa : Nat) : Prop :=
  match findLine (m.core c).l1 (pa / 64) with
  | some l => l.poison = true ∨ l.lost = true
  | none => m.memPoison.contains (pa / 64) = true

/-- Core c holds a dirty byte for pa, and its value. -/
def MemSys.dirtyByte (m : MemSys) (c pa : Nat) (b : Byte) : Prop :=
  ∃ l ∈ (m.core c).l1, l.pa = pa / 64 ∧ l.dirty.getLsbD (pa % 64) = true ∧ b = l.data.extractLsb' (8 * (pa % 64)) 8

/-- No dirty byte of core c lies at pa. -/
def MemSys.noDirty (m : MemSys) (c pa : Nat) : Prop :=
  ∀ l ∈ (m.core c).l1, l.pa = pa / 64 → l.dirty.getLsbD (pa % 64) = false

/-- Every dirty line of core c has a home that answers (R401). -/
def MemSys.homesUp (m : MemSys) (c : Nat) : Prop := ∀ l ∈ (m.core c).l1, l.dirty = 0#64 ∨ m.isPop (l.pa * 64) = true

/-- Nothing of storage differs but the L1 of core c and, at their homes, bytes it wrote back, those to a peer being still to be
acknowledged. -/
structure OnlyL1 (c : Nat) (a b : MemSys) : Prop where
  rest  : b = { a with cores := b.cores, mem := b.mem, memPoison := b.memPoison, links := b.links, unacked := b.unacked }
  sent  : ∃ l, b.unacked = a.unacked ++ l ∧ ∀ u ∈ l, (∃ tk, u.who = .team tk ∧ coreOf tk = c) ∧ isPeer u.pa = true ∧ u.dead = false
  cores : ∀ k, k ≠ c → b.core k = a.core k
  core  : b.core c = { a.core c with l1 := (b.core c).l1 }
  bytes : ∀ pa, b.byteAt pa = a.byteAt pa ∨ a.dirtyByte c pa (b.byteAt pa)

/-- With the line present, or room for it, an access through the L1 of core c at the line of pa evicts nothing: no home changes,
and the core sees every byte but those `wr` names as before. -/
def NoEviction (c pa : Nat) (wr : Nat → Prop) (a b : MemSys) : Prop :=
  (findLine (a.core c).l1 (pa / 64)).isSome = true ∨ (a.core c).l1.length < Config.l1Lines →
    b.mem = a.mem ∧ ∀ p, ¬wr p → b.seen c p 1 = a.seen c p 1

/-- R180: no place of the TLBs, nor set of a cluster's, holds more entries than it has room for. -/
def MemSys.tlbFits (m : MemSys) : Prop := ∀ e ∈ m.tlb, (m.tlb.filter e.competes).length ≤ e.place.room

/-- Every dirty byte of core c whose home answers in `a` is at its home in `b`. -/
def Homed (c : Nat) (a b : MemSys) : Prop :=
  ((a.core c).l1.map Line.pa).Nodup → ∀ l ∈ (a.core c).l1, a.isPop (l.pa * 64) = true →
    ∀ i, i < 64 → l.dirty.getLsbD i = true → b.byteAt (l.pa * 64 + i) = l.data.extractLsb' (8 * i) 8

/-- The bytes R179 may write for a store through a translation: the leaf entry, and the granule's byte of the dirty map. -/
def markBytes (m : MemSys) (x : Xlat) (va p : Nat) : Prop :=
  (x.ent.leafAt ≤ p ∧ p < x.ent.leafAt + 8) ∨ ∃ sp, m.space? x.ent.asn = some sp ∧ p = sp.dmap + va / 65536 / 8

/-- In `b` the leaf's D and the granule's bit of the dirty map are set, unless the translation had noted them already in `m` (R179). -/
def MarksSet (m : MemSys) (x : Xlat) (va : Nat) (b : MemSys) : Prop :=
  ((m.current x.ent).dc = false → fld (b.homeRead x.ent.leafAt 8) 5 1 = 1) ∧
  ∀ sp, m.space? x.ent.asn = some sp → (m.current x.ent).marked.contains (va / 65536) = false →
    fld (b.homeRead (sp.dmap + va / 65536 / 8) 1) (va / 65536 % 8) 1 = 1

/-- Every line of core c that `p` selects is written back (R54): its dirty bytes at their homes, every other byte of memory as it
was. -/
structure Published (c : Nat) (p : Line → Bool) (a b : MemSys) : Prop where
  only  : OnlyL1 c a b
  home  : ((a.core c).l1.map Line.pa).Nodup → ∀ l ∈ (a.core c).l1, p l = true → ∀ i, i < 64 → l.dirty.getLsbD i = true →
    b.byteAt (l.pa * 64 + i) = l.data.extractLsb' (8 * i) 8
  other : ∀ pa, (∀ l ∈ (a.core c).l1, p l = true → l.pa = pa / 64 → l.dirty.getLsbD (pa % 64) = false) → b.byteAt pa = a.byteAt pa

/-- The translation of a team's access at its level (R46, R177). -/
def State.xlat (s : State) (k : Acc) (ea : Word) : MemSys × Except Cause Xlat :=
  s.ms.translate (.data (coreOf s.cur.tk)) s.curTeam.bind.asn s.curTeam.bind.root (decide (s.curTeam.level = .h)) k ea

/-- What a scalar load, or a store or atomic (`wr`), from or to `g:` asks of its state and operands (R121, R139, R177): nothing
older in its way, an aligned address whose translation passes every check, and no page format in its way. -/
structure ReachesG (s : State) (k : Acc) (ea : Word) (size : Nat) (m : MemSys) (x : Xlat) : Prop where
  free    : gWaits s s.cur.tk ea.toNat size = false
  aligned : ea.toNat % size = 0
  leaf    : s.xlat k ea = (m, .ok x)
  scales  : inScaleArea x.ent ea.toNat = false
  blocks  : k = .write → pageBlk x.ent.leaf = 0
  mem     : Memory.wf s.ms.mem
  bank    : s.bankFine

/-- What a scalar access to `lm:` or `cw:` touches (R23, R52). -/
def lmTouched (s : State) (c : BitVec 3) (ea : Word) (size : Nat) (rd wr : Bool) : LmTouch :=
  let span := winSpan s.curTeam (lmCode c) ea.toNat size
  { LmTouch.none with core := true, rd := if rd then span else [], wr := if wr then span else [] }

/-- What such an access asks of its state and operands (R47, R48, R139): an address in range, nothing older in its way, no
poison under a read. -/
structure ReachesL (s : State) (c : BitVec 3) (ea : Word) (size : Nat) (rd wr : Bool) (core off : Nat) : Prop where
  loc   : lmLoc s s.cur.tk (lmCode c) ea.toNat size = .ok (.l core off)
  free  : s.curTeam.lmWaits s.curTeam.nextNo (lmTouched s c ea size rd wr) = false
  clean : rd = true → s.ms.lmBad core off = false
  lm    : s.ms.ok = true
  bank  : s.bankFine

/-- A loaded value extended to 64 bits (R139). -/
def extended (size : Nat) (sgn : Bool) (n : Nat) : Word :=
  if sgn then (BitVec.ofNat (8 * size) n).signExtend 64 else (BitVec.ofNat (8 * size) n).setWidth 64

/-- An atomic (R141) with function f of old, b and c: in `g:` at the home, the core's own line written back and dropped first,
latency 8; in `lm:` in the array, latency 4; each indivisible, as one step. -/
def Atomically (i : Reg → Reg → Reg → Bool → Bool → Instr) (f : ∀ {w : Nat}, BitVec w → BitVec w → BitVec w → BitVec w) : Prop :=
  (∀ (s : State) (d a b : Reg) (z : Bool) (m : MemSys) (x : Xlat),
    let size := if z then 8 else 4
    let w := 8 * size
    let m' := m.evictLine (coreOf s.cur.tk) x.pa
    let old := BitVec.ofNat w (m'.homeRead x.pa size)
    ReachesG s .write (s.rd a) size m x → m'.poisoned x.pa = false → ∃ t, exec (i d a b z false) s = .next t ∧
      Wrote { s with ms := t.ms } 8 d (old.signExtend 64) t ∧
      t.ms.homeRead x.pa size = (f old ((s.rd b).setWidth w) ((s.rd d).setWidth w)).toNat ∧
      findLine (t.ms.core (coreOf s.cur.tk)).l1 (x.pa / 64) = none ∧
      ∀ p, p < x.pa ∨ x.pa + size ≤ p → ¬markBytes m x (s.rd a).toNat p →
        t.ms.byteAt p = m'.byteAt p) ∧
  (∀ (s : State) (d a b : Reg) (z : Bool) (core off : Nat),
    let size := if z then 8 else 4
    let w := 8 * size
    let old := BitVec.ofNat w (s.ms.lmRead core off size)
    ReachesL s 2#3 (s.rd a) size true true core off → ∃ t, exec (i d a b z true) s = .next t ∧
      Wrote { s with ms := t.ms } 4 d (old.signExtend 64) t ∧ t.ms = { s.ms with lm := t.ms.lm } ∧
      t.ms.lmRead core off size = (f old ((s.rd b).setWidth w) ((s.rd d).setWidth w)).toNat ∧
      ∀ k, k < lmKey core off ∨ lmKey core off + size ≤ k → look 0#8 t.ms.lm k = look 0#8 s.ms.lm k)

/-! ### Knots (R60 to R64, R143) -/

/-- What a knot instruction's checks ask of its state and its knot (R121, R143), and where the knot lies. -/
structure KnotOk (s : State) (k : Acc) (knot : Word) (m : MemSys) (x : Xlat) : Prop where
  aligned : knot.toNat % 16 = 0
  leaf    : s.xlat k knot = (m, .ok x)
  scales  : inScaleArea x.ent knot.toNat = false
  here    : isHostOrPeer x.pa = false
  clean   : (m.evictLine (coreOf s.cur.tk) x.pa).poisoned x.pa = false
  mem     : Memory.wf s.ms.mem
  bank    : s.bankFine

/-- Entry i of a partition's binding table is the binding of the knot at pa (R60): its handle is valid and names i, and the entry
names the knot. -/
def IsBound (m : MemSys) (part asn : Nat) (knot : Word) (pa i : Nat) : Prop :=
  let h := m.homeRead (pa + 8) 8
  fld h 63 1 = 1 ∧ i = h % 65536 ∧ ∃ e, find? m.knots (knotKey part i) = some e ∧ e.asn = asn ∧ e.knot = knot.toNat

/-- An acquire of the lines `p` selects in core c (R63, R65): those lines are gone, but for a dirty one whose home is; every other
line stays. -/
structure Acquired (c : Nat) (p : Line → Bool) (a b : MemSys) : Prop where
  gone : ∀ l ∈ (b.core c).l1, p l = true → l.dirty ≠ 0#64 ∧ b.isPop (l.pa * 64) = false
  stay : ∀ l ∈ (a.core c).l1, p l = false → l ∈ (b.core c).l1
  home : Memory.wf a.mem → OnlyL1 c a b

/-! ### Grants (R145, R203, R205, R208) -/

/-- The capacity in elements that a grant of the team in execution meets (R203), or the script's next entry (R208). -/
def State.capacity (s : State) : Nat :=
  match s.curTeam.script with
  | none => max 1 (if s.curTeam.ctl.width = 64 then s.curTeam.cap32 / 2 else s.curTeam.cap32 * (32 / s.curTeam.ctl.width))
  | some sc => max 1 (sc.caps.getD sc.pos 1)

/-- grant(q) of R145 under a held minimum. -/
def State.granted (s : State) (q : Word) (hold : BitVec 8) : Nat :=
  min q.toNat (min (s.vlmaxOf s.cur.tk) (max s.capacity hold.toNat))

/-- The grant of q has been taken, the team's control registers otherwise being c: GL, the script one entry on (for q above zero), the
closed strip's charge, and a point in queue order from which the elements at and above a lower grant are gone. -/
structure Granted (s : State) (q : Word) (c : Ctl) (t : State) : Prop where
  frame  : OnlyTeam s.cur.tk { s with cur := t.cur } t
  ctl    : t.curTeam.ctl = { c with gl := BitVec.ofNat 16 (s.granted q c.hold) }
  team   : t.curTeam = { s.curTeam with
    ctl := t.curTeam.ctl, script := t.curTeam.script, vt := t.curTeam.vt, charge := 0, strip := s.curTeam.strip + 1 }
  script : t.curTeam.script = s.curTeam.script.map (fun sc =>
    { sc with pos := if q = 0#64 then sc.pos else min (sc.pos + 1) (sc.caps.length - 1) })
  cuts   : t.cur = { s.cur with
    cuts := s.cur.cuts ++ if s.granted q c.hold < c.gl.toNat then [.trunc (s.granted q c.hold * s.curTeam.ctl.width) (some (s.granted q c.hold))] else [] }

/-- What a strip loop's wait asks of its state (R147): nothing older in its way, and a progress word that translates and is not
poisoned. -/
structure WatchOk (s : State) (w : Word) (m : MemSys) (x : Xlat) : Prop where
  releases : s.curTeam.liveRels = []
  free     : gWaits s s.cur.tk w.toNat 8 = false
  leaf     : s.xlat .read w = (m, .ok x)
  scales   : inScaleArea x.ent w.toNat = false
  clean    : (m.evictLine (coreOf s.cur.tk) x.pa).poisoned x.pa = false

/-! ### Control registers (R125 to R131) -/

/-- Number n of the map is reached by the team in execution, reads `v`, and takes a written value w by becoming `wr w`. -/
def CtlReg (s : State) (n : BitVec 12) (v : Word) (wr : Word → Team) : Prop :=
  ∀ d a : Reg,
    Gives (.crr d n) s s 2 d v ∧
    (∃ t, exec (.crw a n) s = .next t ∧ OnlyTeam s.cur.tk s t ∧ t.curTeam = wr (s.rd a)) ∧
    (∃ t, exec (.crs d a n) s = .next t ∧ Wrote (s.setTeam s.cur.tk (wr (v ||| s.rd a))) 2 d v t) ∧
    (∃ t, exec (.crc d a n) s = .next t ∧ Wrote (s.setTeam s.cur.tk (wr (v &&& ~~~(s.rd a)))) 2 d v t)

/-- What a write of w to PDEGn, PSn, PNn or PFLAGS, number m of the map, leaves of a team (R130). -/
def polyWritten (u : Team) (m : Nat) (w : Word) : Team :=
  let n := m % 8
  let p := u.vec.poly n
  if m = 0x48 then { u with ctl := { u.ctl with pflags := w.setWidth 16 } }
  else
    let q := if m < 0x38 then { p with pdeg := w.setWidth 6 } else if m < 0x40 then { p with ps := w.setWidth 32 }
      else { p with pn := w.setWidth 32 }
    { u with vec := u.vec.setPoly n q }

/-- A write of w to number m of the map is left for the bundle's commit (R78). -/
def State.leaves (s : State) (m : Nat) (w : Word) : State := { s with cur := { s.cur with cuts := s.cur.cuts ++ [.setp m w] } }

/-- Number m of the map, a field of a polynomial register, reads v; a written value waits for the bundle's commit, which writes it. -/
def PolyReg (s : State) (m : Nat) (v : Word) : Prop :=
  ∀ d a : Reg,
    let n := BitVec.ofNat 12 m
    Gives (.crr d n) s s 2 d v ∧ exec (.crw a n) s = .next (s.leaves m (s.rd a)) ∧
    Gives (.crs d a n) s (s.leaves m (v ||| s.rd a)) 2 d v ∧ Gives (.crc d a n) s (s.leaves m (v &&& ~~~(s.rd a))) 2 d v ∧
    ∀ w : Word, OnlyTeam s.cur.tk s (s.cut (.setp m w)) ∧ (s.cut (.setp m w)).curTeam = polyWritten s.curTeam m w

/-- VTYPE has been written with v (R128, R201): RM keeps its value for a code R108 does not give; FMT keeps its value for a code that is
no register format, and where GL exceeds VLMAX at the new width; BS and CB are written; a narrower width takes the bytes beyond the
new live part away in queue order. -/
structure VtypeTaken (s : State) (v : Word) (t : State) : Prop where
  frame : OnlyTeam s.cur.tk { s with cur := t.cur } t
  team  : t.curTeam = { s.curTeam with ctl := { s.curTeam.ctl with vtype := t.curTeam.ctl.vtype } }
  cb    : t.curTeam.ctl.vtype.extractLsb' 10 3 = v.extractLsb' 10 3
  bs    : t.curTeam.ctl.vtype.extractLsb' 8 2 = v.extractLsb' 8 2
  rm    : t.curTeam.ctl.vtype.extractLsb' 5 3 =
    if (v.extractLsb' 5 3).toNat ≤ 4 then v.extractLsb' 5 3 else s.curTeam.ctl.vtype.extractLsb' 5 3
  fmt   : (∃ f, Fmt.ofCode (v.extractLsb' 0 5).toNat = some f ∧ f.isReg = true ∧
      s.curTeam.ctl.gl.toNat ≤ vlmax (s.lanesOf s.cur.tk) f.width) → t.curTeam.ctl.vtype.extractLsb' 0 5 = v.extractLsb' 0 5
  kept  : ¬(∃ f, Fmt.ofCode (v.extractLsb' 0 5).toNat = some f ∧ f.isReg = true ∧
      s.curTeam.ctl.gl.toNat ≤ vlmax (s.lanesOf s.cur.tk) f.width) →
    t.curTeam.ctl.vtype.extractLsb' 0 5 = s.curTeam.ctl.vtype.extractLsb' 0 5
  cuts  : t.cur = { s.cur with
    cuts := s.cur.cuts ++ if t.curTeam.ctl.width < s.curTeam.ctl.width then
      [.trunc (s.curTeam.ctl.gl.toNat * t.curTeam.ctl.width) none] else [] }

/-- The numbers R127 lists. -/
def crListed (n : Nat) : Prop :=
  n ≤ 0x001 ∨ (0x010 ≤ n ∧ n ≤ 0x01A) ∨ (0x020 ≤ n ∧ n ≤ 0x025) ∨ (0x030 ≤ n ∧ n ≤ 0x048) ∨ (0x100 ≤ n ∧ n ≤ 0x105) ∨
  (0x108 ≤ n ∧ n ≤ 0x10C) ∨ (0x110 ≤ n ∧ n ≤ 0x117) ∨ n = 0x120

/-! ### T-ops (R329 to R355) -/

/-- The registers of the stream slot in execution are in order. -/
def State.streamFine (s : State) : Prop := bankOk s.cs.t = true

/-- A T-op with result v for register d leaves v there, t0 discarding it, and changes nothing else (R96, R330). -/
structure SetsT (s : State) (d : TReg) (v : Word) (t : State) : Prop where
  frame : OnlyStream s.cur.k s t
  slot  : t.cs = { s.cs with t := t.cs.t }
  regs  : ∀ r, r ≠ d → t.cs.reg r = s.cs.reg r
  value : d ≠ 0#4 → t.cs.reg d = v
  zero  : d = 0#4 → t.cs = s.cs

/-- i completes on s with v in stream register d, over the state `s'`. -/
def GivesT (i : Instr) (s s' : State) (d : TReg) (v : Word) : Prop := ∃ t, exec i s = .next t ∧ SetsT s' d v t

/-- The entry a T-op makes, with the slot's state before it (R338, R339). -/
def entryFor (s : State) (op : EntryOp) (st : EntryState) : WEntry :=
  { id := s.cs.nextId, seq := none, op := op, st := st, fault := none, ins := [], outs := [], raws := [], renamed := [], oldDesc := none
    after := false, spec := false, issueNo := 0, units := 0, gangs := [], snapSpc := s.cur.taddr, snapSeq := s.cs.seq
    snapT := s.cs.t, snapMap := s.cs.smap }

/-- A T-op has put e at the tail of its window; nothing else changes but the speculative map, now m. -/
structure PutsEntry (s : State) (e : WEntry) (m : List (Nat × LBuf)) (t : State) : Prop where
  frame : OnlyStream s.cur.k s t
  slot  : t.cs = { s.cs with window := s.cs.window ++ [e], nextId := s.cs.nextId + 1, smap := m }

/-- A T-op's decode stalls on a full window (R338), which WINSTALL counts. -/
def StallsT (i : Instr) (s : State) : Prop :=
  ∃ t, exec i s = .next t ∧ OnlyStream s.cur.k { s with cur := { s.cur with st := .held } } t ∧
    t.cs = { s.cs with winstall := s.cs.winstall + 1 }

/-- A fault at decode (R329, R355): a Faulted entry in the T-op's place, behind which decode stops. -/
structure FaultsT (s : State) (r : Reason) (cause : Nat) (tval : Word) (t : State) : Prop where
  frame : OnlyStream s.cur.k { s with cur := { s.cur with st := .stopped } } t
  slot  : t.cs = { s.cs with
    window := s.cs.window ++
      [{ entryFor s .fault .faulted with fault := some { reason := r, cause := cause, gidx := 0, tidx := 0, tval := tval } }]
    nextId := s.cs.nextId + 1, stopped := true }

/-- A task has entered its window (R33, R341): its sequence number, operands, renamed outputs and the descriptors they took. -/
structure Enters (s : State) (r : Resolve) (op : EntryOp) (raws : List Ref) (after spec : Bool) (gangs : List GangState) (t : State) :
    Prop where
  rest    : t = { s with streams := t.streams, parts := t.parts }
  streams : ∀ k, k ≠ s.cur.k → t.stream k = s.stream k
  parts   : ∀ p, p ≠ s.cs.part → t.part p = s.part p
  free    : t.part s.cs.part = { s.part s.cs.part with free := r.free }
  slot    : t.cs = { s.cs with
    window := s.cs.window ++ [{ entryFor s op .waiting with
      seq := some s.cs.seq, ins := r.ins, outs := r.outs, raws := raws, renamed := r.renamed, after := after, spec := spec, gangs := gangs }]
    nextId := s.cs.nextId + 1, smap := r.smap, seq := s.cs.seq + 1 }

/-- Translation in the address space of the stream in execution (R331). -/
def State.txlat (s : State) (k : Acc) (a : Word) : MemSys × Except Cause Xlat :=
  s.ms.translate .hub (s.streamSpace s.cur.k).1 (s.streamSpace s.cur.k).2 false k a

/-- What a stream's 8-byte access asks of its state (R121, R331): an aligned address that translates, no page format in its way. -/
structure ReachesT (s : State) (k : Acc) (a : Word) (m : MemSys) (x : Xlat) : Prop where
  aligned : a.toNat % 8 = 0
  leaf    : s.txlat k a = (m, .ok x)
  scales  : inScaleArea x.ent a.toNat = false
  blocks  : k = .write → pageBlk x.ent.leaf = 0
  mem     : Memory.wf s.ms.mem
  fine    : s.streamFine

/-- What a stream's knot asks of its state (R351, R352). -/
structure KnotT (s : State) (k : Acc) (knot : Word) (m : MemSys) (x : Xlat) : Prop where
  aligned : knot.toNat % 16 = 0
  leaf    : s.txlat k knot = (m, .ok x)
  scales  : inScaleArea x.ent knot.toNat = false
  here    : isHostOrPeer x.pa = false
  clean   : m.poisoned x.pa = false

/-! ### Numbers (R105, R108, R114) -/

/-- Two finite values of one sign and one magnitude, however each is written. -/
def SameNumber : FVal → FVal → Prop
  | .fin n m e, .fin n' m' e' => n = n' ∧ ∃ j k : Nat, m * 2 ^ j = m' * 2 ^ k ∧ e - (j : Int) = e' - (k : Int)
  | _, _ => False

/-- The place of a pattern that is no NaN in the order of its format's numbers, -0 below +0. -/
def placeOf (f : FF) (x : Nat) : Int := if x < f.signBit then (x : Int) else (f.signBit : Int) - x - 1

/-- The integers N / D may round to (R108); the stochastic mode takes one of the two next to it. -/
def RoundsTo (mode : RMode) (num : Int) (den : Nat) (k : Int) : Prop :=
  let below := num / den
  let above := -(-num / den)
  match mode with
  | .rne => 2 * (num - k * den).natAbs ≤ den ∧ (2 * (num - k * den).natAbs = den → k % 2 = 0)
  | .rtz => k = if num < 0 then above else below
  | .rdn => k = below
  | .rup => k = above
  | .sr => k = below ∨ k = above

/-! ### Queue entries in execution (R209, R223, R275, R287) -/

/-- A V syllable `op` at the head of its slot's VIQ that nothing holds back, over clean registers. -/
structure ReadyAt (s : State) (tk : Nat) (h : QEntry) (rest : List QEntry) (op : VOp) : Prop where
  slot   : tk < 640
  runs   : (s.team tk).runs = true
  head   : (s.team tk).q.viq = h :: rest
  op'    : h.op = .v op
  only   : ∀ e ∈ rest, e.no ≠ h.no
  older  : (s.team tk).faultBefore h.no = false
  free   : s.vHolds tk (asPend h) = false
  pipes  : pipesFree (s.passPipes (coreOf tk)) tk = true
  clean  : (s.team tk).vec.vPoison = []
  width  : h.w = 8 ∨ h.w = 16 ∨ h.w = 32 ∨ h.w = 64
  fits   : h.gl * h.w ≤ 65536
  order  : rising (s.team tk).vec.v = true
  stored : s.ms.ok = true

/-- Such a syllable of which nothing has been performed yet. -/
structure ReadyV (s : State) (tk : Nat) (h : QEntry) (rest : List QEntry) (op : VOp) : Prop extends ReadyAt s tk h rest op where
  start : h.start = 0

/-- Performing a compute syllable up to element `hi` has left it complete and gone, its flags `fl` in FFLAGS and a `wfe` of its team
ended; or it stays at the head with its restart point at hi (R215). Of the vector state only register d can differ. -/
structure WentV (s : State) (tk : Nat) (h : QEntry) (rest : List QEntry) (d hi : Nat) (fl : Flags) (t : State) : Prop where
  module : t = { s with teams := t.teams, ms := { s.ms with cores := t.ms.cores } }
  others : ∀ k, k ≠ tk → t.team k = s.team k
  team   : t.team tk = { s.team tk with
    q := { (s.team tk).q with viq := if h.gl ≤ hi then rest else { h with start := hi, fl := fl, run := none, done := false } :: rest }
    vec := { (s.team tk).vec with v := (t.team tk).vec.v }
    ctl := if h.gl ≤ hi then (s.team tk).ctl.orFlags fl else (s.team tk).ctl
    wake := if h.gl ≤ hi then (s.team tk).wake.map (fun _ => true) else (s.team tk).wake }
  regs   : ∀ r, r ≠ d → (t.team tk).vec.reg r = (s.team tk).vec.reg r
  above  : ((t.team tk).vec.reg d).toNat / 2 ^ (h.gl * h.w) = ((s.team tk).vec.reg d).toNat / 2 ^ (h.gl * h.w)

/-- The head of the VIQ has been performed: it is gone, its flags are in FFLAGS, a `wfe` of its team ends, and of the vector state only
register d can differ, and of that only the elements below GL. -/
structure DoneV (s : State) (tk : Nat) (h : QEntry) (rest : List QEntry) (d : Nat) (t : State) : Prop where
  module : t = { s with teams := t.teams, ms := { s.ms with cores := t.ms.cores } }
  others : ∀ k, k ≠ tk → t.team k = s.team k
  team   : t.team tk = { s.team tk with
    q := { (s.team tk).q with viq := rest }, vec := { (s.team tk).vec with v := (t.team tk).vec.v }
    ctl := { (s.team tk).ctl with fflags := (t.team tk).ctl.fflags }, wake := (s.team tk).wake.map (fun _ => true) }
  regs   : ∀ r, r ≠ d → (t.team tk).vec.reg r = (s.team tk).vec.reg r
  above  : ((t.team tk).vec.reg d).toNat / 2 ^ (h.gl * h.w) = ((s.team tk).vec.reg d).toNat / 2 ^ (h.gl * h.w)

/-- The value of an integer syllable (R223). -/
def intSays (f : VInt) {w : Nat} (a b : BitVec w) : BitVec w :=
  let clamp := fun (x : Int) => BitVec.ofInt w (max (-(2 ^ (w - 1) : Nat)) (min x ((2 ^ (w - 1) : Nat) - 1)))
  match f with
  | .add => a + b
  | .sub => a - b
  | .mul => a * b
  | .mulh => BitVec.ofInt w (a.toInt * b.toInt / (2 ^ w : Nat))
  | .mulhU => BitVec.ofNat w (a.toNat * b.toNat / 2 ^ w)
  | .min => if a.toInt ≤ b.toInt then a else b
  | .minU => if a.toNat ≤ b.toNat then a else b
  | .max => if b.toInt ≤ a.toInt then a else b
  | .maxU => if b.toNat ≤ a.toNat then a else b
  | .and => a &&& b
  | .or => a ||| b
  | .xor => a ^^^ b
  | .sll => a <<< (b.toNat % w)
  | .srl => a >>> (b.toNat % w)
  | .sra => a.sshiftRight (b.toNat % w)
  | .sadd => clamp (a.toInt + b.toInt)
  | .saddU => BitVec.ofNat w (min (a.toNat + b.toNat) (2 ^ w - 1))
  | .ssub => clamp (a.toInt - b.toInt)
  | .ssubU => BitVec.ofNat w (a.toNat - b.toNat)

/-- The combination of R237 over the elements xs: the sum modulo 2^w, the exact sum rounded once, or the greatest or least one, a NaN
only where every element is one; the identity where there is none. -/
def redSays (op : RedOp) (fmt : Fmt) (xs : List Nat) (r : Rnd) : Nat × Flags :=
  let sig := fmt.isFloat && xs.any (fun x => (fmt.ff.decode x).isSig)
  let best := fun (mx : Bool) =>
    match xs with
    | [] => (redIdentity op fmt, 0)
    | x :: l =>
      let y := l.foldl (extreme fmt mx) x
      (if fmt.isFloat && (fmt.ff.decode y).isNan then fmt.ff.canonNan else y, if sig then flagNV else 0)
  match op with
  | .sum => (xs.sum % 2 ^ fmt.width, 0)
  | .fsum => ((xs.map fmt.ff.decode).foldl Terms.push Terms.none).fsum fmt.ff r
  | .max => best true
  | .min => best false

/-- The flags of the elements `en` selects below n. -/
def orFlagsOf (n : Nat) (en : Nat → Bool) (f : Nat → Flags) : Flags :=
  ((List.range n).filter en).foldl (fun (a : Flags) i => a ||| f i) 0

/-! ### Polynomials (R262 to R271) -/

/-- The head of the VIQ, a polynomial syllable, has been performed: it is gone, its flags are in FFLAGS, and of the vector state only
polynomial register d can differ. -/
structure DoneP (s : State) (tk : Nat) (h : QEntry) (rest : List QEntry) (d : Nat) (fl : Flags) (t : State) : Prop where
  others : ∀ k, k ≠ tk → t.team k = s.team k
  queue  : (t.team tk).q.viq = rest
  flags  : (t.team tk).ctl.fflags = (s.team tk).ctl.fflags ||| h.fl ||| fl
  vec    : (t.team tk).vec = { (s.team tk).vec with p := (t.team tk).vec.p }
  regs   : ∀ n, n ≠ d → (t.team tk).vec.poly n = (s.team tk).vec.poly n

/-- R265: one coefficient's update, exact, rounded once to f32, an exact zero +0. -/
def roundCoef (v : FVal) : Nat × Flags := if v.isZero then (0, 0) else ffF32.encode v Rnd.rne

/-- E is the largest exponent among the nonzero coefficients of index at most PDEG (R266). -/
def topExp (p : Poly) (E : Int) : Prop :=
  (∃ j, j ≤ p.pdeg.toNat ∧ (p.val j).isZero = false ∧ (p.val j).lg = E) ∧
  ∀ j, j ≤ p.pdeg.toNat → (p.val j).isZero = false → (p.val j).lg ≤ E

/-- A polynomial register as R266 leaves it: divided by 2^E, E its largest exponent, where that lies outside −16 to 15, or is not zero
and `force` asks for it (R268); as it was otherwise, and where a coefficient is a NaN or an infinity or none is above zero. -/
structure Rescaled (p : Poly) (force : Bool) (q : Poly) : Prop where
  same : ((∃ j, j ≤ p.pdeg.toNat ∧ ((p.val j).isNan = true ∨ (p.val j).isInf = true)) ∨
    ∀ j, j ≤ p.pdeg.toNat → (p.val j).isZero = true) → q = p
  kept : ∀ E, topExp p E → -16 ≤ E → E < 16 → (force = true → E = 0) → q = p
  divided : ∀ E, (∀ j, j ≤ p.pdeg.toNat → (p.val j).isNan = false ∧ (p.val j).isInf = false) → topExp p E →
    E < -16 ∨ 16 ≤ E ∨ force = true ∧ E ≠ 0 →
    (∀ j, j ≤ p.pdeg.toNat → q.coef j = (roundCoef ((p.val j).scale (-E))).1) ∧
    (∀ j, p.pdeg.toNat < j → q.coef j = p.coef j) ∧ q.pn = p.pn ∧ q.pdeg = p.pdeg ∧
    q.ps.toInt = max (-2147483648) (min (p.ps.toInt + E) 2147483647)

/-- |a| < |b|, of values that are not NaN. -/
def absLess (a b : FVal) : Bool :=
  match a, b with
  | .inf _, _ => false
  | _, .inf _ => true
  | .fin _ m e, .fin _ k f => (Dy.ofFVal (.fin false m e)).lt (Dy.ofFVal (.fin false k f))
  | _, _ => false

/-! ### One element of a vector memory access (R246 to R259) -/

/-- An access `o` at the head of the VIQ whose next element, number h.start, is to be performed; `s'` is the state once the pipes have
passed and the progress word of an ntf store has been found at `word`, `c` what the access keeps over its elements (R121, R248,
R249, R259). -/
structure AtElem (s : State) (tk : Nat) (h : QEntry) (rest : List QEntry) (o : VMem) (s' : State) (c : VmCtx) (word : Option Xlat) :
    Prop where
  ready : ReadyAt s tk h rest (.mem o)
  more  : h.start < h.gl
  begun : vmBegin (s.passPipes (coreOf tk)) tk o (vmCaptured (s.team tk).vec o h) = (s', .ok word)
  fixed : c = vmCtx s' tk o (vmCaptured (s.team tk).vec o h)
  width : c.me = 4 ∨ c.me = 8 ∨ c.me = 16 ∨ c.me = 32 ∨ c.me = 64
  mem   : Memory.wf s.ms.mem

/-- The element lies in `g:` at byte address va, its bits from `bit` on, passes the first four checks of R253 by the translation x, and
leaves storage as m (R177, R180, R181). -/
structure InG (s' : State) (c : VmCtx) (m : MemSys) (x : Xlat) (bit : Nat) : Prop where
  space   : vmSpace c.o = 0
  addr    : c.bit c.e.start = some bit
  aligned : 8 ≤ c.me → bit / 8 % (c.me / 8) = 0
  enabled : c.en (s'.team c.tk).vec c.e.start = true
  probed  : ∀ p f, (vmProbe s' c).2 = some p → p.bad ≠ some (c.e.start, f)
  leaf    : vmXlat (vmProbe s' c).1 { c with e := { c.e with probe := (vmProbe s' c).2 } } (bit / 8) c.e.start = (m, .ok x)
  page    : vmPageOk c (s'.team c.tk).vec x bit c.e.start = true

/-- The element lies in local memory, `lm:` or a sibling's, at offset `off` of a core's memory. -/
structure InL (s' : State) (c : VmCtx) (core off bit : Nat) : Prop where
  space   : vmSpace c.o ≠ 0
  addr    : c.bit c.e.start = some bit
  whole   : 8 ≤ c.me
  enabled : c.en (s'.team c.tk).vec c.e.start = true
  probed  : ∀ p f, (vmProbe s' c).2 = some p → p.bad ≠ some (c.e.start, f)
  loc     : lmLoc s' c.tk (vmSpace c.o) (bit / 8) (c.me / 8) = .ok (.l core off)

/-- The head is where it was and now carries the trap f; no register of its slot has changed. -/
def ElemFaults (s : State) (tk : Nat) (h : QEntry) (rest : List QEntry) (f : TrapInfo) (t : State) : Prop :=
  (t.team tk).vec = (s.team tk).vec ∧ (∀ k, k ≠ tk → t.team k = s.team k) ∧
  ∃ e, (t.team tk).q.viq = e :: rest ∧ e.no = h.no ∧ e.op = h.op ∧ e.start = h.start ∧ e.fault = some f

/-- The head's element has been performed: the syllable's restart point is one on, or it is complete and gone; of its slot's vector
state only registers d and `d2` differ, and of register d only this element. -/
structure ElemDone (s : State) (tk : Nat) (h : QEntry) (rest : List QEntry) (d d2 : Nat) (t : State) : Prop where
  module : t = { s with teams := t.teams, ms := t.ms, fresh := t.fresh }
  others : ∀ k, k ≠ tk → (t.team k).vec = (s.team k).vec ∧ (t.team k).q = (s.team k).q
  queue  : (h.start + 1 = h.gl → (t.team tk).q.viq = rest) ∧
    (h.start + 1 < h.gl → ∃ e, (t.team tk).q.viq = e :: rest ∧ e.no = h.no ∧ e.op = h.op ∧ e.start = h.start + 1 ∧ e.fault = h.fault)
  scalar : (t.team tk).regs = (s.team tk).regs ∧ (t.team tk).hregs = (s.team tk).hregs ∧ (t.team tk).pc = (s.team tk).pc ∧
    (t.team tk).ctl = { (s.team tk).ctl with fflags := (t.team tk).ctl.fflags }
  vec    : (t.team tk).vec = { (s.team tk).vec with v := (t.team tk).vec.v, k := (t.team tk).vec.k }
  regs   : ∀ r, r ≠ d → r ≠ d2 → (t.team tk).vec.reg r = (s.team tk).vec.reg r
  elems  : ∀ i, i ≠ h.start → elem h.w ((t.team tk).vec.reg d) i = elem h.w ((s.team tk).vec.reg d) i

/-- An M syllable `o` at the head of its slot's matrix queue whose next step can be made (R275, R277, R283, R295). -/
structure ReadyM (s : State) (tk : Nat) (e : QEntry) (rest : List QEntry) (o : MOp) : Prop where
  slot   : tk < 640
  runs   : (s.team tk).runs = true
  head   : (s.team tk).q.mq = e :: rest
  op'    : e.op = .m o
  only   : ∀ x ∈ rest, x.no ≠ e.no
  older  : (s.team tk).faultBefore e.no = false
  free   : (s.team tk).mWaits e = false
  rels   : mopFills o = true → (s.team tk).relWaits e.no = false
  turn   : mServe s tk = true
  more   : e.start < mopSteps o e
  sound  : e.idx = 0 → mopFault (s.team tk).lmSize o e (s.team tk).vec (s.team tk).bind.tidx = none
  words  : mVecPoison s tk o e = false
  clean  : mStepPoison s tk o e = none
  place  : (∀ x y z, o ≠ .sum x y z) → (Tile.of e.x).col0 + (Tile.of e.x).n ≤ 256
  order  : rising (s.team tk).vec.acc = true
  stored : s.ms.ok = true

/-- One more step of the matrix queue's head e has been made: its restart point is one on, or e is complete and gone; of the vector
state only the accumulators differ. -/
structure SteppedM (s : State) (tk : Nat) (e : QEntry) (rest : List QEntry) (o : MOp) (t : State) : Prop where
  queue : (t.team tk).q.viq = (s.team tk).q.viq ∧ (t.team tk).q.cq0 = (s.team tk).q.cq0 ∧ (t.team tk).q.cq1 = (s.team tk).q.cq1
  mq    : ∃ fl, (t.team tk).q.mq = if e.start + 1 < mopSteps o e then { e with start := e.start + 1, idx := 1, fl := fl } :: rest else rest
  vec   : (t.team tk).vec = { (s.team tk).vec with acc := (t.team tk).vec.acc }
  regs  : (t.team tk).regs = (s.team tk).regs ∧ (t.team tk).hregs = (s.team tk).hregs ∧ (t.team tk).pc = (s.team tk).pc

/-- Only local memory, its full/empty bits and what caches a core differ between two states of storage. -/
def OnlyLm (a b : MemSys) : Prop := b = { a with lm := b.lm, fe := b.fe, cores := b.cores }

/-! ### Near-memory units (R314 to R322) -/

/-- Command c, of opcode op, is what a near-memory unit runs for job j: its share u of the job has elements left, the next of them on
this unit's stack. -/
structure RunsNm (s : State) (op : Nat) (c : NmCmd) (i : Instr) (j : NmJob) (u : NmShare) : Prop where
  instr : nmInstr op c = some i
  job   : s.job? s.cur.j = some j
  sound : j.malformed = false ∧ j.preStatus = 0
  share : j.shares.find? (fun x => decide (x.stack = s.cur.stack) || !j.all) = some u
  live  : u.status = 0 ∧ u.next < c.count.toNat
  here  : nmStack s j (nmAddr c (nmOwner op) u.next) = s.cur.stack

/-- The jobs with the unit's share u of job j moved on to element n, with a status, `fl` and `sum` being the job's flags and sum so far. -/
def movedJobs (s : State) (j : NmJob) (u : NmShare) (n st : Nat) (fl : Flags) (sum : Terms) : List NmJob :=
  let j' := { j with
    shares := j.shares.map (fun y => if y.stack = u.stack then { stack := s.cur.stack, next := n, status := st } else y)
    flags := fl, count := j.count + (n - u.next), sum := sum }
  s.jobs.map (fun x => if x.id = j.id then j' else x)

/-! ### Engine commands -/

/-- Entry e heads an engine's queue in a slot that runs, with nothing older at fault. -/
structure HeadC (s : State) (tk eng : Nat) (e : QEntry) (rest : List QEntry) (o : COp) : Prop where
  slot  : tk < 640 ∧ eng < 2
  runs  : (s.team tk).runs = true
  head  : (s.team tk).cq eng = e :: rest
  op'   : e.op = .c o
  only  : ∀ x ∈ rest, x.no ≠ e.no
  sound : (s.team tk).faultBefore e.no = false ∧ e.fault = none

/-! ### Team start (R34) -/

/-- What register r of a team holds at its first bundle. -/
def startReg (b : BindRec) (r : Nat) : Word :=
  match r with
  | 9 => BitVec.ofNat 64 b.gidx
  | 10 => BitVec.ofNat 64 b.gcnt
  | 11 => BitVec.ofNat 64 b.tidx
  | 12 => BitVec.ofNat 64 b.gsz
  | 13 | 30 => BitVec.ofNat 64 (b.lmu * 65536)
  | 14 => b.seq
  | 29 => b.ltb
  | n => if 1 ≤ n ∧ n ≤ 8 then b.args.getD (n - 1) 0#64 else 0#64

/-! ### A step and what it runs -/

/-- The next turn is slot tk's, and its next bundle is one syllable w at the team's PC that decodes to i, passes every check and is not
held before it executes; `s'` is the state once it is fetched, `r` the turns after. -/
structure RunsSyl (s s' : State) (tk : Nat) (r : List Turn) (w : BitVec 32) (i : Instr) : Prop where
  agenda  : s.agenda = .bundle tk :: r
  power   : s.power = .ready
  slot    : tk < 640
  running : (s.team tk).status = .running
  sound   : ∀ e ∈ (s.team tk).q.all, e.fault = none
  due     : (s.team tk).level = .a → (s.team tk).deferred = none
  fetch   : fetchSyl (({ s with agenda := r } : State).setTeam tk { s.team tk with sched := schedAt s tk (s.team tk).pc }) tk (s.team tk).pc =
    (s', .ok w)
  last    : sylP w = false
  instr   : decodeSyl w = .ok i
  breaks  : (s.team tk).level = .h ∨ (s.team tk).afterTret = true ∨ (s.team tk).ctl.bkp = []
  matrix  : (s.team tk).level = .h → sylClass w ≠ 2#2
  results : fifthResult (s'.team tk) i = false
  legal   : checkSyl s' tk [{ at' := (s.team tk).pc, w := w }] { at' := (s.team tk).pc, w := w } i = .ok i
  free    : bundleWaits s' tk [{ at' := (s.team tk).pc, w := w }] [({ at' := (s.team tk).pc, w := w }, i)] = false

/-- The next turn is slot tk's, whose team runs with no trap to take before its next bundle. -/
structure AtBundle (s : State) (tk : Nat) (r : List Turn) : Prop where
  agenda  : s.agenda = .bundle tk :: r
  power   : s.power = .ready
  slot    : tk < 640
  running : (s.team tk).status = .running
  sound   : ∀ e ∈ (s.team tk).q.all, e.fault = none
  due     : (s.team tk).level = .a → (s.team tk).deferred = none

/-- The state in which slot tk's next bundle is fetched: the team in the form its code has. -/
def State.atFetch (s : State) (tk : Nat) (r : List Turn) : State :=
  ({ s with agenda := r } : State).setTeam tk { s.team tk with sched := schedAt s tk (s.team tk).pc }

/-- Fetching the syllables l one after another from address a leads from s to t. -/
inductive Fetches (tk : Nat) : State → Word → List Syl → State → Prop where
  | done (s : State) (a : Word) : Fetches tk s a [] s
  | more {s s' t : State} {a : Word} {w : BitVec 32} {l : List Syl} : fetchSyl s tk a = (s', .ok w) → Fetches tk s' (a + 4#64) l t →
    Fetches tk s a ({ at' := a, w := w } :: l) t

/-- Syllables after which a bundle goes on (R77, R80): classes rise and every P bit is 1; in serial form there are none. -/
def opens (sched : Bool) (l : List Syl) : Prop :=
  l.Pairwise (fun x y => x.cls < y.cls) ∧ (∀ x ∈ l, sylP x.w = true) ∧ (sched = true ∨ l = [])

/-- A bundle of the form R77 asks for. -/
def wholeBundle (sched : Bool) (l : List Syl) : Prop :=
  ∃ p x, l = p ++ [x] ∧ opens sched p ∧ (∀ y ∈ p, y.cls < x.cls) ∧ sylP x.w = false

/-- A bundle up to its syllable x, the first to break the form of R77. -/
def brokenBundle (sched : Bool) (l : List Syl) (x : Syl) : Prop :=
  ∃ p, l = p ++ [x] ∧ opens sched p ∧ ((∃ y, p.getLast? = some y ∧ x.cls ≤ y.cls) ∨ (sched = false ∧ sylP x.w = true))

/-- An enabled BKPn names a syllable's address (R170). -/
def bkpNames (c : Ctl) (x : Syl) : Prop := ∃ b ∈ c.bkp, b.2.getLsbD 0 = true ∧ b.2.extractLsb' 2 55 = x.at'.extractLsb' 2 55

/-- No syllable of a list meets a breakpoint: none is named, or the team is at H-level or right after a `tret` (R163, R170). -/
def noBreak (t : Team) (l : List Syl) : Prop := t.level = .h ∨ t.afterTret = true ∨ ∀ x ∈ l, ¬bkpNames t.ctl x

/-- Executing the instructions of a list one after another, none of them held or trapping, leads from s to t. -/
inductive Execs : List (Syl × Instr) → State → State → Prop where
  | done (s : State) : Execs [] s s
  | more {x : Syl} {i : Instr} {l : List (Syl × Instr)} {s s' t : State} : exec i { s with cur := { s.cur with word := x.w } } = .next s' →
    s'.cur.st = .running → Execs l s' t → Execs ((x, i) :: l) s t

/-- Slot tk's next bundle is the syllables l, which decode to the instructions of `is`, pass every check and are not held before they
execute; `s'` is the state once they are fetched. No syllable of it has been issued, and it is no `tret` with others (R163). -/
structure RunsBundle (s s' : State) (tk : Nat) (r : List Turn) (l : List Syl) (is : List (Syl × Instr)) : Prop extends AtBundle s tk r where
  fetch   : Fetches tk (s.atFetch tk r) (s.team tk).pc l s'
  form    : wholeBundle (schedAt s tk (s.team tk).pc) l
  breaks  : noBreak (s.team tk) l
  matrix  : (s.team tk).level = .h → ∀ x ∈ l, x.cls ≠ 2
  syls    : is.map Prod.fst = l
  legal   : ∀ x ∈ is, decodeSyl x.1.w = .ok x.2 ∧ fifthResult (s'.team tk) x.2 = false ∧ checkSyl s' tk l x.1 x.2 = .ok x.2
  free    : bundleWaits s' tk l is = false
  fresh   : (s.team tk).issued = false
  single  : (s.team tk).level = .h → is.length = 1 ∨ ∀ x ∈ is, x.2 ≠ .tret

/-- The next turn is stream slot k's, whose next T-op has header w and operand words `ops`, and decodes to i. -/
structure RunsTop (s s1 s2 : State) (k : Nat) (r : List Turn) (w : Word) (ops : List Word) (i : Instr) : Prop where
  agenda  : s.agenda = .top k :: r
  power   : s.power = .ready
  slot    : k < 32
  decodes : (s.stream k).decodes (s.part (s.stream k).part) = true
  room    : (s.stream k).window.length < 64
  header  : streamRead { s with agenda := r } k (s.stream k).spc = (s1, .ok w)
  short   : topOperands w ≤ 8
  words   : topWords s1 k (s.stream k).spc (topOperands w) = (s2, .ok ops)
  instr   : decodeTop w ops = .ok i

/-! ### What every step keeps -/

/-- A vector state's sparse registers, masks and accumulators in order. -/
def VecState.inOrder (v : VecState) : Prop := rising v.v = true ∧ rising v.k = true ∧ rising v.acc = true

/-- A team's registers and vector state, and the vector states its queue image and its handler's entry still see, in order. -/
def Team.inOrder (t : Team) : Prop :=
  t.ok ∧ t.vec.inOrder ∧ (∀ u ∈ t.under, u.vec.inOrder) ∧ (∀ x ∈ t.overs, x.2.inOrder) ∧
  ∀ c, t.entry = some c → c.vec.inOrder ∧ ∀ u ∈ c.under, u.vec.inOrder

/-- The module's data in order: storage in canonical form, sparse maps by rising keys, s0 and t0 listed nowhere, in the saved contexts
and the window's snapshots too. -/
structure State.InOrder (s : State) : Prop where
  stored  : s.ms.ok = true
  knots   : rising s.ms.knots = true
  teams   : rising s.teams = true
  streams : rising s.streams = true
  fills   : ∀ c, rising (s.cluster c).fills = true
  team    : ∀ tk, (s.team tk).inOrder
  stream  : ∀ k, bankOk (s.stream k).t = true ∧ ∀ e ∈ (s.stream k).window, bankOk e.snapT = true
  saved   : ∀ x ∈ s.saved, x.team.inOrder ∧ rising x.lm = true

end Sys2Proof.Machine
end

