-- ==== Sys2Proof/Certificates/Slice0/Obligations.lean ====
section
/-! DEFINITION. The statements: what the rules of the spec say the instructions and the machine do. -/

open Sys2Proof Sys2Proof.Machine

/-! ### Scalar arithmetic and control flow (R132 to R137, R149) -/

/-- R132: Every function of the ALU group, read from OP 0x00 with its fn, its result at latency 1 and nothing else changed; the
unary forms require sb = 0. -/
def Obligations.AluGroup : Prop :=
  (∀ (s : State) (d a b : Reg), s.bankFine →
    let x := s.rd a
    let y := s.rd b
    let sh := y.toNat % 64
    Gives (.add d a b) s s 1 d (BitVec.ofNat 64 (x.toNat + y.toNat)) ∧
    Gives (.sub d a b) s s 1 d (BitVec.ofInt 64 (x.toInt - y.toInt)) ∧
    Gives (.and d a b) s s 1 d (x &&& y) ∧
    Gives (.or d a b) s s 1 d (x ||| y) ∧
    Gives (.xor d a b) s s 1 d (x ^^^ y) ∧
    Gives (.sll d a b) s s 1 d (BitVec.ofNat 64 (x.toNat * 2 ^ sh)) ∧
    Gives (.srl d a b) s s 1 d (BitVec.ofNat 64 (x.toNat / 2 ^ sh)) ∧
    Gives (.sra d a b) s s 1 d (BitVec.ofInt 64 (x.toInt / (2 ^ sh : Nat))) ∧
    Gives (.slt d a b) s s 1 d (if x.toInt < y.toInt then 1#64 else 0#64) ∧
    Gives (.sltu d a b) s s 1 d (if x.toNat < y.toNat then 1#64 else 0#64) ∧
    Gives (.min d a b) s s 1 d (BitVec.ofInt 64 (min x.toInt y.toInt)) ∧
    Gives (.max d a b) s s 1 d (BitVec.ofInt 64 (max x.toInt y.toInt)) ∧
    Gives (.minu d a b) s s 1 d (BitVec.ofNat 64 (min x.toNat y.toNat)) ∧
    Gives (.maxu d a b) s s 1 d (BitVec.ofNat 64 (max x.toNat y.toNat)) ∧
    Gives (.andn d a b) s s 1 d (x &&& ~~~y) ∧
    Gives (.orn d a b) s s 1 d (x ||| ~~~y) ∧
    Gives (.rol d a b) s s 1 d (BitVec.ofNat 64 (x.toNat * 2 ^ sh + x.toNat / 2 ^ (64 - sh))) ∧
    Gives (.ror d a b) s s 1 d (BitVec.ofNat 64 (x.toNat / 2 ^ sh + x.toNat * 2 ^ (64 - sh)))) ∧
  (∀ (s : State) (d a : Reg), s.bankFine →
    let x := s.rd a
    (∃ n, Gives (.clz d a) s s 1 d (BitVec.ofNat 64 n) ∧ n ≤ 64 ∧ (∀ i, i < n → x.getMsbD i = false) ∧
      (n < 64 → x.getMsbD n = true)) ∧
    (∃ n, Gives (.ctz d a) s s 1 d (BitVec.ofNat 64 n) ∧ n ≤ 64 ∧ (∀ i, i < n → x.getLsbD i = false) ∧
      (n < 64 → x.getLsbD n = true)) ∧
    Gives (.popc d a) s s 1 d (BitVec.ofNat 64 ((List.range 64).countP (fun i => x.getLsbD i))) ∧
    Gives (.sextB d a) s s 1 d (BitVec.ofInt 64 (x.extractLsb' 0 8).toInt) ∧
    Gives (.sextH d a) s s 1 d (BitVec.ofInt 64 (x.extractLsb' 0 16).toInt) ∧
    Gives (.sextW d a) s s 1 d (BitVec.ofInt 64 (x.extractLsb' 0 32).toInt) ∧
    Gives (.zextB d a) s s 1 d (BitVec.ofNat 64 (x.toNat % 2 ^ 8)) ∧
    Gives (.zextH d a) s s 1 d (BitVec.ofNat 64 (x.toNat % 2 ^ 16)) ∧
    Gives (.zextW d a) s s 1 d (BitVec.ofNat 64 (x.toNat % 2 ^ 32))) ∧
  (∀ d a b : Reg,
    let reads := fun (fn : BitVec 8) (b : Reg) (i : Instr) =>
      decodeFields { cls := 0#2, op := 0x00#6, d := d, a := a, b := b, lo := fn } = .ok i
    reads 0#8 b (.add d a b) ∧
    reads 1#8 b (.sub d a b) ∧
    reads 2#8 b (.and d a b) ∧
    reads 3#8 b (.or d a b) ∧
    reads 4#8 b (.xor d a b) ∧
    reads 5#8 b (.sll d a b) ∧
    reads 6#8 b (.srl d a b) ∧
    reads 7#8 b (.sra d a b) ∧
    reads 8#8 b (.slt d a b) ∧
    reads 9#8 b (.sltu d a b) ∧
    reads 10#8 b (.min d a b) ∧
    reads 11#8 b (.max d a b) ∧
    reads 12#8 b (.minu d a b) ∧
    reads 13#8 b (.maxu d a b) ∧
    reads 14#8 0#5 (.clz d a) ∧
    reads 15#8 0#5 (.ctz d a) ∧
    reads 16#8 0#5 (.popc d a) ∧
    reads 17#8 0#5 (.sextB d a) ∧
    reads 18#8 0#5 (.sextH d a) ∧
    reads 19#8 0#5 (.sextW d a) ∧
    reads 20#8 0#5 (.zextB d a) ∧
    reads 21#8 0#5 (.zextH d a) ∧
    reads 22#8 0#5 (.zextW d a) ∧
    reads 23#8 b (.andn d a b) ∧
    reads 24#8 b (.orn d a b) ∧
    reads 25#8 b (.rol d a b) ∧
    reads 26#8 b (.ror d a b)) ∧
  (∀ f : Fields, f.cls = 0#2 → f.op = 0#6 → 14 ≤ f.lo.toNat → f.lo.toNat ≤ 22 → f.b ≠ 0#5 →
    ∃ e, decodeFields f = .error e)

/-- R133: The products and quotients of the MUL group, read from OP 0x01 with its fn, with every borderline result, at the latency
R81 gives them; none of them traps, and no flag changes. -/
def Obligations.MulGroup : Prop :=
  (∀ (s : State) (d a b : Reg), s.bankFine →
    let x := s.rd a
    let y := s.rd b
    let most := BitVec.intMin 64
    Gives (.mul d a b) s s 3 d (BitVec.ofNat 64 (x.toNat * y.toNat)) ∧
    Gives (.mulh d a b) s s 3 d (BitVec.ofInt 64 (x.toInt * y.toInt / (2 ^ 64 : Nat))) ∧
    Gives (.mulhu d a b) s s 3 d (BitVec.ofNat 64 (x.toNat * y.toNat / 2 ^ 64)) ∧
    Gives (.mulhsu d a b) s s 3 d (BitVec.ofInt 64 (x.toInt * y.toNat / (2 ^ 64 : Nat))) ∧
    (y = 0#64 → Gives (.div d a b) s s 12 d (BitVec.ofInt 64 (-1)) ∧ Gives (.divu d a b) s s 12 d (BitVec.allOnes 64) ∧
      Gives (.rem d a b) s s 12 d x ∧ Gives (.remu d a b) s s 12 d x) ∧
    (x = most → y = BitVec.ofInt 64 (-1) → Gives (.div d a b) s s 12 d most ∧ Gives (.rem d a b) s s 12 d 0#64) ∧
    (y ≠ 0#64 → ∃ q r : Int, Gives (.div d a b) s s 12 d (BitVec.ofInt 64 q) ∧ Gives (.rem d a b) s s 12 d (BitVec.ofInt 64 r) ∧
      x.toInt = q * y.toInt + r ∧ r.natAbs < y.toInt.natAbs ∧ (0 ≤ x.toInt → 0 ≤ r) ∧ (x.toInt ≤ 0 → r ≤ 0)) ∧
    (y ≠ 0#64 → ∃ q r : Nat, Gives (.divu d a b) s s 12 d (BitVec.ofNat 64 q) ∧ Gives (.remu d a b) s s 12 d (BitVec.ofNat 64 r) ∧
      x.toNat = q * y.toNat + r ∧ r < y.toNat)) ∧
  ∀ d a b : Reg,
    let reads := fun (fn : BitVec 8) (i : Instr) =>
      decodeFields { cls := 0#2, op := 0x01#6, d := d, a := a, b := b, lo := fn } = .ok i
    reads 0#8 (.mul d a b) ∧
    reads 1#8 (.mulh d a b) ∧
    reads 2#8 (.mulhu d a b) ∧
    reads 3#8 (.mulhsu d a b) ∧
    reads 4#8 (.div d a b) ∧
    reads 5#8 (.divu d a b) ∧
    reads 6#8 (.rem d a b) ∧
    reads 7#8 (.remu d a b)

/-- R134, R135, R149: The immediates, with imm sign-extended; the shifts by n; `lhi` and `lpc`, whose offset counts syllables from
the syllable's own address. All at latency 1. `addgl` gives sa + (GL << sh) at latency 1, with the grant as the bundle found it
(R78). -/
def Obligations.ImmediateForms : Prop :=
  (∀ (s : State) (d a : Reg) (i : BitVec 13) (n : BitVec 6) (j : BitVec 18), s.bankFine →
     let x := s.rd a
     let im := BitVec.ofInt 64 i.toInt
     Gives (.addi d a i) s s 1 d (BitVec.ofInt 64 (x.toInt + i.toInt)) ∧
     Gives (.andi d a i) s s 1 d (x &&& im) ∧
     Gives (.ori d a i) s s 1 d (x ||| im) ∧
     Gives (.xori d a i) s s 1 d (x ^^^ im) ∧
     Gives (.slti d a i) s s 1 d (if x.toInt < i.toInt then 1#64 else 0#64) ∧
     Gives (.sltiu d a i) s s 1 d (if x.toNat < im.toNat then 1#64 else 0#64) ∧
     Gives (.slli d a n) s s 1 d (BitVec.ofNat 64 (x.toNat * 2 ^ n.toNat)) ∧
     Gives (.srli d a n) s s 1 d (BitVec.ofNat 64 (x.toNat / 2 ^ n.toNat)) ∧
     Gives (.srai d a n) s s 1 d (BitVec.ofInt 64 (x.toInt / (2 ^ n.toNat : Nat))) ∧
     Gives (.lhi d j) s s 1 d (BitVec.ofInt 64 (j.toInt * 8192)) ∧
     Gives (.lpc d j) s s 1 d (s.cur.addr + BitVec.ofInt 64 (j.toInt * 4))) ∧
  (∀ (s : State) (d a : Reg) (h : BitVec 6), s.bankFine →
     Gives (.addgl d a h) s s 1 d (BitVec.ofNat 64 ((s.rd a).toNat + s.cur.ctl.gl.toNat * 2 ^ h.toNat)))

/-- R136, R137: A branch whose condition holds continues at A + offset × 4 once its bundle has committed (R78); one whose condition
fails changes nothing at all. `jal` and `jalr` leave the address after the bundle's last syllable in sd and continue at their
target, which `jalr` computes from sa before it writes sd, with the low two bits cleared. -/
def Obligations.BranchesAndJumps : Prop :=
  (∀ (s : State) (a b : Reg) (o : BitVec 13),
     let x := s.rd a
     let y := s.rd b
     let dest := s.cur.addr + BitVec.ofInt 64 (o.toInt * 4)
     (if x = y then GoesTo (.beq a b o) s dest else exec (.beq a b o) s = .next s) ∧
     (if x ≠ y then GoesTo (.bne a b o) s dest else exec (.bne a b o) s = .next s) ∧
     (if x.toInt < y.toInt then GoesTo (.blt a b o) s dest else exec (.blt a b o) s = .next s) ∧
     (if y.toInt ≤ x.toInt then GoesTo (.bge a b o) s dest else exec (.bge a b o) s = .next s) ∧
     (if x.toNat < y.toNat then GoesTo (.bltu a b o) s dest else exec (.bltu a b o) s = .next s) ∧
     (if y.toNat ≤ x.toNat then GoesTo (.bgeu a b o) s dest else exec (.bgeu a b o) s = .next s)) ∧
  (∀ (s : State) (d a : Reg) (o : BitVec 18) (i : BitVec 13), s.bankFine →
     Gives (.jal d o) s { s with cur := { s.cur with npc := s.cur.addr + BitVec.ofInt 64 (o.toInt * 4) } } 1 d s.cur.link ∧
     Gives (.jalr d a i) s
       { s with cur := { s.cur with npc := BitVec.ofNat 64 ((s.rd a + BitVec.ofInt 64 (i.toInt * 4)).toNat / 4 * 4) } } 1 d s.cur.link)

/-! ### Traps (R138, R152 to R165) -/

/-- R153, R156, R131, R152, R154: Taking a bundle trap at A-level, on any slot and from any state: the trap registers, the queue
image, the handler's bank, level and PC, as one step; the other slots and everything else stay. A queued trap comes before the
bundle at its boundary, the oldest syllable's first, and waits until every older syllable of the team has completed; taken at
A-level it leaves QP, the class of its syllable, TVPC at that syllable's bundle, its restart point in ES, MK or CP, TPC at the
first bundle that has not committed, and the image without its fault alone; at H-level it is escalated. With none, a deferred
SYSCALL or BREAKPOINT is taken before any bundle commits. -/
def Obligations.TrapEntry : Prop :=
  (∀ (s : State) (tk : Nat) (i : TrapInfo) (cls : Machine.Class) (tpc : Word), (s.team tk).level = .a →
     TrapTaken (s.team tk) i cls tpc ((s.bundleTrap tk i cls tpc).team tk) ∧
     (∀ k, k ≠ tk → (s.bundleTrap tk i cls tpc).team k = s.team k) ∧
     s.bundleTrap tk i cls tpc = { s with teams := (s.bundleTrap tk i cls tpc).teams, ms := s.ms.setLinks tk [] }) ∧
  (∀ (s : State) (tk : Nat) (r : List Turn), s.agenda = .bundle tk :: r → s.power = .ready → tk < 640 → (s.team tk).status = .running →
     let u := s.team tk
     (∀ (e : QEntry) (i : TrapInfo), e ∈ u.q.all → e.fault = some i → (∀ x ∈ u.q.all, x.fault ≠ none → x = e ∨ e.no < x.no) →
       let older := (∀ x ∈ u.q.mq ++ u.q.cq0 ++ u.q.cq1, e.no ≤ x.no) ∧ ((∀ o, e.op ≠ .v o) → ∀ x ∈ u.q.viq, e.no ≤ x.no)
       (¬older → step s = .next (({ s with agenda := r } : State).setTeam tk { u with held := true })) ∧
       (older → ∃ t, step s = .next t ∧ t = { s with agenda := r, teams := t.teams, ms := s.ms.setLinks tk [] } ∧
         (∀ k, k ≠ tk → t.team k = s.team k) ∧
         (u.level = .a → TookTrap u i (qopCls e.op) (some e) u.pc (t.team tk)) ∧
         (u.level = .h → t.team tk = { u with
           status := .escalating
           esc := some { info := i, hpc := u.pc, cls := qopCls e.op, qp := true, tvpc := e.addr, ended := false } }))) ∧
     (∀ i : TrapInfo, (∀ e ∈ u.q.all, e.fault = none) → u.level = .a → u.deferred = some i →
       ∃ t, step s = .next t ∧ t = { s with agenda := r, teams := t.teams, ms := s.ms.setLinks tk [] } ∧
         (∀ k, k ≠ tk → t.team k = s.team k) ∧ TrapTaken { u with deferred := none } i .s u.pc (t.team tk)))

/-- R84, R159, R160: Results in flight captured into the landing slots and armed again from them are in flight as before, in order,
with their registers, values and counts: a trap and its return lose none of them but those for s0, which take no slot. -/
def Obligations.LandingRoundTrip : Prop :=
  ∀ t : Team, t.flights.length ≤ 4 → (∀ f ∈ t.flights, f.load = none ∧ 1 ≤ f.left ∧ f.left ≤ 11) →
    t.capture.rearm.flights = t.flights.filter (fun f => decide (f.reg ≠ 0#5)) ∧ t.capture.rearm.regs = t.regs ∧ t.capture.rearm.hregs = t.hregs ∧ t.capture.flights = []

/-- R138, R161, R162, R154: `nop` has no effect. `trap.sys` and `trap.brk` commit with their bundle and then trap with the syllable
word, at H-level `trap.brk` escalating; a listed `trap.sys` at H-level posts the call and halts the slot; an unlisted one gives
all ones in s1 and does nothing else. When a bundle that raised a trap commits with no queued trap at its boundary, the team
takes it at A-level with TPC at the bundle that follows; at H-level it is escalated. -/
def Obligations.TrapSyllables : Prop :=
  (∀ (s : State) (c : BitVec 12),
     let w := s.cur.word.setWidth 64
     exec .nop s = .next s ∧
     (s.curTeam.level = .a → exec (.trapSys c) s =
       .next { s with cur := { s.cur with raise := some { cause := .syscall, tval := w } } }) ∧
     exec (.trapBrk c) s = .next { s with cur := { s.cur with raise := some { cause := .breakpoint, tval := w } } } ∧
     (s.curTeam.level = .h → 1 ≤ c.toNat → c.toNat ≤ 3 → ∃ t, exec (.trapSys c) s = .next t ∧
       t.curTeam = { s.curTeam with status := .forwarded, call := some c.toNat } ∧ (∀ k, k ≠ s.cur.tk → t.team k = s.team k) ∧
       t = { s with teams := t.teams, syscalls := s.syscalls ++ [{ caller := .team s.cur.tk, num := c.toNat }] }) ∧
     (s.curTeam.level = .h → c.toNat = 0 ∨ 3 < c.toNat → s.bankFine → ∃ t, exec (.trapSys c) s = .next t ∧
       OnlyTeam s.cur.tk s t ∧ OnlyRegs s.curTeam t.curTeam ∧ t.curTeam.flights = s.curTeam.flights ∧
       t.curTeam.reg 1#5 = BitVec.allOnes 64 ∧ ∀ r, r ≠ 1#5 → t.curTeam.reg r = s.curTeam.reg r)) ∧
  (∀ (s : State) (i : TrapInfo), s.cur.raise = some i → s.cur.cuts = [] → s.cur.ret = false →
     (∀ e ∈ s.curTeam.q.all, e.fault = none) →
     let x : Team := { ({ s.curTeam with bno := s.curTeam.bno + 1, held := false, issued := false } : Team).tick with
       pc := s.cur.npc, afterTret := false }
     (s.curTeam.level = .a → TrapTaken x i .s s.cur.npc ((commitBundle s s.cur.tk).team s.cur.tk)) ∧
     (s.curTeam.level = .h → (commitBundle s s.cur.tk).team s.cur.tk =
       { x with status := .escalating, esc := some { info := i, hpc := s.cur.npc, cls := .s, qp := false, tvpc := 0#64, ended := false } }))

/-- R163: `tret` raises ILLEGAL at A-level with the syllable word. At H-level it holds while a syllable issued there is queued; then
the team's s1 to s8 are the handler's, its other registers stay, the saved queue image is back with no fault in it, ES, MK and
CP are 0, and it runs at A-level from TPC, its first bundle unchecked against the breakpoints. What the image's syllables see of
the vector state above a cut taken at H-level (R206) is the model's choice: log 85. -/
def Obligations.TrapReturn : Prop :=
  ∀ s : State,
    (s.curTeam.level = .a → ∃ t, exec .tret s = .next t ∧ TrapsS s .illegal (s.cur.word.setWidth 64) t) ∧
    (s.curTeam.level = .h → s.curTeam.q.isEmpty = false → Holds .tret s) ∧
    (s.curTeam.level = .h → s.curTeam.q.isEmpty = true → rising s.curTeam.regs = true → ∃ t, exec .tret s = .next t ∧
      OnlyTeam s.cur.tk { s with cur := { s.cur with npc := s.curTeam.ctl.tpc, ret := true } } t ∧
      t.curTeam.level = .a ∧ t.curTeam.pc = s.curTeam.ctl.tpc ∧ t.curTeam.afterTret = true ∧ t.curTeam.hregs = [] ∧
      t.curTeam.image = none ∧ t.curTeam.bind = s.curTeam.bind ∧ t.curTeam.status = s.curTeam.status ∧
      t.curTeam.ctl = { s.curTeam.ctl with es := 0#16, mkp := 0#16, cp := 0#64 } ∧
      (s.curTeam.under = [] → t.curTeam.vec = s.curTeam.vec) ∧
      (∀ u us, s.curTeam.under = u :: us → t.curTeam.vec = s.curTeam.vec.graft u.vec u.vbits u.kbits) ∧
      (∀ q, s.curTeam.image = some q → s.curTeam.ctl.tstatus.getLsbD 3 = false →
        (∃ l, t.curTeam.q.viq = q.viq.map QEntry.again ++ l ∧
          (s.curTeam.under = [] → l = []) ∧ ∀ e ∈ l, ∃ vb kb, e.op = .v (.trunc vb kb)) ∧
        t.curTeam.q.mq = q.mq.map QEntry.again ∧ t.curTeam.q.cq0 = q.cq0.map QEntry.again ∧
        t.curTeam.q.cq1 = q.cq1.map QEntry.again ∧ t.curTeam.q.frame = q.frame ∧ ∀ e ∈ t.curTeam.q.all, e.fault = none) ∧
      (slotFlights s.curTeam.ctl = [] → s.curTeam.saved = [] → t.curTeam.flights = [] ∧
        (∀ r : Reg, 1 ≤ r.toNat → r.toNat ≤ 8 → t.curTeam.reg r = look 0#64 s.curTeam.hregs r.toNat) ∧
        ∀ r : Reg, 8 < r.toNat → t.curTeam.reg r = look 0#64 s.curTeam.regs r.toNat))

/-- R58, R75, R164, R401, R165, R292, R312: `texit` raises PROTECTION at H-level; at A-level it holds while an older syllable is
queued, a release is to be performed or a peer has a write of the team to acknowledge, and traps with PAGE_STORE where a link
went down with one unacknowledged; else, every dirty line of its core having a home that answers, the dirty bytes of those lines
are at their homes, no other byte of memory has changed, and the team goes on to its end with nothing in flight. A `wfe` whose
event has come completes and changes nothing but the wait; until then it holds its bundle, waiting. `mwait` completes once no M
syllable of the slot is queued, `cwait` once no C syllable of its tag is; each changes nothing, and until then holds its bundle. -/
def Obligations.ExitAndWaits : Prop :=
  (∀ s : State,
     (s.curTeam.level = .h → ∃ t, exec .texit s = .next t ∧ TrapsS s .protection (s.cur.word.setWidth 64) t) ∧
     (s.curTeam.level = .a → (s.curTeam.q.isEmpty && s.curTeam.krels.isEmpty) = false → Holds .texit s) ∧
     (s.curTeam.level = .a → s.curTeam.q.isEmpty = true → s.curTeam.krels = [] →
       let mine := Unack.ofCore s.cur.tk
       (s.ms.ackWait mine = .waits → Holds .texit s) ∧
       (∀ a, s.ms.ackWait mine = .lost a → ∃ t, exec .texit s = .next t ∧
         TrapsS { s with ms := s.ms.dropUnacked (fun u => mine u && u.dead) } .pageStore (BitVec.ofNat 64 a) t) ∧
       (s.ms.ackWait mine = .done → s.ms.homesUp (coreOf s.cur.tk) → Memory.wf s.ms.mem → ∃ t, exec .texit s = .next t ∧
         t = { s with teams := t.teams, ms := t.ms } ∧ (∀ k, k ≠ s.cur.tk → t.team k = s.team k) ∧
         t.curTeam = { s.curTeam with status := .exiting, flights := [], saved := [] } ∧
         Published (coreOf s.cur.tk) (fun _ => true) s.ms t.ms ∧
         ∀ l ∈ (t.ms.core (coreOf s.cur.tk)).l1, l.dirty = 0#64))) ∧
  (∀ s : State,
     (s.curTeam.wake = some true → ∃ t, exec .wfe s = .next t ∧ OnlyTeam s.cur.tk s t ∧ t.curTeam = { s.curTeam with wake := none }) ∧
     (s.curTeam.wake ≠ some true → ∃ t, exec .wfe s = .next t ∧
       OnlyTeam s.cur.tk { s with cur := { s.cur with st := .held } } t ∧ t.curTeam = { s.curTeam with wake := some false })) ∧
  (∀ s : State,
     (if s.curTeam.q.mq = [] then exec .mwait s = .next s else Holds .mwait s) ∧
     ∀ g : BitVec 4, let busy := ∃ e ∈ s.curTeam.q.cq0 ++ s.curTeam.q.cq1, ∃ o : COp, e.op = .c o ∧ o.tag = g
       (busy → Holds (.cwait g) s) ∧ (¬busy → exec (.cwait g) s = .next s))

/-! ### The V, M and C syllables enter their queues (R20 to R22) -/

/-- R20, R22, R243: Every V syllable of integer and floating-point arithmetic, comparison, selection and conversion completes by
taking the last place of its slot's VIQ, with GL, VTYPE, the seed and the scalar operand as they stood before its bundle, and
changes nothing else. Every mask, polynomial, move and reduction syllable likewise. Every vector memory syllable, atomic and
codebook load likewise; `vrep` opens a frame for the syllables that follow it. -/
def Obligations.VectorIssue : Prop :=
  ((∀ (o : VSc), EntersV (.vadd o) (.int .add o) 0#5 0#5 (if o.s then o.b else 0#5)) ∧
   (∀ (o : VSc), EntersV (.vsub o) (.int .sub o) 0#5 0#5 (if o.s then o.b else 0#5)) ∧
   (∀ (o : VSc), EntersV (.vmul o) (.int .mul o) 0#5 0#5 (if o.s then o.b else 0#5)) ∧
   (∀ (o : VSc), EntersV (.vmulh o) (.int .mulh o) 0#5 0#5 (if o.s then o.b else 0#5)) ∧
   (∀ (o : VSc), EntersV (.vmulhU o) (.int .mulhU o) 0#5 0#5 (if o.s then o.b else 0#5)) ∧
   (∀ (o : VSc), EntersV (.vmin o) (.int .min o) 0#5 0#5 (if o.s then o.b else 0#5)) ∧
   (∀ (o : VSc), EntersV (.vminU o) (.int .minU o) 0#5 0#5 (if o.s then o.b else 0#5)) ∧
   (∀ (o : VSc), EntersV (.vmax o) (.int .max o) 0#5 0#5 (if o.s then o.b else 0#5)) ∧
   (∀ (o : VSc), EntersV (.vmaxU o) (.int .maxU o) 0#5 0#5 (if o.s then o.b else 0#5)) ∧
   (∀ (o : VSc), EntersV (.vand o) (.int .and o) 0#5 0#5 (if o.s then o.b else 0#5)) ∧
   (∀ (o : VSc), EntersV (.vor o) (.int .or o) 0#5 0#5 (if o.s then o.b else 0#5)) ∧
   (∀ (o : VSc), EntersV (.vxor o) (.int .xor o) 0#5 0#5 (if o.s then o.b else 0#5)) ∧
   (∀ (o : VSc), EntersV (.vsll o) (.int .sll o) 0#5 0#5 (if o.s then o.b else 0#5)) ∧
   (∀ (o : VSc), EntersV (.vsrl o) (.int .srl o) 0#5 0#5 (if o.s then o.b else 0#5)) ∧
   (∀ (o : VSc), EntersV (.vsra o) (.int .sra o) 0#5 0#5 (if o.s then o.b else 0#5)) ∧
   (∀ (o : VSc), EntersV (.vsadd o) (.int .sadd o) 0#5 0#5 (if o.s then o.b else 0#5)) ∧
   (∀ (o : VSc), EntersV (.vsaddU o) (.int .saddU o) 0#5 0#5 (if o.s then o.b else 0#5)) ∧
   (∀ (o : VSc), EntersV (.vssub o) (.int .ssub o) 0#5 0#5 (if o.s then o.b else 0#5)) ∧
   (∀ (o : VSc), EntersV (.vssubU o) (.int .ssubU o) 0#5 0#5 (if o.s then o.b else 0#5)) ∧
   (∀ (o : VSc), EntersV (.vcmpuLtu o) (.cmp .ltu o) 0#5 0#5 (if o.s then o.b else 0#5)) ∧
   (∀ (o : VSc), EntersV (.vcmpuGeu o) (.cmp .geu o) 0#5 0#5 (if o.s then o.b else 0#5)) ∧
   (∀ (o : VV), EntersV (.vcmpEq o) (.cmp .eq { d := o.d, a := o.a, b := o.b, x := o.x, y := o.y, m := o.m, s := false }) 0#5 0#5 0#5) ∧
   (∀ (o : VV), EntersV (.vcmpNe o) (.cmp .ne { d := o.d, a := o.a, b := o.b, x := o.x, y := o.y, m := o.m, s := false }) 0#5 0#5 0#5) ∧
   (∀ (o : VV), EntersV (.vcmpLt o) (.cmp .lt { d := o.d, a := o.a, b := o.b, x := o.x, y := o.y, m := o.m, s := false }) 0#5 0#5 0#5) ∧
   (∀ (o : VV), EntersV (.vcmpGe o) (.cmp .ge { d := o.d, a := o.a, b := o.b, x := o.x, y := o.y, m := o.m, s := false }) 0#5 0#5 0#5) ∧
   (∀ (o : VSc), EntersV (.vmerge o) (.merge o) 0#5 0#5 (if o.s then o.b else 0#5)) ∧
   (∀ (o : VSc), EntersV (.vfadd o) (.fp2 .add o) 0#5 0#5 (if o.s then o.b else 0#5)) ∧
   (∀ (o : VSc), EntersV (.vfsub o) (.fp2 .sub o) 0#5 0#5 (if o.s then o.b else 0#5)) ∧
   (∀ (o : VSc), EntersV (.vfmul o) (.fp2 .mul o) 0#5 0#5 (if o.s then o.b else 0#5)) ∧
   (∀ (o : VSc), EntersV (.vfdiv o) (.fp2 .div o) 0#5 0#5 (if o.s then o.b else 0#5)) ∧
   (∀ (o : VSc), EntersV (.vfmin o) (.fp2 .min o) 0#5 0#5 (if o.s then o.b else 0#5)) ∧
   (∀ (o : VSc), EntersV (.vfmax o) (.fp2 .max o) 0#5 0#5 (if o.s then o.b else 0#5)) ∧
   (∀ (o : VV), EntersV (.vfma o) (.fma false false o) 0#5 0#5 0#5) ∧
   (∀ (o : VV), EntersV (.vfmaFms o) (.fma false true o) 0#5 0#5 0#5) ∧
   (∀ (o : VV), EntersV (.vfmaFnma o) (.fma true true o) 0#5 0#5 0#5) ∧
   (∀ (o : VV), EntersV (.vfmaFnms o) (.fma true false o) 0#5 0#5 0#5) ∧
   (∀ (o : V1), EntersV (.vfsqrt o) (.fp1 .sqrt o) 0#5 0#5 0#5) ∧
   (∀ (o : V1), EntersV (.vfrcp o) (.fp1 .rcp o) 0#5 0#5 0#5) ∧
   (∀ (o : V1), EntersV (.vfrsq o) (.fp1 .rsq o) 0#5 0#5 0#5) ∧
   (∀ (o : V1), EntersV (.vfexp2 o) (.fp1 .exp2 o) 0#5 0#5 0#5) ∧
   (∀ (o : V1), EntersV (.vflog2 o) (.fp1 .log2 o) 0#5 0#5 0#5) ∧
   (∀ (o : VS), EntersV (.vfcvt o) (.cvt o) 0#5 0#5 0#5) ∧
   (∀ (o : V1), EntersV (.vfclass o) (.cls o) 0#5 0#5 0#5) ∧
   (∀ (o : VV), EntersV (.vfcmpEq o) (.cmp .feq { d := o.d, a := o.a, b := o.b, x := o.x, y := o.y, m := o.m, s := false }) 0#5 0#5 0#5) ∧
   (∀ (o : VV), EntersV (.vfcmpLt o) (.cmp .flt { d := o.d, a := o.a, b := o.b, x := o.x, y := o.y, m := o.m, s := false }) 0#5 0#5 0#5) ∧
   (∀ (o : VV), EntersV (.vfcmpLe o) (.cmp .fle { d := o.d, a := o.a, b := o.b, x := o.x, y := o.y, m := o.m, s := false }) 0#5 0#5 0#5) ∧
   (∀ (o : VV), EntersV (.vfcmpUnord o) (.cmp .funord { d := o.d, a := o.a, b := o.b, x := o.x, y := o.y, m := o.m, s := false }) 0#5 0#5 0#5)) ∧
  ((∀ (o : VK), EntersV (.kand o) (.kop .and o) 0#5 0#5 0#5) ∧
   (∀ (o : VK), EntersV (.kor o) (.kop .or o) 0#5 0#5 0#5) ∧
   (∀ (o : VK), EntersV (.kxor o) (.kop .xor o) 0#5 0#5 0#5) ∧
   (∀ (d : Reg) (a : Reg) (m : BitVec 4), EntersV (.kinv d a m) (.kop .inv { d := d, a := a, b := 0#5, m := m }) 0#5 0#5 0#5) ∧
   (∀ (d : Reg) (a : Reg), EntersV (.kcount d a) (.kq .count d a) 0#5 0#5 0#5) ∧
   (∀ (d : Reg) (a : Reg), EntersV (.kany d a) (.kq .any d a) 0#5 0#5 0#5) ∧
   (∀ (d : Reg) (a : Reg), EntersV (.kfirst d a) (.kq .first d a) 0#5 0#5 0#5) ∧
   (∀ (d : Reg), EntersV (.ppinit d) (.ppinit false d) 0#5 0#5 0#5) ∧
   (∀ (d : Reg), EntersV (.ppinitNorm d) (.ppinit true d) 0#5 0#5 0#5) ∧
   (∀ (o : VV), EntersV (.ppmul o) (.ppmul false o) 0#5 0#5 0#5) ∧
   (∀ (o : V1), EntersV (.ppmulPb o) (.ppmul true { d := o.d, a := o.a, b := 0#5, x := o.x, y := false, m := o.m }) 0#5 0#5 0#5) ∧
   (∀ (d : Reg) (a : Reg) (b : Reg), EntersV (.ppdiv d a b) (.ppdiv d) 0#5 a b) ∧
   (∀ (d : Reg) (a : Reg) (m : BitVec 4), EntersV (.ppmvToVector d a m) (.ppmvV d a m) 0#5 0#5 0#5) ∧
   (∀ (o : V1), EntersV (.ppmvToPoly o) (.ppmvP o.d o.a o.m) 0#5 0#5 0#5) ∧
   (∀ (o : VS), EntersV (.vslideUp o) (.slide true o) 0#5 0#5 o.b) ∧
   (∀ (o : VS), EntersV (.vslideDown o) (.slide false o) 0#5 0#5 o.b) ∧
   (∀ (o : VV), EntersV (.vgathR o) (.gath o) 0#5 0#5 0#5) ∧
   (∀ (o : VV), EntersV (.vscatR o) (.scat o) 0#5 0#5 0#5) ∧
   (∀ (o : V1), EntersV (.vcompress o) (.compress o) 0#5 0#5 0#5) ∧
   (∀ (o : V1), EntersV (.vexpand o) (.expand o) 0#5 0#5 0#5) ∧
   (∀ (d : Reg) (b : Reg) (m : BitVec 4), EntersV (.vbcast d b m) (.bcast d m) 0#5 0#5 b) ∧
   (∀ (d : Reg) (a : Reg) (b : Reg) (x : Bool), EntersV (.vext d a b x) (.ext d a) 0#5 0#5 b) ∧
   (∀ (o : VK), EntersV (.vins o) (.ins o.d o.m) 0#5 o.a o.b) ∧
   (∀ (d : Reg) (m : BitVec 4), EntersV (.vid d m) (.vid d m) 0#5 0#5 0#5) ∧
   (∀ (o : V1), EntersV (.vmv o) (.mv o) 0#5 0#5 0#5) ∧
   (∀ (o : V1), EntersV (.vredSum o) (.red .red .sum o) 0#5 0#5 0#5) ∧
   (∀ (o : V1), EntersV (.vredFsum o) (.red .red .fsum o) 0#5 0#5 0#5) ∧
   (∀ (o : V1), EntersV (.vredMax o) (.red .red .max o) 0#5 0#5 0#5) ∧
   (∀ (o : V1), EntersV (.vredMin o) (.red .red .min o) 0#5 0#5 0#5) ∧
   (∀ (o : V1), EntersV (.vfoldSum o) (.red .fold .sum o) 0#5 0#5 0#5) ∧
   (∀ (o : V1), EntersV (.vfoldFsum o) (.red .fold .fsum o) 0#5 0#5 0#5) ∧
   (∀ (o : V1), EntersV (.vfoldMax o) (.red .fold .max o) 0#5 0#5 0#5) ∧
   (∀ (o : V1), EntersV (.vfoldMin o) (.red .fold .min o) 0#5 0#5 0#5) ∧
   (∀ (o : V1), EntersV (.vscanSum o) (.red .scan .sum o) 0#5 0#5 0#5) ∧
   (∀ (o : V1), EntersV (.vscanFsum o) (.red .scan .fsum o) 0#5 0#5 0#5) ∧
   (∀ (o : V1), EntersV (.vscanMax o) (.red .scan .max o) 0#5 0#5 0#5) ∧
   (∀ (o : V1), EntersV (.vscanMin o) (.red .scan .min o) 0#5 0#5 0#5)) ∧
  ((∀ (o : VAm), EntersV (.vamoAdd o) (.mem (.amo .add o)) 0#5 o.a 0#5) ∧
   (∀ (o : VAm), EntersV (.vamoMin o) (.mem (.amo .min o)) 0#5 o.a 0#5) ∧
   (∀ (o : VAm), EntersV (.vamoMax o) (.mem (.amo .max o)) 0#5 o.a 0#5) ∧
   (∀ (o : VAm), EntersV (.vamoSwap o) (.mem (.amo .swap o)) 0#5 o.a 0#5) ∧
   (∀ (d : Reg) (a : Reg) (x : Bool), EntersV (.vtocb d a x) (.tocb d a) 0#5 0#5 0#5) ∧
   (∀ (o : VLd), EntersV (.vld o) (.mem (.load .strided o)) 0#5 o.a o.b) ∧
   (∀ (o : VSt), EntersV (.vst o) (.mem (.store .strided o)) 0#5 o.a o.b) ∧
   (∀ (o : VLd), EntersV (.vldx o) (.mem (.load .indexed o)) 0#5 o.a 0#5) ∧
   (∀ (o : VSt), EntersV (.vstx o) (.mem (.store .indexed o)) 0#5 o.a 0#5) ∧
   (∀ (o : VLd), EntersV (.tensorLoad o) (.mem (.load .tensor o)) 0#5 o.a 0#5) ∧
   (∀ (o : VSt), EntersV (.tensorStore o) (.mem (.store .tensor o)) 0#5 o.a 0#5) ∧
   (∀ (d : Reg) (a : Reg) (b : Reg) (o : Bool) (v : Bool) (m : BitVec 3), EntersV (.vgl d a b o v m) (.mem (.gl { d := d, a := a, b := b, o := o, c := 0#3, v := v, m := m })) 0#5 a 0#5) ∧
   (∀ (d : Reg) (a : Reg) (b : Reg) (y : Bool) (m : BitVec 3), EntersV (.vsc d a b y m) (.mem (.sc { d := d, a := a, b := b, y := y, c := 0#3, n := false, m := m })) 0#5 a 0#5) ∧
   (∀ (c : BitVec 4) (a : Reg) (n : BitVec 5) (s : State), ∃ t, exec (.vrep c a n) s = .next t ∧
     TakesV s (.rep (c.toNat + 1) n.toNat ((regOf s.cur.regs a).toNat % 65536)) 0#5 0#5 a
       (some { head := s.curTeam.nextNo, left := c.toNat + 1 }) t))

/-- R20, R22, R88, R298: Every M syllable completes by taking the last place of its slot's matrix queue with what it captures, the
scaled formats of `mma` with two scale addresses as well, and changes nothing else. Every C syllable completes by taking the
last place of the copy queue its tag selects. -/
def Obligations.MatrixAndCopyIssue : Prop :=
  ((∀ o : MF, EntersM (.mma o) (.mma false o) o.t o.a o.b (mfScaled o.f)) ∧
   (∀ o : MF, EntersM (.mmaG o) (.mma true o) o.t o.a o.b (mfScaled o.f)) ∧
   (∀ t : Reg, EntersM (.mzero t) .zero t 0#5 0#5 false) ∧
   (∀ t a : Reg, EntersM (.mld t a) .ld t a 0#5 false) ∧
   (∀ t a : Reg, EntersM (.mst t a) .st t a 0#5 false) ∧
   (∀ (t d : Reg) (c : Bool), EntersM (.mdrainF32 t d c) (.drain 0 0#5 c) t d 0#5 false) ∧
   (∀ (t d : Reg) (c : Bool), EntersM (.mdrainBf16 t d c) (.drain 1 0#5 c) t d 0#5 false) ∧
   (∀ (t d q : Reg) (c : Bool), EntersM (.mdrainI8 t d q c) (.drain 2 q c) t d 0#5 false) ∧
   (∀ (t a : Reg) (f x : Bool), EntersM (.maddRow t a f x) (.add false f x) t a 0#5 false) ∧
   (∀ (t a : Reg) (f x : Bool), EntersM (.maddCol t a f x) (.add true f x) t a 0#5 false) ∧
   (∀ (t a b : Reg) (f u x : Bool), EntersM (.msum t a b f u x) (.sum f u x) t a b false)) ∧
  ((∀ o : CF, EntersC (.cpy o) { kind := .cpy, d := o.d, a := o.a, sync := o.y, scope := o.e, tag := o.g } o.d o.a o.l) ∧
   (∀ o : CF, EntersC (.cpyt o) { kind := .cpyt, d := o.d, a := o.a, sync := o.y, scope := o.e, tag := o.g } 0#5 0#5 o.l) ∧
   (∀ o : CF, EntersC (.cfill o) { kind := .cfill, d := o.d, a := o.a, sync := o.y, scope := o.e, tag := o.g } o.d o.a o.l) ∧
   (∀ o : CF, EntersC (.cgath o) { kind := .cgath, d := o.d, a := o.a, sync := o.y, scope := o.e, tag := o.g } o.d o.a o.l) ∧
   (∀ (d a : Reg) (y e : BitVec 2) (g : BitVec 4),
     EntersC (.cnm d a y e g) { kind := .cnm, d := d, a := a, sync := y, scope := e, tag := g } d a 0#5) ∧
   (∀ (d a : Reg) (y e : BitVec 2) (g : BitVec 4),
     EntersC (.cnmAll d a y e g) { kind := .cnmAll, d := d, a := a, sync := y, scope := e, tag := g } d a 0#5) ∧
   (∀ (a l : Reg) (e : BitVec 2) (g : BitVec 4),
     EntersC (.cpf a l e g) { kind := .cpf, d := 0#5, a := a, sync := 0#2, scope := e, tag := g } 0#5 a l) ∧
   (∀ g : BitVec 4,
     EntersC (.cfence g) { kind := .cfence, d := 0#5, a := 0#5, sync := 0#2, scope := 0#2, tag := g } 0#5 0#5 0#5))

/-! ### Scalar memory (R47 to R59, R139 to R142) -/

/-- R139, R54, R179, R247 to R253, R257, R247 to R249, R252, R259: A `ld` from `g:` gives at latency 5 the little-endian value its
core sees, sign- or zero-extended, and changes nothing else but the core's L1. A `st` to `g:` leaves the low bytes of its value,
little-endian and dirty, in its core's L1, after the writes of the accessed and dirty bits; no register and no other byte
changes. One element of a vector load: from `g:` what its core sees, or what is at the home for an `ovt` load or `vgl` (which
links the line), converted from the page's format; from `lm:` or `cw:` the bytes there; a full/empty load waits for its granule,
reads it whole once, and `.fec` empties it. A disabled element, or one beyond a tensor, only passes, or reads zero where the
record asks for it. An element that fails a check leaves the syllable at it with the trap. No other element, register or byte
changes. That the own line is written back and dropped before a home read is log 17. One element of a vector store outside
blocked pages: to `g:` its register element, converted to the page's format, dirty in its core's L1 after the accessed and dirty
bits; an ntf store puts it at its home, leaves no dirty byte in that line, and then raises its progress word at its home to SEB
plus the number stored where that is more, each with the marks of a write, no other byte changing but by write-back; to `lm:` or
`cw:` its bytes, `lm.fill` filling a granule with its last element. No register and no other byte changes. A code the spec does
not give (log 5) may be any; the nearest c4 code follows log 100, the word's own line being written back and dropped before it
is read log 17, SEB plus the number modulo 2^64 log 57. -/
def Obligations.GlobalAccess : Prop :=
  (∀ (s : State) (d a : Reg) (z : BitVec 2) (x : Bool) (o : BitVec 7) (m : MemSys) (l : Xlat),
     let size := 2 ^ z.toNat
     let ea := s.rd a + BitVec.ofNat 64 (o.toNat * size)
     let core := coreOf s.cur.tk
     ReachesG s .read ea size m l → ¬m.seenBad core l.pa → ∃ t, exec (.ld d a 0#3 z x o) s = .next t ∧
       Wrote { s with ms := t.ms } 5 d (extended size x (m.seen core l.pa size)) t ∧
       OnlyL1 core m t.ms ∧ NoEviction core l.pa (fun _ => False) m t.ms) ∧
  (∀ (s : State) (d a : Reg) (z : BitVec 2) (o : BitVec 7) (m : MemSys) (l : Xlat),
     let size := 2 ^ z.toNat
     let ea := s.rd a + BitVec.ofNat 64 (o.toNat * size)
     let core := coreOf s.cur.tk
     ReachesG s .write ea size m l → l.pa % 64 + size ≤ 64 → ∃ t, exec (.st d a 0#3 z o) s = .next t ∧ t = { s with ms := t.ms } ∧
       OnlyL1 core (m.markWrite l ea.toNat) t.ms ∧
       NoEviction core l.pa (fun p => l.pa ≤ p ∧ p < l.pa + size) (m.markWrite l ea.toNat) t.ms ∧
       t.ms.seen core l.pa size = (s.rd d).toNat % 2 ^ (8 * size) ∧
       ∀ i, i < size → ∃ b, t.ms.dirtyByte core (l.pa + i) b) ∧
  (∀ (s : State) (tk : Nat) (h : QEntry) (rest : List QEntry) (o : VMem) (s' : State) (c : VmCtx) (word : Option Xlat),
     AtElem s tk h rest o s' c word →
     let core := coreOf tk
     let n := meBytes c.me
     let d := (vmData o).toNat
     let v := (s.team tk).vec
     let value := fun (t : State) => elem h.w ((t.team tk).vec.reg d) h.start
     let loads := (∃ sh l, o = .load sh l) ∨ ∃ g, o = .gl g
     let plain := vmSpace o ≠ 0 ∨ c.fmt < 16 ∨ ∀ sh l, o ≠ .store sh l
     (loads → ∀ m x bit, InG s' c m x bit → x.pa % 64 + n ≤ 64 → pageBlk x.ent.leaf = 0 →
       let m' := m.evictLine core x.pa
       let raw := if vmHome o then m'.homeRead x.pa n else m.seen core x.pa n
       (if vmHome o then m'.poisoned x.pa = false else ¬m.seenBad core x.pa) →
       ∃ t, exec (.viqIssue tk 1) s = .next t ∧ ElemDone s tk h rest d d t ∧ OnlyL1 core m t.ms ∧
         value t = (decodeElem c v (pickBits c.me bit raw) none h.start).1 % 2 ^ h.w ∧
         ((∃ g, o = .gl g) → (m'.linkSet tk).length < Config.linkLines → (t.ms.linkSet tk).contains (x.pa / 64) = true)) ∧
     (loads → ∀ core' off bit, InL s' c core' off bit →
       let g := bit / 128
       let granule := fun (x : BitVec 128) => x.toNat / 2 ^ (bit % 128) % 2 ^ h.w
       let first := BitVec.ofNat 128 (s.ms.lmRead core' (off / 16 * 16) 16)
       (vmSpace o = 1 ∨ vmSpace o = 2 → s.ms.lmBad core' off = false →
         ∃ t, exec (.viqIssue tk 1) s = .next t ∧ ElemDone s tk h rest d d t ∧ t.ms = s'.ms ∧
           value t = s.ms.lmRead core' off n % 2 ^ h.w) ∧
       ((∃ sh l, o = .load sh l) → vmSpace o = 3 ∨ vmSpace o = 4 →
         (∀ x, find? h.grans g = some x → ∃ t, exec (.viqIssue tk 1) s = .next t ∧ ElemDone s tk h rest d d t ∧ t.ms = s'.ms ∧
           value t = granule x) ∧
         (find? h.grans g = none → s.ms.isFull core' off = true → s.ms.lmBad core' off = false →
           ∃ t, exec (.viqIssue tk 1) s = .next t ∧ ElemDone s tk h rest d d t ∧ value t = granule first ∧
             t.ms = (if vmSpace o = 4 then s'.ms.setFull core' off false else s'.ms) ∧
             (h.start + 1 < h.gl → ∃ e, (t.team tk).q.viq = e :: rest ∧ find? e.grans g = some first)) ∧
         (find? h.grans g = none → s.ms.isFull core' off = false → ∃ t e, exec (.viqIssue tk 1) s = .next t ∧ t.ms = s'.ms ∧
           (t.team tk).vec = v ∧ (t.team tk).q.viq = e :: rest ∧ e.no = h.no ∧ e.start = h.start ∧ e.fault = h.fault))) ∧
     (plain → c.en v h.start = false → ∃ t, exec (.viqIssue tk 1) s = .next t ∧ ElemDone s tk h rest d d t ∧
       (t.team tk).vec = v ∧ (word = none → t.ms = { (vmProbe s' c).1.ms with links := t.ms.links })) ∧
     (plain → h.probe = none → vmShape o = .tensor → c.en v h.start = true → c.bit h.start = none →
       ∃ t, exec (.viqIssue tk 1) s = .next t ∧ ElemDone s tk h rest d d t ∧ (word = none → t.ms = s'.ms) ∧
         value t = if vmZeroFill o c.e then 0 else elem h.w (v.reg d) h.start) ∧
     (plain → c.en v h.start = true → vmSpace o = 0 → h.probe = none → ∀ bit, c.bit h.start = some bit →
       let va := bit / 8
       let found := vmXlat s' c va h.start
       let faults := fun (k : Cause) => ∃ t, exec (.viqIssue tk 1) s = .next t ∧
         ElemFaults s tk h rest { cause := k, tval := BitVec.ofNat 64 va } t
       (8 ≤ c.me ∧ va % (c.me / 8) ≠ 0 → faults .misalign) ∧
       ((8 ≤ c.me → va % (c.me / 8) = 0) → (∀ m k, found = (m, .error k) → faults k) ∧
         ∀ m x, found = (m, .ok x) → vmPageOk c v x bit h.start = false → faults .format))) ∧
  (∀ (s : State) (tk : Nat) (h : QEntry) (rest : List QEntry) (sh : VShape) (o : VSt) (s' : State) (c : VmCtx) (word : Option Xlat),
     AtElem s tk h rest (.store sh o) s' c word →
     let core := coreOf tk
     let n := meBytes c.me
     let v := (s.team tk).vec
     let x := elem h.w (v.reg o.d.toNat) h.start
     (c.fmt < 16 → ∀ m l bit, InG s' c m l bit → l.pa % 64 + n ≤ 64 → ∃ t fv, exec (.viqIssue tk 1) s = .next t ∧
       ElemDone s tk h rest o.d.toNat o.d.toNat t ∧ (t.team tk).vec = v ∧
       let y := (encodeElem c v x h.start fv).1
       let m' := m.markWrite l (bit / 8)
       (word = none → OnlyL1 core m' t.ms ∧ pickBits c.me bit (t.ms.seen core l.pa n) = y % 2 ^ c.me ∧
         NoEviction core l.pa (fun p => l.pa ≤ p ∧ p < l.pa + n) m' t.ms) ∧
       (∀ w, word = some w → (∀ z ∈ (t.ms.core core).l1, z.pa = l.pa / 64 → z.dirty = 0#64 ∨ t.ms.isPop (z.pa * 64) = false) ∧
         (h.seb.toNat + h.gl < 2 ^ 64 → h.seb.toNat + h.start + 1 ≤ t.ms.homeRead w.pa 8) ∧
         let wa := (vmWord (.store sh o) h).toNat
         let k := (h.seb.toNat + h.start + 1) % 2 ^ 64
         let old := (m.evictLine core w.pa).homeRead w.pa 8
         let mine := fun (p : Nat) => l.pa ≤ p ∧ p < l.pa + n
         let its := fun (p : Nat) => w.pa ≤ p ∧ p < w.pa + 8
         let marks := fun (p : Nat) => markBytes m l (bit / 8) p ∨ markBytes m w wa p
         (((m.core core).l1.map Line.pa).Nodup → w.pa % 64 + 8 ≤ 64 → m.isPop (l.pa / 64 * 64) = true → m.isPop (w.pa / 64 * 64) = true →
           (∀ p, mine p → ¬its p ∧ ¬markBytes m w wa p) → (∀ p, its p → ¬markBytes m l (bit / 8) p) →
           pickBits c.me bit (t.ms.homeRead l.pa n) = y % 2 ^ c.me ∧ t.ms.homeRead w.pa 8 = max old k ∧
           (∀ p, ¬mine p → ¬its p → ¬marks p → t.ms.byteAt p = m.byteAt p ∨ m.dirtyByte core p (t.ms.byteAt p)) ∧
           t.ms = { m with cores := t.ms.cores, mem := t.ms.mem, memPoison := t.ms.memPoison, links := t.ms.links, unacked := t.ms.unacked,
                           tlb := t.ms.tlb } ∧
           ((∀ p, marks p → ¬mine p ∧ ¬its p ∧ m.noDirty core p) →
             MarksSet m l (bit / 8) t.ms ∧ (old < k → MarksSet m w wa t.ms))))) ∧
     (∀ core' off bit, InL s' c core' off bit → word = none → ∃ t, exec (.viqIssue tk 1) s = .next t ∧
       ElemDone s tk h rest o.d.toNat o.d.toNat t ∧ (t.team tk).vec = v ∧ t.ms = { s'.ms with lm := t.ms.lm, fe := t.ms.fe } ∧
       t.ms.lmRead core' off n = x % 2 ^ (8 * n) ∧
       (∀ k, k < lmKey core' off ∨ lmKey core' off + n ≤ k → look 0#8 t.ms.lm k = look 0#8 s.ms.lm k) ∧
       (∀ g, g ≠ lmKey core' off / 16 → look false t.ms.fe g = look false s.ms.fe g) ∧
       let last := ∀ i, h.start < i → i < h.gl → c.en v i = true → c.granule i ≠ c.granule h.start
       (vmSpace (.store sh o) = 5 → last → t.ms.isFull core' off = true) ∧
       (vmSpace (.store sh o) ≠ 5 ∨ ¬last → t.ms.isFull core' off = s.ms.isFull core' off)))

/-- R48, R52, R53, R139: A `ld` from `lm:` or `cw:` gives at latency 3 or 7 the little-endian value, sign- or zero-extended; with
.fe or .fec it asks for a full granule, which .fec leaves empty; nothing else changes. One that must wait is in flight in
scheduled form and holds its bundle in serial form; one that waits for a queued access to a sibling's memory holds its bundle. A
`st` to `lm:` or `cw:` writes the low bytes of its value, little-endian, `lm.fill` making the granule full; no register, no
other byte and no other full/empty bit changes. -/
def Obligations.LocalAccess : Prop :=
  (∀ (s : State) (d a : Reg) (c : BitVec 3) (z : BitVec 2) (x : Bool) (o : BitVec 7) (core off : Nat),
     let size := 2 ^ z.toNat
     let ea := s.rd a + BitVec.ofNat 64 (o.toNat * size)
     let lat := if c = 1#3 then 7 else 3
     let clears := decide (c = 4#3)
     let asks := decide (c = 3#3 ∨ c = 4#3)
     c ≠ 0#3 → c.toNat ≤ 4 →
     (ReachesL s c ea size true clears core off → (asks = true → s.ms.isFull core off = true) →
       Gives (.ld d a c z x o) s { s with ms := if clears then s.ms.setFull core off false else s.ms } lat d
         (extended size x (s.ms.lmRead core off size))) ∧
     let flies := ∃ t, exec (.ld d a c z x o) s = .next t ∧ OnlyTeam s.cur.tk s t ∧
       ∃ f : Flight, f.reg = d ∧ f.left = lat ∧ f.load.isSome = true ∧
         t.curTeam = { s.curTeam with flights := s.curTeam.flights ++ [f] }
     let own := (winSpan s.curTeam (lmCode c) ea.toNat size).all (fun r => decide (r.addr < 2 ^ 22))
     (lmLoc s s.cur.tk (lmCode c) ea.toNat size = .ok (.l core off) →
       s.curTeam.lmWaits s.curTeam.nextNo (lmTouched s c ea size true clears) = true →
       (s.curTeam.sched = false ∨ own = false → Holds (.ld d a c z x o) s) ∧ (s.curTeam.sched = true → own = true → flies)) ∧
     (ReachesL s c ea size true clears core off → asks = true → s.ms.isFull core off = false →
       (s.curTeam.sched = false → Holds (.ld d a c z x o) s) ∧ (s.curTeam.sched = true → flies))) ∧
  (∀ (s : State) (d a : Reg) (c : BitVec 3) (z : BitVec 2) (o : BitVec 7) (core off : Nat),
     let size := 2 ^ z.toNat
     let ea := s.rd a + BitVec.ofNat 64 (o.toNat * size)
     c = 1#3 ∨ c = 2#3 ∨ c = 5#3 → ReachesL s c ea size false true core off → ∃ t, exec (.st d a c z o) s = .next t ∧
       t = { s with ms := { s.ms with lm := t.ms.lm, fe := t.ms.fe } } ∧
       t.ms.lmRead core off size = (s.rd d).toNat % 2 ^ (8 * size) ∧
       (∀ k, k < lmKey core off ∨ lmKey core off + size ≤ k → look 0#8 t.ms.lm k = look 0#8 s.ms.lm k) ∧
       (∀ g, g ≠ lmKey core off / 16 → look false t.ms.fe g = look false s.ms.fe g) ∧
       t.ms.isFull core off = (if c = 5#3 then true else s.ms.isFull core off))

/-- R139, R141, R143, R60, R61, R121, R393: A scalar access whose address is not a multiple of its size traps with that address, its
bundle uncommitted: MISALIGN in `g:` and `cw:`, LMALIGN in `lm:`. Alignment comes before range, by the model's choice: log 54.
The faults of the four knot instructions, each with the knot address, UE_CONSUMED with its 64-byte block, and its bundle
uncommitted. Their order, and that a poisoned knot faults so, are the model's choice: logs 16 and 18. -/
def Obligations.AccessFaults : Prop :=
  (∀ (s : State) (d a b : Reg) (c : BitVec 3) (e z : BitVec 2) (x y : Bool) (o : BitVec 7),
     let size := 2 ^ z.toNat
     let ea := s.rd a + BitVec.ofNat 64 (o.toNat * size)
     let kind := if c = 0#3 ∨ c = 1#3 then Cause.misalign else Cause.lmalign
     let traps := fun (i : Instr) (k : Cause) (v : Word) => ∃ t, exec i s = .next t ∧ TrapsS s k v t
     (ea.toNat % size ≠ 0 → (c = 0#3 → gWaits s s.cur.tk ea.toNat size = false) →
       traps (.ld d a c z x o) kind ea ∧ traps (.st d a c z o) kind ea) ∧
     (ea.toNat % size ≠ 0 → gWaits s s.cur.tk ea.toNat size = false → s.curTeam.liveRels = [] → traps (.ldAcq d a e z x o) .misalign ea) ∧
     (ea.toNat % size ≠ 0 → relReady s.curTeam = true → s.ackWait e (Unack.ofCore s.cur.tk) = .done → traps (.stRel d a e z o) .misalign ea) ∧
     (let n := if x then 8 else 4
      (s.rd a).toNat % n ≠ 0 → (y = false → gWaits s s.cur.tk (s.rd a).toNat n = false) →
       ∀ i ∈ [Instr.amoAdd, .amoAnd, .amoOr, .amoXor, .amoMin, .amoMax, .amoMinu, .amoMaxu, .amoSwap, .amoCas],
         traps (i d a b x y) (if y then .lmalign else .misalign) (s.rd a))) ∧
  (∀ (s : State) (d a b : Reg) (e : BitVec 2) (m : MemSys),
     let knot := s.rd a
     let traps := fun (i : Instr) (ms : MemSys) (k : Cause) (v : Word) => ∃ t, exec i s = .next t ∧ TrapsS { s with ms := ms } k v t
     -- the writing two, and the reading two, once nothing older is in their way
     let writers := fun (ms : MemSys) (k : Cause) (v : Word) =>
       traps (.krel a b e) ms k v ∧ (gWaits s s.cur.tk knot.toNat 16 = false → traps (.kbind d a b) ms k v)
     let readers := fun (ms : MemSys) (k : Cause) (v : Word) =>
       s.curTeam.liveRels = [] → gWaits s s.cur.tk knot.toNat 8 = false → traps (.kacq a b e) ms k v ∧ traps (.ktry d a b e) ms k v
     (knot.toNat % 16 ≠ 0 → writers s.ms .misalign knot ∧ readers s.ms .misalign knot) ∧
     (∀ c, knot.toNat % 16 = 0 → s.xlat .write knot = (m, .error c) → writers m c knot) ∧
     (∀ c, knot.toNat % 16 = 0 → s.xlat .read knot = (m, .error c) → readers m c knot) ∧
     (∀ x, knot.toNat % 16 = 0 → s.xlat .write knot = (m, .ok x) →
       (inScaleArea x.ent knot.toNat = true → writers m .format knot) ∧
       (inScaleArea x.ent knot.toNat = false → isHostOrPeer x.pa = true → writers m .protection knot) ∧
       let m1 := m.evictLine (coreOf s.cur.tk) x.pa
       (inScaleArea x.ent knot.toNat = false → isHostOrPeer x.pa = false → m1.poisoned x.pa = true →
         writers m1 .ueConsumed (BitVec.ofNat 64 (knot.toNat / 64 * 64)))) ∧
     (∀ x, knot.toNat % 16 = 0 → s.xlat .read knot = (m, .ok x) →
       (inScaleArea x.ent knot.toNat = true → readers m .format knot) ∧
       (inScaleArea x.ent knot.toNat = false → isHostOrPeer x.pa = true → readers m .protection knot) ∧
       let m1 := m.evictLine (coreOf s.cur.tk) x.pa
       (inScaleArea x.ent knot.toNat = false → isHostOrPeer x.pa = false → m1.poisoned x.pa = true →
         readers m1 .ueConsumed (BitVec.ofNat 64 (knot.toNat / 64 * 64)))) ∧
     (∀ x, gWaits s s.cur.tk knot.toNat 16 = false → KnotOk s .write knot m x → (s.rd b).toNat % 256 ≠ 0 ∨ (s.rd d).toNat % 256 ≠ 0 ∨ 2 ^ 40 < (s.rd d).toNat →
       traps (.kbind d a b) (m.evictLine (coreOf s.cur.tk) x.pa) .misalign knot))

/-- R140, R65, R58, R401: `ld.acq` is a load; for a scope wider than team no line of its core's L1 stays but one whose home is gone,
and every dirty byte whose home answers is there (that a dirty line of the core is written back before an acquire drops it is
the model's choice: log 14). Memory changes by nothing but write-back. `st.rel` waits for what is earlier, at system scope for
the peers' acknowledgments too, and traps with PAGE_STORE where one can no longer come. For a scope wider than team it then
writes every dirty line of its core back and performs its store at the home, no line staying dirty; at team scope it is a store.
What counts as earlier is the model's choice: log 13. -/
def Obligations.AcquireAndRelease : Prop :=
  (∀ (s : State) (d a : Reg) (e z : BitVec 2) (x : Bool) (o : BitVec 7) (m : MemSys) (l : Xlat),
     let size := 2 ^ z.toNat
     let ea := s.rd a + BitVec.ofNat 64 (o.toNat * size)
     let core := coreOf s.cur.tk
     ReachesG s .read ea size m l → ¬m.seenBad core l.pa → s.curTeam.liveRels = [] → s.cur.st = .running →
       ∃ t, exec (.ldAcq d a e z x o) s = .next t ∧
         Wrote { s with ms := t.ms } 5 d (extended size x (m.seen core l.pa size)) t ∧
         OnlyL1 core m t.ms ∧ (e ≠ 0#2 → Homed core m t.ms) ∧
         (e ≠ 0#2 → ∀ n ∈ (t.ms.core core).l1, n.dirty ≠ 0#64 ∧ t.ms.isPop (n.pa * 64) = false)) ∧
  (∀ (s : State) (d a : Reg) (e z : BitVec 2) (o : BitVec 7) (m : MemSys) (l : Xlat),
     let size := 2 ^ z.toNat
     let ea := s.rd a + BitVec.ofNat 64 (o.toNat * size)
     let core := coreOf s.cur.tk
     let mine := Unack.ofCore s.cur.tk
     (relReady s.curTeam = false ∨ s.ackWait e mine = .waits → Holds (.stRel d a e z o) s) ∧
     (∀ v, relReady s.curTeam = true → s.ackWait e mine = .lost v → ∃ t, exec (.stRel d a e z o) s = .next t ∧
       TrapsS { s with ms := s.ms.dropUnacked (fun y => mine y && y.dead) } .pageStore (BitVec.ofNat 64 v) t) ∧
     (relReady s.curTeam = true → s.ackWait e mine = .done → ReachesG s .write ea size m l → l.pa % 64 + size ≤ 64 →
       s.ms.isPop (l.pa / 64 * 64) = true → s.ms.homesUp core →
       ∃ t, exec (.stRel d a e z o) s = .next t ∧ t = { s with ms := t.ms } ∧
         t.ms.seen core l.pa size = (s.rd d).toNat % 2 ^ (8 * size) ∧
         (e = 0#2 → OnlyL1 core (m.markWrite l ea.toNat) t.ms) ∧
         (e ≠ 0#2 → t.ms.homeRead l.pa size = (s.rd d).toNat % 2 ^ (8 * size) ∧
           (∀ n ∈ (t.ms.core core).l1, n.dirty = 0#64) ∧
           ∀ p, p < l.pa ∨ l.pa + size ≤ p → ¬markBytes m l ea.toNat p →
             t.ms.byteAt p = m.byteAt p ∨ m.dirtyByte core p (t.ms.byteAt p))))

/-- R141, R55, R255 to R257: The ten atomics, their old value sign-extended in sd, the cell at its home or in the array afterwards,
and every other byte as it was. One element of a vector atomic: the old value in its register, the new one at the home, or in
the array; one of `vsc`: at the home, and its mask bit clear, where its line is still linked, else neither. No other byte,
element, register or mask bit changes. -/
def Obligations.Atomics : Prop :=
  (Atomically .amoAdd (fun o b _ => o + b) ∧
   Atomically .amoAnd (fun o b _ => o &&& b) ∧
   Atomically .amoOr (fun o b _ => o ||| b) ∧
   Atomically .amoXor (fun o b _ => o ^^^ b) ∧
   Atomically .amoMin (fun o b _ => if b.toInt < o.toInt then b else o) ∧
   Atomically .amoMax (fun o b _ => if o.toInt < b.toInt then b else o) ∧
   Atomically .amoMinu (fun o b _ => if b.toNat < o.toNat then b else o) ∧
   Atomically .amoMaxu (fun o b _ => if o.toNat < b.toNat then b else o) ∧
   Atomically .amoSwap (fun _ b _ => b) ∧
   Atomically .amoCas (fun o b c => if o = c then b else o)) ∧
  (∀ (s : State) (tk : Nat) (h : QEntry) (rest : List QEntry) (s' : State) (c : VmCtx) (o : VAm) (a : VAmoOp) (z : VSt),
     let core := coreOf tk
     let v := (s.team tk).vec
     let fmt := vtFmt h.vtype
     let n := h.w / 8
     let f := fun (old x : Nat) => match a with
       | .swap => x
       | .add => if fmt.isFp then (fmt.ff.finish ((fmt.ff.decode old).add (fmt.ff.decode x) (h.rnd h.start).mode) (h.rnd h.start)).1
           else (old + x) % 2 ^ h.w
       | .min => if fmt.isFp then (fmt.ff.minmax false old x).1 else if fmt.intVal old ≤ fmt.intVal x then old else x
       | .max => if fmt.isFp then (fmt.ff.minmax true old x).1 else if fmt.intVal x ≤ fmt.intVal old then old else x
     let x := elem h.w (v.reg o.d.toNat) h.start
     let value := fun (t : State) => elem h.w ((t.team tk).vec.reg o.d.toNat) h.start
     (AtElem s tk h rest (.amo a o) s' c none →
       (∀ m l bit, InG s' c m l bit →
         let m' := m.evictLine core l.pa
         let old := m'.homeRead l.pa n
         m'.poisoned l.pa = false → ∃ t, exec (.viqIssue tk 1) s = .next t ∧ ElemDone s tk h rest o.d.toNat o.d.toNat t ∧
           value t = old ∧ t.ms.homeRead l.pa n = f old x % 2 ^ h.w ∧ findLine (t.ms.core core).l1 (l.pa / 64) = none ∧
           ∀ p, p < l.pa ∨ l.pa + n ≤ p → ¬markBytes m l (bit / 8) p → t.ms.byteAt p = m'.byteAt p) ∧
       ∀ core' off bit, InL s' c core' off bit → s.ms.lmBad core' off = false →
         let old := s.ms.lmRead core' off n
         ∃ t, exec (.viqIssue tk 1) s = .next t ∧ ElemDone s tk h rest o.d.toNat o.d.toNat t ∧ value t = old ∧
           t.ms = { s'.ms with lm := t.ms.lm } ∧ t.ms.lmRead core' off n = f old x % 2 ^ h.w ∧
           ∀ k, k < lmKey core' off ∨ lmKey core' off + n ≤ k → look 0#8 t.ms.lm k = look 0#8 s.ms.lm k) ∧
     (AtElem s tk h rest (.sc z) s' c none → rising v.k = true → h.gl ≤ 8192 → ∀ m l bit, InG s' c m l bit → 8 ≤ c.me →
       let m' := m.evictLine core l.pa
       let bytes := meBytes c.me
       let k := z.m.toNat
       ∃ t, exec (.viqIssue tk 1) s = .next t ∧ ElemDone s tk h rest z.d.toNat z.d.toNat t ∧
         (∀ r, (t.team tk).vec.reg r = v.reg r) ∧
         ((m'.linkSet tk).contains (l.pa / 64) = true →
           (∃ fv, t.ms.homeRead l.pa bytes = (encodeElem c v (elem h.w (v.reg z.d.toNat) h.start) h.start fv).1 % 2 ^ c.me) ∧
           (∀ j i, (t.team tk).vec.mask j i = (v.mask j i && !(decide (j = k ∧ i = h.start) && decide (k ≠ 0)))) ∧
           (∀ p, p < l.pa ∨ l.pa + bytes ≤ p → ¬markBytes m l (bit / 8) p → t.ms.byteAt p = m'.byteAt p) ∧
           (t.ms.linkSet tk).contains (l.pa / 64) = false) ∧
         ((m'.linkSet tk).contains (l.pa / 64) = false → t.ms = { m' with links := t.ms.links } ∧ (t.team tk).vec = v)))

/-- R54, R58, R142, R65, R401: Writing lines back puts their dirty bytes, and no others, at their homes, and leaves the lines clean.
`fence` waits for what is earlier, at system scope for the peers' acknowledgments too, and traps with PAGE_STORE where one can
no longer come; then every dirty line of its core goes to its home, and for a scope wider than team no line stays. Which queued
accesses count as earlier is the model's choice: log 13. -/
def Obligations.FenceWritesBack : Prop :=
  (∀ (m : MemSys) (core : Nat) (p : Line → Bool), Memory.wf m.mem →
     Published core p m (m.cleanLines core p) ∧ Memory.wf (m.cleanLines core p).mem ∧
     ((m.cleanLines core p).core core).l1 = (m.core core).l1.map (fun l =>
       if p l then { l with dirty := 0#64, wr := 0#2, poison := l.poison || l.lost, lost := false } else l)) ∧
  (∀ (s : State) (e : BitVec 2),
     let core := coreOf s.cur.tk
     let mine := Unack.ofCore s.cur.tk
     (relReady s.curTeam = false ∨ s.ackWait e mine = .waits → Holds (.fence e) s) ∧
     (∀ v, relReady s.curTeam = true → s.ackWait e mine = .lost v → ∃ t, exec (.fence e) s = .next t ∧
       TrapsS { s with ms := s.ms.dropUnacked (fun y => mine y && y.dead) } .pageStore (BitVec.ofNat 64 v) t) ∧
     (relReady s.curTeam = true → s.ackWait e mine = .done → s.ms.homesUp core → Memory.wf s.ms.mem → ∃ t, exec (.fence e) s = .next t ∧ t = { s with ms := t.ms } ∧
       Published core (fun _ => true) s.ms t.ms ∧ (∀ l ∈ (t.ms.core core).l1, l.dirty = 0#64) ∧
       (e ≠ 0#2 → (t.ms.core core).l1 = [])))

/-- R46, R174 to R180: A translation caches at most the walked leaf, where it was asked for and in the TLB behind, or there what
that TLB holds, sets at most the leaf's accessed bit, and marks a write with the dirty bit and the granule's bit of the dirty
map; every other byte stays. The page walked has 64 KiB, 2 MiB or 1 GiB. No TLB comes to hold more than it has room for. Which
entry makes room, and that a leaf is cached before its own checks, are the model's choice: logs 80, 82 and 83. -/
def Obligations.TranslationWrites : Prop :=
  (∀ (m : MemSys) (u : TlbPlace) (asn root : Nat) (h : Bool) (k : Acc) (va : Word) (m' : MemSys) (r : Except Cause Xlat),
    Memory.wf m.mem → m.translate u asn root h k va = (m', r) →
    Memory.wf m'.mem ∧ m' = { m with mem := m'.mem, tlb := m'.tlb, links := m'.links } ∧ (m.tlbFits → m'.tlbFits) ∧
    (m'.mem = m.mem ∧ m'.tlb = m.tlb ∨
     (∃ b, ∃ e ∈ m.tlb, u.backing = some b ∧ e.place = b ∧ e.asn = asn ∧ e.va ≤ va.toNat ∧ va.toNat < e.va + e.size ∧ m'.mem = m.mem ∧
       ∀ f ∈ m'.tlb, f ∈ m.tlb ∨ f = { e with place := u }) ∨
     ∃ e ∈ m'.tlb, e.place = u ∧ e.asn = asn ∧ (e.size = 65536 ∨ e.size = 2097152 ∨ e.size = 1073741824) ∧
      e.va = va.toNat / e.size * e.size ∧ fld e.leaf 4 1 = 1 ∧
      (∀ f ∈ m'.tlb, f ∈ m.tlb ∨ f = e ∨ ∃ b, u.backing = some b ∧ f = { e with place := b }) ∧
      ∀ p, p < e.leafAt ∨ e.leafAt + 8 ≤ p → m'.byteAt p = m.byteAt p) ∧
    ∀ x, r = .ok x → m'.isPop x.pa = true ∧ (k = .write → fld x.ent.leaf 2 1 = 1) ∧ (k = .fetch → fld x.ent.leaf 3 1 = 1) ∧
      (fld x.ent.leaf 6 1 = 1 → h = true) ∧ va.toNat < 2 ^ 57) ∧
  (∀ (m : MemSys) (x : Xlat) (va : Nat), Memory.wf m.mem →
    Memory.wf (m.markWrite x va).mem ∧ (m.tlbFits → (m.markWrite x va).tlbFits) ∧
    (∀ p, ¬markBytes m x va p → (m.markWrite x va).byteAt p = m.byteAt p) ∧
    ((m.current x.ent).dc = false → (∀ sp, m.space? x.ent.asn = some sp → sp.dmap + va / 65536 / 8 < x.ent.leafAt ∨
      x.ent.leafAt + 8 ≤ sp.dmap + va / 65536 / 8) → fld ((m.markWrite x va).homeRead x.ent.leafAt 8) 5 1 = 1) ∧
    ∀ sp, m.space? x.ent.asn = some sp → (m.current x.ent).marked.contains (va / 65536) = false →
      fld ((m.markWrite x va).homeRead (sp.dmap + va / 65536 / 8) 1) (va / 65536 % 8) 1 = 1)

/-! ### Knots, gang barriers, grants, strip loops (R60 to R64, R143 to R148) -/

/-- R61: `kbind` binds, rebinds or unbinds a knot: its result at latency 5, one entry of the partition's table and the handle word,
in one step; with no free entry, or nothing to unbind, neither changes. While an older access to the knot is still to be
performed, it holds. What counts as bound, and the number under which a context with a private code page binds, are the model's
choice: logs 16 and 97. -/
def Obligations.KnotBind : Prop :=
  ∀ (s : State) (d a b : Reg) (m : MemSys) (x : Xlat),
    let core := coreOf s.cur.tk
    let part := s.partOf s.cur.tk
    let asn := s.knotAsn s.cur.tk
    let knot := s.rd a
    let base := s.rd b
    let len := s.rd d
    let m1 := m.evictLine core x.pa
    let ent : KnotEnt := { asn := asn, knot := knot.toNat, base := base.toNat, len := len.toNat }
    (gWaits s s.cur.tk knot.toNat 16 = true → Holds (.kbind d a b) s) ∧
    (gWaits s s.cur.tk knot.toNat 16 = false → KnotOk s .write knot m x → base.toNat % 256 = 0 → len.toNat % 256 = 0 → len.toNat ≤ 2 ^ 40 → rising s.ms.knots = true →
      ∃ t r, exec (.kbind d a b) s = .next t ∧ Wrote { s with ms := t.ms } 5 d r t ∧
        (∀ p, p < x.pa + 8 ∨ x.pa + 16 ≤ p → ¬markBytes m x knot.toNat p → t.ms.byteAt p = m1.byteAt p) ∧
        (∀ i, IsBound m1 part asn knot x.pa i → len ≠ 0#64 → r = 1#64 ∧ t.ms = { m1 with knots := t.ms.knots } ∧
          find? t.ms.knots (knotKey part i) = some ent ∧ ∀ k, k ≠ knotKey part i → find? t.ms.knots k = find? s.ms.knots k) ∧
        (∀ i, IsBound m1 part asn knot x.pa i → len = 0#64 → r = 1#64 ∧ t.ms.homeRead (x.pa + 8) 8 = 0 ∧
          find? t.ms.knots (knotKey part i) = none ∧ ∀ k, k ≠ knotKey part i → find? t.ms.knots k = find? s.ms.knots k) ∧
        ((∀ i, ¬IsBound m1 part asn knot x.pa i) → len = 0#64 → r = 1#64 ∧ t.ms = m1) ∧
        (∀ i, (∀ j, ¬IsBound m1 part asn knot x.pa j) → len ≠ 0#64 → i < 65536 → find? s.ms.knots (knotKey part i) = none →
          (∀ j, j < i → (find? s.ms.knots (knotKey part j)).isSome = true) →
          r = 1#64 ∧ t.ms.homeRead (x.pa + 8) 8 = 2 ^ 63 + i ∧ find? t.ms.knots (knotKey part i) = some ent ∧
          ∀ k, k ≠ knotKey part i → find? t.ms.knots k = find? s.ms.knots k) ∧
        ((∀ i, ¬IsBound m1 part asn knot x.pa i) → len ≠ 0#64 →
          (∀ j, j < 65536 → (find? s.ms.knots (knotKey part j)).isSome = true) → r = 0#64 ∧ t.ms = m1))

/-- R63, R64, R58, R62, R143, R401: With earlier releases performed and COUNT at or above the threshold, `kacq` and `ktry` drop the
lines of the knot's region, and of these two only `ktry` writes a register, with 1. Below it `ktry` gives 0 and drops no line of
the region, and `kacq` holds with the binding it read. An older access to the knot comes first. That the knot's own line is
written back and dropped before its COUNT is read, by a failed `ktry` too, and a dirty line written back before an acquire drops
it, is the model's choice: logs 14 and 17. `krel` commits at once, leaving its release to be performed. The oldest release that
can be performed waits for the team's earlier accesses, at system scope for the peers' acknowledgments too, and raises
PAGE_STORE where one can no longer come; performing it writes the region's dirty lines back and adds its increment to COUNT at
the home, modulo 2^64. That a release whose earlier accesses stand in a trap's saved context waits for the return is the model's
choice: log 74. -/
def Obligations.KnotAcquireRelease : Prop :=
  (∀ (s : State) (d a b : Reg) (e : BitVec 2) (m : MemSys) (x : Xlat),
     let core := coreOf s.cur.tk
     let m1 := m.evictLine core x.pa
     let region := knotRegion { s with ms := m1 } (s.partOf s.cur.tk) (s.knotAsn s.cur.tk) (s.rd a) x.pa
     let seen := s.curTeam.acqBind.getD region
     let lines := fun (r : Option (Nat × Nat)) => regionLines s.curTeam.bind.asn r
     (s.curTeam.liveRels ≠ [] ∨ gWaits s s.cur.tk (s.rd a).toNat 8 = true → Holds (.kacq a b e) s ∧ Holds (.ktry d a b e) s) ∧
     (KnotOk s .read (s.rd a) m x → s.curTeam.liveRels = [] → gWaits s s.cur.tk (s.rd a).toNat 8 = false →
       (m1.homeRead x.pa 8 < (s.rd b).toNat →
         Gives (.ktry d a b e) s { s with ms := m1 } 5 d 0#64 ∧
         ∃ t, exec (.kacq a b e) s = .next t ∧ OnlyTeam s.cur.tk { s with ms := m1, cur := { s.cur with st := .held } } t ∧
           t.curTeam = { s.curTeam with acqBind := some seen }) ∧
       ((s.rd b).toNat ≤ m1.homeRead x.pa 8 →
         (∃ t, exec (.ktry d a b e) s = .next t ∧ Wrote { s with ms := t.ms } 5 d 1#64 t ∧ Acquired core (lines region) m1 t.ms) ∧
         ∃ t, exec (.kacq a b e) s = .next t ∧ OnlyTeam s.cur.tk { s with ms := t.ms } t ∧
           t.curTeam = { s.curTeam with acqBind := none } ∧ Acquired core (lines seen) m1 t.ms))) ∧
  ((∀ (s : State) (a b : Reg) (e : BitVec 2) (m : MemSys) (x : Xlat), KnotOk s .write (s.rd a) m x →
     let m1 := m.evictLine (coreOf s.cur.tk) x.pa
     ∃ t, exec (.krel a b e) s = .next t ∧ OnlyTeam s.cur.tk { s with ms := m1 } t ∧
       t.curTeam = { s.curTeam with krels := s.curTeam.krels ++
         [{ knot := s.rd a, pa := x.pa, inc := s.rd b, scope := e,
            region := knotRegion { s with ms := m1 } (s.partOf s.cur.tk) (s.knotAsn s.cur.tk) (s.rd a) x.pa,
            before := s.curTeam.nextNo, bno := s.curTeam.bno }] }) ∧
   (∀ (s : State) (tk : Nat) (k : KRel) (r : List KRel) (x : Xlat),
     let u := s.team tk
     let core := coreOf tk
     let early := u.vMemBefore k.before = true ∨ ∃ f ∈ u.flights, ∃ l, f.load = some l ∧ l.bno < k.bno
     tk < 640 → u.liveRels = k :: r → u.status ≠ .empty → u.status ≠ .halted →
     (early ∨ s.ackWait k.scope (Unack.ofCore tk) = .waits → exec (.knotReleasePerformed tk) s = .next s) ∧
     (∀ v, ¬early → s.ackWait k.scope (Unack.ofCore tk) = .lost v → u.level = .a → (∀ y ∈ u.q.all, y.fault = none) →
       ∃ t, exec (.knotReleasePerformed tk) s = .next t ∧ (∀ j, j ≠ tk → t.team j = s.team j) ∧
         t = { s with teams := t.teams, ms := (s.ms.dropUnacked (fun y => Unack.ofCore tk y && y.dead)).setLinks tk [] } ∧
         TrapTaken { u with krels := u.krels.erase k } { cause := .pageStore, tval := BitVec.ofNat 64 v } .s u.pc (t.team tk)) ∧
     (¬early → s.ackWait k.scope (Unack.ofCore tk) = .done →
     Memory.wf s.ms.mem → s.ms.homesUp core → s.ms.translate (.data core) u.bind.asn u.bind.root (decide (u.level = .h)) .write k.knot = (s.ms, .ok x) →
     (∀ i, i < 8 → s.ms.noDirty core (k.pa + i) ∧ ¬markBytes s.ms x k.knot.toNat (k.pa + i)) →
     ∃ t, exec (.knotReleasePerformed tk) s = .next t ∧ OnlyTeam tk { s with ms := t.ms } t ∧ t.team tk = { u with krels := u.krels.erase k } ∧
       t.ms.homeRead k.pa 8 = (s.ms.homeRead k.pa 8 + k.inc.toNat) % 2 ^ 64 ∧
       (∀ l ∈ (t.ms.core core).l1, regionLines u.bind.asn k.region l = true → l.dirty = 0#64) ∧
       ∀ p, p < k.pa ∨ k.pa + 8 ≤ p → ¬markBytes s.ms x k.knot.toNat p →
         t.ms.byteAt p = s.ms.byteAt p ∨ s.ms.dirtyByte core p (t.ms.byteAt p))))

/-- R144: `gbar.arr` waits for the team's queued stores to local memory, then counts one more arrival and wakes its siblings;
`gbar.wait d` completes once every sibling has ended or arrived PH − d times, and holds until then. That a handler's arrival
waits for its own stores alone is the model's choice: log 107. -/
def Obligations.GangBarrier : Prop :=
  ∀ s : State,
    let tk := s.cur.tk
    (s.curTeam.lmStoreBefore = true → Holds .gbarArr s) ∧
    (s.curTeam.lmStoreBefore = false → ∃ t, exec .gbarArr s = .next t ∧ t = { s with teams := t.teams } ∧
      t.curTeam = { s.curTeam with ctl := { s.curTeam.ctl with gph := s.curTeam.ctl.gph + 1 } } ∧
      ∀ k, k ≠ tk → t.team k = if k ∈ (s.gang tk).map Prod.fst then (s.team k).wakeUp else s.team k) ∧
    ∀ d : BitVec 5,
      let late := ∃ j ∈ s.gang tk, j.1 ≠ tk ∧ j.2.status ≠ .ended ∧ j.2.status ≠ .exiting ∧
        ¬(j.2.status = .escalating ∧ ∃ x, j.2.esc = some x ∧ x.ended = true) ∧
        (j.2.ctl.gph.toNat : Int) < s.curTeam.ctl.gph.toNat - d.toNat
      (¬late → exec (.gbarWait d) s = .next s) ∧ (late → Holds (.gbarWait d) s)

/-- R145, R146, R147, R148: `setgl` and `setgl.h` set HOLD, take the grant, clear SEB and give GL at latency 2; SC and WATCH stay. A
grant never exceeds its request or VLMAX, and for a request of at least 1 is at least 1 and at least the lesser of request and
HOLD. `stb` and `stb.w` start a strip loop: SC, SEB and WATCH, and the grant. `stb.w` with 0 waits for nothing; a misaligned
progress word traps; else the loop starts, as an acquire, once the word at its home has reached the grant, and holds until then.
That a capacity which changes during the hold changes the grant waited for, and that the core's own line of the progress word is
written back and dropped before it is read, is the model's choice: logs 102 and 17. `ste` closes a strip. With nothing left it
falls through and GL, HOLD and WATCH stay; else it takes the next grant and continues at A + offset × 4, under a WATCH once the
progress word has reached SEB + GL (by the model's choice a capacity that changes during the hold changes the grant waited for,
log 102, and the core's own line of the word is written back and dropped before it is read, log 17). -/
def Obligations.GrantsAndStrips : Prop :=
  ((∀ (s : State) (d a b : Reg), s.bankFine →
     let c := s.curTeam.ctl
     (∃ s', Granted s (s.rd a) { c with hold := 0#8, seb := 0#64 } s' ∧ Gives (.setgl d a) s s' 2 d (s'.curTeam.ctl.gl.setWidth 64)) ∧
     (∃ s', Granted s (s.rd a) { c with hold := BitVec.ofNat 8 (min (s.rd b).toNat 64), seb := 0#64 } s' ∧
       Gives (.setglH d a b) s s' 2 d (s'.curTeam.ctl.gl.setWidth 64))) ∧
   (∀ (s : State) (q : Word) (h : BitVec 8), 64 ≤ s.vlmaxOf s.cur.tk → h.toNat ≤ 64 →
     let g := s.granted q h
     g ≤ q.toNat ∧ g ≤ s.vlmaxOf s.cur.tk ∧ (1 ≤ q.toNat → 1 ≤ g) ∧ (h.toNat ≤ q.toNat → h.toNat ≤ g)) ∧
   (∀ (l : Word) (p : Bool) (w : Nat), (w = 8 ∨ w = 16 ∨ w = 32 ∨ w = 64) → (List.range 64).countP (fun i => l.getLsbD i) ≤ 16 →
     (if w = 64 then 256 else 512) ≤ vlmax (lanes l p) w ∧ vlmax (lanes l p) w ≤ 32 * (64 * 32 / w))) ∧
  (∀ (s : State) (a b : Reg) (m : MemSys) (x : Xlat),
     let core := coreOf s.cur.tk
     let q := s.rd a
     let w := s.rd b
     let c := s.curTeam.ctl
     let m1 := m.evictLine core x.pa
     (∃ t, exec (.stb a) s = .next t ∧ Granted s q { c with sc := q, seb := 0#64, watch := 0#64 } t) ∧
     (w.toNat % 8 ≠ 0 → ∃ t, exec (.stbW a b) s = .next t ∧ TrapsS s .misalign w t) ∧
     (w = 0#64 → ∃ t, exec (.stbW a b) s = .next t ∧ Granted s q { c with sc := q, seb := 0#64, watch := 0#64 } t) ∧
     (w ≠ 0#64 → w.toNat % 8 = 0 → WatchOk s w m x →
       (s.granted q c.hold ≤ m1.homeRead x.pa 8 → ∃ t, exec (.stbW a b) s = .next t ∧
         Granted { s with ms := t.ms } q { c with sc := q, seb := 0#64, watch := w } t ∧ Acquired core (fun _ => true) m1 t.ms) ∧
       (m1.homeRead x.pa 8 < s.granted q c.hold → exec (.stbW a b) s = .next { s with ms := m1, cur := { s.cur with st := .held } }))) ∧
  (∀ (s : State) (o : BitVec 18) (m : MemSys) (x : Xlat),
     let core := coreOf s.cur.tk
     let c := s.curTeam.ctl
     let left := BitVec.ofNat 64 (c.sc.toNat - c.gl.toNat)
     let seb := c.seb + c.gl.setWidth 64
     let c' := { c with sc := left, seb := seb }
     let dest := s.cur.addr + BitVec.ofInt 64 (o.toInt * 4)
     let m1 := m.evictLine core x.pa
     (left = 0#64 → ∃ t, exec (.ste o) s = .next t ∧ OnlyTeam s.cur.tk s t ∧ t.curTeam = { s.curTeam with ctl := c' }) ∧
     (left ≠ 0#64 → c.watch = 0#64 → ∃ s', exec (.ste o) s = .next (s'.jump dest) ∧ Granted s left c' s') ∧
     (left ≠ 0#64 → c.watch ≠ 0#64 → WatchOk s c.watch m x →
       (seb.toNat + s.granted left c.hold ≤ m1.homeRead x.pa 8 → ∃ s', exec (.ste o) s = .next (s'.jump dest) ∧
         Granted { s with ms := s'.ms } left c' s' ∧ Acquired core (fun _ => true) m1 s'.ms) ∧
       (m1.homeRead x.pa 8 < seb.toNat + s.granted left c.hold →
         exec (.ste o) s = .next { s with ms := m1, cur := { s.cur with st := .held } })))

/-! ### Control registers (R125 to R131, R201, R263) -/

/-- R125, R127 to R130, R78, R130, R263, R126, R127, R131: Every register both levels reach but VTYPE and the polynomial fields:
what `crr`, `crs` and `crc` read, and what a write leaves, at A-level and at H-level alike; read-only fields keep their value,
as at A-level do those that H-level alone writes. The polynomial fields, each of whose accesses holds while a polynomial
syllable is still to complete; a written value takes the place of the field when the bundle commits, behind a polynomial
syllable of the bundle itself, which does not see it. That a handler waits for its own syllables alone, and a captured one is
complete with its frame, is the model's choice: log 106. The registers H-level alone reaches, and those it writes where A-level
only reads. -/
def Obligations.ControlRegisters : Prop :=
  (∀ s : State, s.bankFine →
     let u := s.curTeam
     let c := u.ctl
     let keeps := fun (_ : Word) => u
     let sets := fun (f : Word → Ctl) (w : Word) => { u with ctl := f w }
     CtlReg s 0x000#12 (BitVec.ofNat 64 (u.bind.tidx % 8)) keeps ∧
     CtlReg s 0x001#12 (BitVec.ofNat 64 (u.bind.gidx % 65536)) keeps ∧
     CtlReg s 0x010#12 (BitVec.ofNat 64 (c.hold.toNat * 65536 + c.gl.toNat)) keeps ∧
     CtlReg s 0x014#12 (BitVec.ofNat 64 (s.vlmaxOf s.cur.tk)) keeps ∧
     CtlReg s 0x015#12 c.seed (sets fun w => { c with seed := w }) ∧
     CtlReg s 0x016#12 (c.fflags.setWidth 64) (sets fun w => { c with fflags := w.setWidth 6 }) ∧
     CtlReg s 0x017#12 (s.ms.core (coreOf s.cur.tk)).lmap keeps ∧
     CtlReg s 0x018#12 (if u.bind.prot then 1#64 else 0#64) keeps ∧
     CtlReg s 0x01A#12 (c.gph.setWidth 64) keeps ∧
     CtlReg s 0x022#12 c.cka (sets fun w => { c with cka := w &&& 0xFFFFFFFFFFFFFFF0#64 }) ∧
     CtlReg s 0x023#12 c.ckr (sets fun w => { c with ckr := w &&& 0xFFFFFFFFFFFFFFF0#64 }) ∧
     CtlReg s 0x024#12 c.ntfw (sets fun w => { c with ntfw := w &&& 0x01FFFFFFFFFFFFF8#64 }) ∧
     CtlReg s 0x025#12 c.watch keeps ∧
     (u.level = .a →
       CtlReg s 0x011#12 c.sc keeps ∧ CtlReg s 0x012#12 (c.es.setWidth 64) keeps ∧ CtlReg s 0x019#12 c.seb keeps ∧
       CtlReg s 0x020#12 (c.mkp.setWidth 64) keeps ∧ CtlReg s 0x021#12 c.cp keeps)) ∧
  ((∀ s : State, s.bankFine →
     let u := s.curTeam
     (u.polyBusy = false →
       (∀ n, n < 8 →
         let p := u.vec.poly n
         PolyReg s (0x030 + n) (p.pdeg.setWidth 64) ∧ PolyReg s (0x038 + n) (BitVec.ofInt 64 p.ps.toInt) ∧
         PolyReg s (0x040 + n) (p.pn.setWidth 64)) ∧
       PolyReg s 0x048 (u.ctl.pflags.setWidth 64)) ∧
     (u.polyBusy = true → ∀ (d a : Reg) (n : BitVec 12), 0x030 ≤ n.toNat → n.toNat ≤ 0x048 →
       Holds (.crr d n) s ∧ Holds (.crw a n) s ∧ Holds (.crs d a n) s ∧ Holds (.crc d a n) s ∧
       ∀ w : Word, ∃ e : QEntry, e.op = .v (.setp n.toNat w) ∧ e.no = u.nextNo ∧
         (s.cut (.setp n.toNat w)).curTeam = { u with q := { u.q with viq := u.q.viq ++ [e] }, nextNo := u.nextNo + 1 })) ∧
   (∀ (s : State) (tk k m : Nat) (w : Word) (e : QEntry) (rest : List QEntry), tk < 640 → (s.team tk).runs = true →
     (s.team tk).q.viq = e :: rest → e.op = .v (.setp m w) → (∀ x ∈ rest, x.no ≠ e.no) → s.ms.ok = true → 0x30 ≤ m → m ≤ 0x48 →
     ∃ t, exec (.viqIssue tk k) s = .next t ∧ (∀ j, j ≠ tk → t.team j = s.team j) ∧
       t.team tk = polyWritten { s.team tk with q := { (s.team tk).q with viq := rest } } m w)) ∧
  (∀ s : State, s.bankFine → s.curTeam.level = .h →
     let u := s.curTeam
     let c := u.ctl
     let keeps := fun (_ : Word) => u
     let sets := fun (f : Word → Ctl) (w : Word) => { u with ctl := f w }
     CtlReg s 0x011#12 c.sc (sets fun w => { c with sc := w }) ∧
     CtlReg s 0x012#12 (c.es.setWidth 64) (sets fun w => { c with es := w.setWidth 16 }) ∧
     CtlReg s 0x019#12 c.seb (sets fun w => { c with seb := w }) ∧
     CtlReg s 0x020#12 (c.mkp.setWidth 64) (sets fun w => { c with mkp := w.setWidth 16 }) ∧
     CtlReg s 0x021#12 c.cp (sets fun w => { c with cp := w }) ∧
     CtlReg s 0x100#12 (c.tcause.setWidth 64) keeps ∧
     CtlReg s 0x101#12 c.tpc (sets fun w => { c with tpc := w &&& 0x01FFFFFFFFFFFFFC#64 }) ∧
     CtlReg s 0x102#12 c.tvpc keeps ∧
     CtlReg s 0x103#12 c.tval keeps ∧
     CtlReg s 0x104#12 (c.tstatus.setWidth 64) keeps ∧
     CtlReg s 0x105#12 u.bind.tvec keeps ∧
     CtlReg s 0x108#12 c.ls0 (sets fun w => { c with ls0 := w }) ∧
     CtlReg s 0x109#12 c.ls1 (sets fun w => { c with ls1 := w }) ∧
     CtlReg s 0x10A#12 c.ls2 (sets fun w => { c with ls2 := w }) ∧
     CtlReg s 0x10B#12 c.ls3 (sets fun w => { c with ls3 := w }) ∧
     CtlReg s 0x10C#12 c.lsm (sets fun w => { c with lsm := w &&& 0x9F0F9F0F9F0F9F0F#64 }) ∧
     (∀ n, n < 8 → CtlReg s (BitVec.ofNat 12 (0x110 + n)) (look 0#64 c.bkp n)
       (sets fun w => { c with bkp := store 0#64 c.bkp n (w &&& 0x01FFFFFFFFFFFFFD#64) })) ∧
     CtlReg s 0x120#12 ((s.stream u.bind.slot).wdLeft.setWidth 64) keeps)

/-- R126, R125, R128, R201: At A-level any number from 0x100 to 0x1FF raises PROTECTION; every other number R127 does not list
raises ILLEGAL at either level; TVAL is the syllable word. VTYPE is read, and written with the source, with its old value OR the
source, or with its old value AND NOT the source, as R201 says of its fields; `crs` and `crc` give the old value. -/
def Obligations.ControlFaults : Prop :=
  (∀ (s : State) (d a : Reg) (n : BitVec 12) (c : Cause),
     (s.curTeam.level = .a ∧ 0x100 ≤ n.toNat ∧ n.toNat ≤ 0x1FF ∧ c = .protection) ∨
       (¬(s.curTeam.level = .a ∧ 0x100 ≤ n.toNat ∧ n.toNat ≤ 0x1FF) ∧ ¬crListed n.toNat ∧ c = .illegal) →
     ∀ i ∈ [Instr.crr d n, .crw a n, .crs d a n, .crc d a n], ∃ t, exec i s = .next t ∧ TrapsS s c (s.cur.word.setWidth 64) t) ∧
  (∀ (s : State) (d a : Reg), s.bankFine →
     let old := s.curTeam.ctl.vtype.setWidth 64
     Gives (.crr d 0x013#12) s s 2 d old ∧
     (∃ t, exec (.crw a 0x013#12) s = .next t ∧ VtypeTaken s (s.rd a) t) ∧
     (∃ t, VtypeTaken s (old ||| s.rd a) t ∧ Gives (.crs d a 0x013#12) s t 2 d old) ∧
     (∃ t, VtypeTaken s (old &&& ~~~(s.rd a)) t ∧ Gives (.crc d a 0x013#12) s t 2 d old))

/-! ### T-ops (R329 to R354) -/

/-- R330, R332: The stream-register T-ops, modulo 2^64, shifts by t[b] mod 64, immediates sign-extended; nothing else changes. T-op
branches and jumps to A + 8 × off, a condition that fails changing nothing; `tjal` leaves A + 8; `tjr` continues at its
register, and one that is no multiple of 8 faults STREAM_MEM with MISALIGN. A target beyond the 57 bits of SPC faults STREAM_MEM
with PAGE_LOAD at the jump, by the model's choice: log 84. -/
def Obligations.StreamArithmetic : Prop :=
  (∀ (s : State) (d a b : TReg) (i : BitVec 44), s.streamFine →
     let x := s.treg a
     let y := s.treg b
     GivesT (.tli d i) s s d (BitVec.ofInt 64 i.toInt) ∧
     GivesT (.tadd d a b) s s d (BitVec.ofNat 64 (x.toNat + y.toNat)) ∧
     GivesT (.taddi d a i) s s d (BitVec.ofInt 64 (x.toInt + i.toInt)) ∧
     GivesT (.tsub d a b) s s d (BitVec.ofInt 64 (x.toInt - y.toInt)) ∧
     GivesT (.tmul d a b) s s d (BitVec.ofNat 64 (x.toNat * y.toNat)) ∧
     GivesT (.tand d a b) s s d (x &&& y) ∧
     GivesT (.tor d a b) s s d (x ||| y) ∧
     GivesT (.tshl d a b) s s d (BitVec.ofNat 64 (x.toNat * 2 ^ (y.toNat % 64))) ∧
     GivesT (.tshr d a b) s s d (BitVec.ofNat 64 (x.toNat / 2 ^ (y.toNat % 64)))) ∧
  (∀ (s : State) (d a b : TReg) (o : BitVec 44),
     let x := s.treg a
     let y := s.treg b
     let dest := s.cur.taddr + BitVec.ofInt 64 (o.toInt * 8)
     let takes := fun (i : Instr) (pc : Word) =>
       (pc.toNat < 2 ^ 57 → GoesTo i s pc) ∧
       (2 ^ 57 ≤ pc.toNat → s.cs.full = false → ∃ t, exec i s = .next t ∧ FaultsT s .streamMem Cause.pageLoad.code pc t)
     (if x = y then takes (.tbeq a b o) dest else exec (.tbeq a b o) s = .next s) ∧
     (if x ≠ y then takes (.tbne a b o) dest else exec (.tbne a b o) s = .next s) ∧
     (if x.toInt < y.toInt then takes (.tblt a b o) dest else exec (.tblt a b o) s = .next s) ∧
     (if y.toInt ≤ x.toInt then takes (.tbge a b o) dest else exec (.tbge a b o) s = .next s) ∧
     takes (.tj o) dest ∧
     (s.streamFine → s.cur.st = .running → dest.toNat < 2 ^ 57 →
       GivesT (.tjal d o) s { s with cur := { s.cur with npc := dest } } d (s.cur.taddr + 8#64)) ∧
     (2 ^ 57 ≤ dest.toNat → s.cs.full = false → ∃ t, exec (.tjal d o) s = .next t ∧ FaultsT s .streamMem Cause.pageLoad.code dest t) ∧
     (x.toNat % 8 = 0 → takes (.tjr a) x) ∧
     (x.toNat % 8 ≠ 0 → s.cs.full = false → ∃ t, exec (.tjr a) s = .next t ∧ FaultsT s .streamMem 3 x t))

/-- R121, R331, R350: `tld` and `tread` give the eight bytes at their address at the home, `tread` once no older task that writes
the buffer is in the window; `tst` waits for an empty window and stores eight bytes at the home. A misaligned or untranslated
access faults STREAM_MEM, as does a read in the scale area of a blocked page, a `tld` anywhere on one and a `tst` there. What of
an older task counts as writing the buffer of a `tread` is the model's choice where the task names no such buffer: log 55. -/
def Obligations.StreamMemory : Prop :=
  (∀ (s : State) (d a b : TReg) (o : BitVec 44) (m : MemSys) (x : Xlat),
    let ea := s.treg a + BitVec.ofInt 64 o.toInt
    (ReachesT s .read ea m x → pageBlk x.ent.leaf = 0 → m.poisoned x.pa = false →
      GivesT (.tld d a o) s { s with ms := m } d (BitVec.ofNat 64 (m.homeRead x.pa 8))) ∧
    (s.cs.window ≠ [] → Holds (.tst a b o) s) ∧
    (ReachesT s .write ea m x → s.cs.window = [] → ∃ t, exec (.tst a b o) s = .next t ∧ t = { s with ms := t.ms } ∧
      t.ms.homeRead x.pa 8 = (s.treg b).toNat ∧
      ∀ p, p < x.pa ∨ x.pa + 8 ≤ p → ¬markBytes m x ea.toNat p → t.ms.byteAt p = m.byteAt p) ∧
    (ea.toNat % 8 ≠ 0 → s.cs.full = false → (∃ t, exec (.tld d a o) s = .next t ∧ FaultsT s .streamMem 3 ea t) ∧
      (s.cs.window = [] → ∃ t, exec (.tst a b o) s = .next t ∧ FaultsT s .streamMem 3 ea t)) ∧
    (∀ c, ea.toNat % 8 = 0 → s.txlat .read ea = (m, .error c) → s.cs.full = false →
      ∃ t, exec (.tld d a o) s = .next t ∧ FaultsT { s with ms := m } .streamMem c.code ea t) ∧
    (ea.toNat % 8 = 0 → s.txlat .read ea = (m, .ok x) → inScaleArea x.ent ea.toNat = true ∨ pageBlk x.ent.leaf ≠ 0 → s.cs.full = false →
      ∃ t, exec (.tld d a o) s = .next t ∧ FaultsT { s with ms := m } .streamMem Cause.format.code ea t) ∧
    (ea.toNat % 8 = 0 → s.txlat .write ea = (m, .ok x) → pageBlk x.ent.leaf ≠ 0 → s.cs.window = [] →
      ∃ t, exec (.tst a b o) s = .next t ∧ FaultsT { s with ms := m } .streamMem Cause.format.code ea t)) ∧
  (∀ (s : State) (d : TReg) (lb : BitVec 8) (off : BitVec 36) (r : Ref) (m : MemSys) (x : Xlat),
    let ea := r.base + off.setWidth 64
    (s.part s.cs.part).refOf (s.cs.lbuf lb.toNat) = some r → off.toNat < r.size →
      ((∃ e ∈ s.cs.window, e.writesRef r = true) → Holds (.tread d lb off) s) ∧
      ((∀ e ∈ s.cs.window, e.writesRef r = false) → s.txlat .read ea = (m, .ok x) →
        (inScaleArea x.ent ea.toNat = true → s.cs.full = false →
          ∃ t, exec (.tread d lb off) s = .next t ∧ FaultsT { s with ms := m } .streamMem Cause.format.code ea t) ∧
        (inScaleArea x.ent ea.toNat = false → m.poisoned x.pa = false → s.streamFine →
          GivesT (.tread d lb off) s { s with ms := m } d (BitVec.ofNat 64 (m.homeRead x.pa 8)))))

/-- R335 to R338: `tbuf`, `tbind` and `tfree` complete at decode, each an entry in the window, the map's new state and the physical
buffer to free at retirement; `tbind` asks for a declared buffer and an aligned region that translates (every page of it: log
32, by inference). A full window stalls decode; an undeclared buffer is a fault. How stalls are counted follows log 30. -/
def Obligations.StreamBuffers : Prop :=
  ∀ (s : State) (lb : BitVec 8) (n : BitVec 6) (f : BitVec 5) (pl : BitVec 2) (a : TReg),
    let old := fun (op : EntryOp) => { entryFor s op .complete with oldDesc := (s.cs.lbuf lb.toNat).held }
    let sp := s.streamSpace s.cur.k
    let base := s.treg a
    (s.cs.full = true → StallsT (.tbuf lb n f pl) s ∧ StallsT (.tfree lb) s) ∧
    (s.cs.full = false →
      (∃ t, exec (.tbuf lb n f pl) s = .next t ∧ PutsEntry s (old (.buf lb.toNat n.toNat f.toNat pl.toNat))
        (put s.cs.smap lb.toNat (.renamable n.toNat f.toNat pl.toNat none)) t) ∧
      (∃ t, exec (.tfree lb) s = .next t ∧ PutsEntry s (old (.free lb.toNat)) (drop s.cs.smap lb.toNat) t) ∧
      (s.cs.lbuf lb.toNat = .undeclared → ∃ t, exec (.tbind lb a) s = .next t ∧ FaultsT s .undeclared 1 s.cur.tword t) ∧
      ∀ k g q, ((∃ d, s.cs.lbuf lb.toNat = .renamable k g q d) ∨ ∃ b, s.cs.lbuf lb.toNat = .fixed k g q b) →
        base.toNat % 64 = 0 → regionHole s.ms sp.1 sp.2 (base.toNat + 2 ^ k) (2 ^ k / 65536 + 2) base.toNat = none →
        ∃ t, exec (.tbind lb a) s = .next t ∧ PutsEntry s (old (.bind lb.toNat base)) (put s.cs.smap lb.toNat (.fixed k g q base)) t)

/-- R33, R97, R341, R342, R334, R343, R344: A launch whose header and kernel agree and whose operands resolve enters the window as a
waiting task of all its gangs; one whose gang count is out of range is MALFORMED, one whose kernel is not in the table, or
differs from the header in its gang size, its local memory or its argument kinds, is a KERNEL fault, and one with an undeclared
operand UNDECLARED. What the kernel index table names, what counts as the argument kind of an operand word, and that a renamable
output named twice takes one descriptor, are the model's reading: logs 29, 33 and 58. `tcopy` of declared buffers enters the
window as a task, a renamable destination taking the fitting descriptor nearest the head of the free list; `tnm` and its
broadcast enter with no operand at all. -/
def Obligations.TaskEntry : Prop :=
  (∀ (s : State) (h : LaunchHdr) (ops : List LaunchOp), s.cs.full = false →
     let x := s.cs
     let p := s.part x.part
     let n := if h.a = 0#4 then h.gc.toNat else (s.treg h.a).toNat
     (∀ o k r, 1 ≤ n → n ≤ 65535 → s.kernelOf s.cur.k h.ker.toNat = some (o, k) → k.gsz = h.gsz.toNat + 1 → k.lmu = h.lm.toNat →
       k.kinds = ops.filterMap opKind → resolveTask p x (ops.filterMap opIn) (ops.filterMap opOut) = .ok r →
       ∃ t, exec (.tlaunch h ops) s = .next t ∧
         Enters s r (.launch h.ker.toNat n (h.gsz.toNat + 1) h.lm.toNat (argValues x r ops r.ins)) (ops.filterMap (opRaw x))
           (ops.any (fun o => match o with | .after _ => true | _ => false)) (speculable k.pure r.outs (ops.filterMap (opRaw x)))
           (List.replicate n .waiting) t) ∧
     (n = 0 ∨ 65535 < n → ∃ t, exec (.tlaunch h ops) s = .next t ∧ ∃ e, t.cs.window = s.cs.window ++ [e] ∧ e.st = .faulted ∧
       e.fault = some { reason := .malformed, cause := 1, gidx := 0, tidx := 0, tval := s.cur.tword }) ∧
     (1 ≤ n → n ≤ 65535 →
       (s.kernelOf s.cur.k h.ker.toNat = none ∨ ∃ o k, s.kernelOf s.cur.k h.ker.toNat = some (o, k) ∧
         (k.gsz ≠ h.gsz.toNat + 1 ∨ k.lmu ≠ h.lm.toNat ∨ k.kinds ≠ ops.filterMap opKind)) → ∃ t, exec (.tlaunch h ops) s = .next t ∧ ∃ e,
       t.cs.window = s.cs.window ++ [e] ∧ e.st = .faulted ∧ e.seq = some x.seq ∧
       e.fault = some { reason := .kernel, cause := 1, gidx := 0, tidx := 0, tval := s.cur.tword }) ∧
     (∀ o k r, 1 ≤ n → n ≤ 65535 → s.kernelOf s.cur.k h.ker.toNat = some (o, k) → k.gsz = h.gsz.toNat + 1 → k.lmu = h.lm.toNat →
       k.kinds = ops.filterMap opKind → resolveTask p x (ops.filterMap opIn) (ops.filterMap opOut) = .error (.undeclared r) →
       ∃ t, exec (.tlaunch h ops) s = .next t ∧ ∃ e, t.cs.window = s.cs.window ++ [e] ∧ e.st = .faulted ∧ e.seq = some x.seq ∧
         e.fault = some { reason := .undeclared, cause := 1, gidx := 0, tidx := 0, tval := s.cur.tword })) ∧
  (∀ (s : State) (dst src : BitVec 8) (a : TReg), s.cs.full = false →
     let x := s.cs
     let p := s.part x.part
     let none' : Resolve := { ins := [], outs := [], renamed := [], smap := x.smap, free := p.free }
     (∀ i n f pl old d, p.refOf (x.lbuf src.toNat) = some i → x.lbuf dst.toNat = .renamable n f pl old →
       p.free.find? (fun y => decide (n ≤ y.cap) && decide (y.place = pl)) = some d →
       let o : Ref := .desc d.id d.base (2 ^ n)
       ∃ t, exec (.tcopy dst src) s = .next t ∧
         Enters s { ins := [i], outs := [o], renamed := [(dst.toNat, d.id)], smap := put x.smap dst.toNat (.renamable n f pl (some d.id)),
                    free := p.free.filter (fun y => y.id ≠ d.id) } (.copy i o (min i.size (2 ^ n))) [] false true [] t) ∧
     (∀ i n f pl b, p.refOf (x.lbuf src.toNat) = some i → x.lbuf dst.toNat = .fixed n f pl b →
       let o : Ref := .region b (2 ^ n)
       ∃ t, exec (.tcopy dst src) s = .next t ∧
         Enters s { none' with ins := [i], outs := [o] } (.copy i o (min i.size (2 ^ n))) [] false false [] t) ∧
     (∃ t, exec (.tnm a) s = .next t ∧ Enters s none' (.nm false (s.treg a)) [] false false [] t) ∧
     ∃ t, exec (.tnmAll a) s = .next t ∧ Enters s none' (.nm true (s.treg a)) [] false false [] t)

/-- R351, R352, R353, R354: `tsig`, `twait` and `tfence` each enter the window, the first and last complete, the second waiting for
its knot. `tsys` and `thalt` hold while the window is not empty. `thalt` then ends the stream; `tsys` 1 and 3 give 1 and an
unlisted number all ones in t1; `tsys` 2 posts its call once, holds until it is answered, and goes on. -/
def Obligations.StreamOrdering : Prop :=
  (∀ (s : State) (a b : TReg), s.cs.full = false →
     (∀ m x, KnotT s .write (s.treg a) m x → ∃ t, exec (.tsig a b) s = .next t ∧
       PutsEntry { s with ms := m } (entryFor s (.sig (s.treg a) (s.treg b)) .complete) s.cs.smap t) ∧
     (∀ m x, KnotT s .read (s.treg a) m x → ∃ t, exec (.twait a b) s = .next t ∧
       PutsEntry { s with ms := m } (entryFor s (.wait (s.treg a) (s.treg b)) .waiting) s.cs.smap t) ∧
     (∃ t, exec .tfence s = .next t ∧ PutsEntry s (entryFor s .fence .complete) s.cs.smap t)) ∧
  (∀ (s : State) (c : BitVec 16),
     (s.cs.window ≠ [] → Holds .thalt s ∧ Holds (.tsys c) s) ∧
     (s.cs.window = [] →
       (∃ t, exec .thalt s = .next t ∧ OnlyStream s.cur.k s t ∧ t.cs = { s.cs with ending := some .done }) ∧
       (s.streamFine → c.toNat = 1 ∨ c.toNat = 3 → GivesT (.tsys c) s s 1#4 1#64) ∧
       (s.streamFine → c.toNat = 0 ∨ 3 < c.toNat → GivesT (.tsys c) s s 1#4 (BitVec.allOnes 64)) ∧
       (c = 2#16 → s.cs.answered = true → ∃ t, exec (.tsys c) s = .next t ∧ OnlyStream s.cur.k s t ∧
         t.cs = { s.cs with posted := false, answered := false }) ∧
       (c = 2#16 → s.cs.answered = false → s.cs.posted = true → Holds (.tsys c) s) ∧
       (c = 2#16 → s.cs.answered = false → s.cs.posted = false → ∃ t, exec (.tsys c) s = .next t ∧
         OnlyStream s.cur.k { s with syscalls := s.syscalls ++ [{ caller := .stream s.cur.k, num := 2 }], cur := { s.cur with st := .held } } t ∧
         t.cs = { s.cs with posted := true })))

/-! ### The queues execute (R209 to R236, R275 to R287) -/

/-- R209, R215, R219, R223: The integer syllables, over their next n elements or all that are left: each of these that is enabled
takes the operation's value of its two sources, the second one a register or the captured scalar; the other elements, registers
and masks stay. The saturating ones raise SX where a value was clamped, and nothing else raises a flag. That the pipes perform
as many elements at a turn as the turn names is the model's choice: log 6. -/
def Obligations.VectorIntegerElements : Prop :=
  ∀ (s : State) (tk n : Nat) (h : QEntry) (rest : List QEntry) (f : VInt) (o : VSc), ReadyAt s tk h rest (.int f o) →
    let u := s.team tk
    let hi := if n = 0 then h.gl else min h.gl (h.start + n)
    let now := fun (i : Nat) => h.start ≤ i ∧ i < hi ∧ u.vec.mask o.m.toNat i = true
    let a := fun (i : Nat) => BitVec.ofNat h.w (elem h.w (u.vec.reg o.a.toNat) i)
    let b := fun (i : Nat) => BitVec.ofNat h.w (if o.s then h.z.toNat else elem h.w (u.vec.reg o.b.toNat) i)
    let clamped := fun (i : Nat) => match f with
      | .sadd => (a i).toInt + (b i).toInt ≠ (intSays f (a i) (b i)).toInt
      | .ssub => (a i).toInt - (b i).toInt ≠ (intSays f (a i) (b i)).toInt
      | .saddU => (a i).toNat + (b i).toNat ≠ (intSays f (a i) (b i)).toNat
      | .ssubU => (a i).toNat < (b i).toNat
      | _ => False
    ∃ t fl, exec (.viqIssue tk n) s = .next t ∧ WentV s tk h rest o.d.toNat hi fl t ∧
      (∀ i, i < h.gl → (now i → elem h.w ((t.team tk).vec.reg o.d.toNat) i = (intSays f (a i) (b i)).toNat) ∧
        (¬now i → elem h.w ((t.team tk).vec.reg o.d.toNat) i = elem h.w (u.vec.reg o.d.toNat) i)) ∧
      ((∀ i, now i → ¬clamped i) → fl = h.fl) ∧ ((∃ i, now i ∧ clamped i) → fl = h.fl ||| 0x20#6)

/-- R199, R229, R230, R202, R232 to R236, R241, R231, R232, R85: An integer comparison writes the enabled bits of its mask below GL
and no other bit or register; a mask of a mask operation likewise. k0 reads 1 throughout. Moves across elements, broadcasts and
index vectors, an index at or above GL reading zero; a scatter, whose higher-numbered element wins; compression to the lowest
places and its inverse; insertion of a scalar; `vtocb`, whose entries from GL on are zero. The mask queries and `vext` leave
their result in a scalar register of the team, and touch no vector register. -/
def Obligations.VectorMasksAndMoves : Prop :=
  (∀ (s : State) (tk n : Nat) (h : QEntry) (rest : List QEntry) (o : VSc) (k : VK) (c : VCmp) (g : KOp), h.gl ≤ 8192 →
     n = 0 ∨ h.gl ≤ n → rising (s.team tk).vec.k = true →
     let u := s.team tk
     let a := fun (i : Nat) => BitVec.ofNat h.w (elem h.w (u.vec.reg o.a.toNat) i)
     let b := fun (i : Nat) => BitVec.ofNat h.w (if o.s then h.z.toNat else elem h.w (u.vec.reg o.b.toNat) i)
     let holdsAt := fun (i : Nat) => match c with
       | .eq => decide (a i = b i)
       | .ne => decide (a i ≠ b i)
       | .lt => decide ((a i).toInt < (b i).toInt)
       | .ge => decide ((b i).toInt ≤ (a i).toInt)
       | .ltu => decide ((a i).toNat < (b i).toNat)
       | _ => decide ((b i).toNat ≤ (a i).toNat)
     let x := fun (i : Nat) => u.vec.mask k.a.toNat i
     let y := fun (i : Nat) => u.vec.mask k.b.toNat i
     let both := fun (i : Nat) => match g with
       | .and => x i && y i
       | .or => x i || y i
       | .xor => x i != y i
       | .inv => !x i
     (ReadyV s tk h rest (.cmp c o) → o.d.toNat ≠ 0 → (c = .eq ∨ c = .ne ∨ c = .lt ∨ c = .ge ∨ c = .ltu ∨ c = .geu) →
       ∃ t, exec (.viqIssue tk n) s = .next t ∧ (t.team tk).q.viq = rest ∧ (∀ r, (t.team tk).vec.reg r = u.vec.reg r) ∧
         ∀ j i, (t.team tk).vec.mask j i =
           if j = o.d.toNat ∧ i < h.gl ∧ u.vec.mask o.m.toNat i = true then holdsAt i else u.vec.mask j i) ∧
     (ReadyV s tk h rest (.kop g k) → k.d.toNat ≠ 0 →
       ∃ t, exec (.viqIssue tk n) s = .next t ∧ (t.team tk).q.viq = rest ∧ (∀ r, (t.team tk).vec.reg r = u.vec.reg r) ∧
         ∀ j i, (t.team tk).vec.mask j i =
           if j = k.d.toNat ∧ i < h.gl ∧ u.vec.mask k.m.toNat i = true then both i else u.vec.mask j i)) ∧
  (∀ (s : State) (tk n : Nat) (h : QEntry) (rest : List QEntry) (p : VS) (o : VV) (q : VSc) (v : V1) (d a : Reg) (m : BitVec 4),
     n = 0 ∨ h.gl ≤ n →
     let u := s.team tk
     let src := fun (r : Reg) (i : Nat) => elem h.w (u.vec.reg r.toNat) i
     let dst := fun (t : State) (r : Reg) (i : Nat) => elem h.w ((t.team tk).vec.reg r.toNat) i
     let ends := fun (op : VOp) (d : Reg) (val : Nat → Nat) => ReadyV s tk h rest op →
       ∃ t, exec (.viqIssue tk n) s = .next t ∧ DoneV s tk h rest d.toNat t ∧ (t.team tk).ctl.fflags = u.ctl.fflags ||| h.fl ∧
         ∀ i, i < h.gl → dst t d i = val i
     let runs := fun (op : VOp) (d : Reg) (m : Nat) (val : Nat → Nat) =>
       ends op d (fun i => if u.vec.mask m i then val i else src d i)
     let k := h.z.toNat
     let picked := fun (m : BitVec 4) (n : Nat) => (List.range n).filter (fun i => u.vec.mask m.toNat i)
     runs (.slide true p) p.d p.m.toNat (fun i => if k ≤ i then src p.a (i - k) else 0) ∧
     runs (.slide false p) p.d p.m.toNat (fun i => if i + k < h.gl then src p.a (i + k) else 0) ∧
     runs (.gath o) o.d o.m.toNat (fun i => if src o.b i < h.gl then src o.a (src o.b i) else 0) ∧
     ends (.scat o) o.d (fun j => match ((picked o.m h.gl).filter (fun i => decide (src o.b i = j))).getLast? with
       | some i => src o.a i
       | none => src o.d j) ∧
     runs (.merge q) q.d 0 (fun i => if u.vec.mask q.m.toNat i then (if q.s then k % 2 ^ h.w else src q.b i) else src q.a i) ∧
     ends (.compress v) v.d (fun j => match (picked v.m h.gl)[j]? with | some i => src v.a i | none => src v.d j) ∧
     runs (.expand v) v.d v.m.toNat (fun i => src v.a (picked v.m i).length) ∧
     runs (.mv v) v.d v.m.toNat (fun i => src v.a i) ∧
     runs (.ins d m) d m.toNat (fun i => if i = k then h.y.toNat % 2 ^ h.w else src d i) ∧
     runs (.bcast d m) d m.toNat (fun _ => k % 2 ^ h.w) ∧
     runs (.vid d m) d m.toNat (fun i => i % 2 ^ h.w) ∧
     (ReadyV s tk h rest (.tocb d a) → h.w = 16 → rising u.vec.cb = true → ∃ t, exec (.viqIssue tk n) s = .next t ∧
       (t.team tk).q.viq = rest ∧ (t.team tk).vec = { u.vec with cb := (t.team tk).vec.cb } ∧
       ∀ j i, i < 16 → (look 0#16 (t.team tk).vec.cb (j * 16 + i)).toNat =
         if j = d.toNat then (if i < h.gl then src a i else 0) else (look 0#16 u.vec.cb (j * 16 + i)).toNat)) ∧
  (∀ (s : State) (tk n : Nat) (h : QEntry) (rest : List QEntry) (d a : Reg), d ≠ 0#5 → bankOk (s.team tk).bank = true →
     let u := s.team tk
     let set := (List.range h.gl).filter (fun i => u.vec.mask a.toNat i)
     let x := if h.z.toNat < h.gl then elem h.w (u.vec.reg a.toNat) h.z.toNat else 0
     let runs := fun (op : VOp) (v : Word) => ReadyV s tk h rest op → ∃ t, exec (.viqIssue tk n) s = .next t ∧
       (t.team tk).reg d = v ∧ (∀ r, r ≠ d → (t.team tk).reg r = u.reg r) ∧ (t.team tk).vec = u.vec ∧ (t.team tk).q.viq = rest
     runs (.kq .count d a) (BitVec.ofNat 64 set.length) ∧
     runs (.kq .any d a) (if set = [] then 0#64 else 1#64) ∧
     runs (.kq .first d a) (match set with | [] => BitVec.allOnes 64 | i :: _ => BitVec.ofNat 64 i) ∧
     runs (.ext d a) (if (vtFmt h.vtype).isSigned then BitVec.ofInt 64 (toSigned h.w x) else BitVec.ofNat 64 x))

/-- R172, R216: A first error on the next V syllable only marks it for replay, as does a first mirror mismatch, each of its own; a
second one at its first element leaves it with the trap UE_CONSUMED, or MIRROR_MISMATCH. -/
def Obligations.ReplayThenTrap : Prop :=
  ∀ (s : State) (tk : Nat) (h : QEntry) (rest : List QEntry) (f : VInt) (o : VSc) (mirror : Bool), ReadyV s tk h rest (.int f o) →
    (mirror = true → (s.team tk).bind.prot = true) →
    let u := s.team tk
    let trap : TrapInfo := { cause := if mirror then .mirrorMismatch else .ueConsumed, tval := 0#64 }
    let second := if mirror then h.remirrored else h.replayed
    ∃ t, exec (.ueReplay tk 0 mirror) s = .next t ∧ OnlyTeam tk s t ∧ t.team tk = { u with q := { u.q with viq :=
      (if second then { h with fault := some trap, probe := none, done := false }
       else if mirror then { h with remirrored := true } else { h with replayed := true }) :: rest } }

/-- R220, R224 to R229, R107, R113, R114, R224 to R228, R237 to R240, R262 to R271, R244: Floating-point syllables: each enabled
element takes the operation's exact result rounded once by the captured mode, a minimum, a class, a conversion, or a
comparison's bit of its mask; the flags raised are those of the enabled elements together. An element of a format is its own
rounding; a NaN operand of a sum, product or quotient makes it canonical. The functions' values: a NaN gives the canonical NaN,
a signalling one raising NV; roots, reciprocals, 2^x and log2 x have the special values and exact cases listed; a minimum or
maximum is one operand, -0 below +0, a lone NaN giving way; a class is one bit; a comparison follows the patterns' order; a
conversion takes what is representable exactly, rounds to an integer by the mode and clamps, and takes a float to e8m0 by its
floor exponent. Reductions, folds and scans: `vred` leaves the combination of the enabled elements in element 0, `vfold` that of
each of the lower 64 elements with the enabled ones congruent to it modulo 64, `vscan` in each enabled element that of the
enabled ones up to it; no other element changes, and the flags are those of the results. That a quiet NaN beside both infinities
raises no flag is the model's choice: log 112. The polynomial syllables. `ppinit` leaves the constant 1 and clears PT,
`ppinit.norm` divides by a power of two; one factor of `ppmul` multiplies by a + bx, each coefficient exact and rounded once, a
nonzero term beyond PDEG setting PT; `ppdiv` divides by a + bx from the end that keeps it stable, setting PX where that end is
not the constant's but PT is set; `ppmv` moves coefficients to and from a vector register. That a coefficient -0 counts as the
exact zero +0 follows log 61. A repeat frame at the head of the queue, its captured syllables behind it: the next of them, an
integer one, is performed with every vector register of it moved on by the stride for each pass, modulo 32, then stands ready
for the next pass; behind the last syllable of the last pass the frame is gone. -/
def Obligations.VectorArithmetic : Prop :=
  ((∀ (s : State) (tk n : Nat) (h : QEntry) (rest : List QEntry) (o : VSc) (v : VV) (p : V1) (q : VS) (np nc : Bool),
     n = 0 ∨ h.gl ≤ n →
     let u := s.team tk
     let fmt := vtFmt h.vtype
     let ff := fmt.ff
     let src := fun (r : Reg) (i : Nat) => elem h.w (u.vec.reg r.toNat) i
     let at' := fun (r : Reg) (i : Nat) => ff.decode (src r i)
     let y := fun (i : Nat) => if o.s then h.z.toNat % 2 ^ h.w else src o.b i
     let mode := fun (i : Nat) => (h.rnd i).mode
     let runs := fun (op : VOp) (d : Reg) (m : BitVec 4) (val : Nat → Nat × Flags) => ReadyV s tk h rest op →
       ∃ t, exec (.viqIssue tk n) s = .next t ∧ DoneV s tk h rest d.toNat t ∧
         (t.team tk).ctl.fflags = u.ctl.fflags ||| h.fl ||| orFlagsOf h.gl (u.vec.mask m.toNat) (fun i => (val i).2) ∧
         ∀ i, i < h.gl → elem h.w ((t.team tk).vec.reg d.toNat) i = if u.vec.mask m.toNat i then (val i).1 % 2 ^ h.w else src d i
     let sets := fun (c : VCmp) (val : Nat → Bool × Flags) => ReadyV s tk h rest (.cmp c o) → o.d.toNat ≠ 0 → h.gl ≤ 8192 →
       rising u.vec.k = true → ∃ t, exec (.viqIssue tk n) s = .next t ∧ (t.team tk).q.viq = rest ∧
         (t.team tk).vec = { u.vec with k := (t.team tk).vec.k } ∧
         (t.team tk).ctl.fflags = u.ctl.fflags ||| h.fl ||| orFlagsOf h.gl (u.vec.mask o.m.toNat) (fun i => (val i).2) ∧
         ∀ j i, (t.team tk).vec.mask j i =
           if j = o.d.toNat ∧ i < h.gl ∧ u.vec.mask o.m.toNat i = true then (val i).1 else u.vec.mask j i
     let sig := fun (i : Nat) => sigFlag (at' o.a i) ||| sigFlag (ff.decode (y i))
     let nans := fun (i : Nat) => (at' o.a i).isNan || (ff.decode (y i)).isNan
     runs (.fp2 .add o) o.d o.m (fun i => ff.finish ((at' o.a i).add (ff.decode (y i)) (mode i)) (h.rnd i)) ∧
     runs (.fp2 .sub o) o.d o.m (fun i => ff.finish ((at' o.a i).add (ff.decode (y i)).neg (mode i)) (h.rnd i)) ∧
     runs (.fp2 .mul o) o.d o.m (fun i => ff.finish ((at' o.a i).mul (ff.decode (y i))) (h.rnd i)) ∧
     runs (.fp2 .div o) o.d o.m (fun i => ff.div (at' o.a i) (ff.decode (y i)) (h.rnd i)) ∧
     runs (.fp2 .min o) o.d o.m (fun i => ff.minmax false (src o.a i) (y i)) ∧
     runs (.fp2 .max o) o.d o.m (fun i => ff.minmax true (src o.a i) (y i)) ∧
     runs (.fma np nc v) v.d v.m (fun i => ff.finish ((at' v.a i).fma (at' v.b i) (at' v.d i) np nc (mode i)) (h.rnd i)) ∧
     runs (.fp1 .sqrt p) p.d p.m (fun i => ff.sqrt (at' p.a i) (h.rnd i)) ∧
     runs (.fp1 .rcp p) p.d p.m (fun i => ff.rcp (at' p.a i) (h.rnd i)) ∧
     runs (.fp1 .rsq p) p.d p.m (fun i => ff.rsq (at' p.a i) (h.rnd i)) ∧
     runs (.fp1 .exp2 p) p.d p.m (fun i => ff.exp2 (at' p.a i) (h.rnd i)) ∧
     runs (.fp1 .log2 p) p.d p.m (fun i => ff.log2 (at' p.a i) (h.rnd i)) ∧
     runs (.cls p) p.d p.m (fun i => (ff.classBit (src p.a i), 0)) ∧
     sets .feq (fun i => ((at' o.a i).eq (ff.decode (y i)), sig i)) ∧
     sets .flt (fun i => ((at' o.a i).lt (ff.decode (y i)), if nans i then 0x10#6 else 0)) ∧
     sets .fle (fun i => (!nans i && !(ff.decode (y i)).lt (at' o.a i), if nans i then 0x10#6 else 0)) ∧
     sets .funord (fun i => (nans i, sig i)) ∧
     (let w2 := (Fmt.ofVtype q.b.toNat).width
      let m := if w2 ≤ h.w then h.gl else h.gl * h.w / w2
      let val := fun (i : Nat) => convert fmt (Fmt.ofVtype q.b.toNat) (src q.a i) (h.rnd i)
      ReadyV s tk h rest (.cvt q) → ∃ t, exec (.viqIssue tk n) s = .next t ∧ DoneV s tk h rest q.d.toNat t ∧
        (t.team tk).ctl.fflags = u.ctl.fflags ||| h.fl ||| orFlagsOf m (u.vec.mask q.m.toNat) (fun i => (val i).2) ∧
        (∀ i, i < m → elem w2 ((t.team tk).vec.reg q.d.toNat) i =
          if u.vec.mask q.m.toNat i then (val i).1 % 2 ^ w2 else elem w2 (u.vec.reg q.d.toNat) i) ∧
        (w2 < h.w → ((t.team tk).vec.reg q.d.toNat).toNat / 2 ^ (h.gl * w2) % 2 ^ (h.gl * (h.w - w2)) = 0))) ∧
   ∀ (ff : FF) (r : Rnd) (x : Nat) (a b : FVal), ff = ffF32 ∨ ff = ffBf16 ∨ ff = ffF16 →
     (x < 2 * ff.signBit → (ff.decode x).isNan = false → ff.encode (ff.decode x) r = (x, 0)) ∧
     (a.isNan = true ∨ b.isNan = true → ff.finish (a.add b r.mode) r = (ff.canonNan, sigFlag a ||| sigFlag b) ∧
       ff.finish (a.mul b) r = (ff.canonNan, sigFlag a ||| sigFlag b) ∧ ff.div a b r = (ff.canonNan, sigFlag a ||| sigFlag b))) ∧
  (let nv := 0x10#6
   (∀ (f : FF) (r : Rnd) (a : FVal) (n q : Bool) (m : Nat) (e p : Int), f = ffF32 ∨ f = ffBf16 ∨ f = ffF16 →
     let bad := (f.canonNan, nv)
     let zero := (if n then f.signBit else 0, 0#6)
     let inf := (if n then f.signBit else 0) + f.infBits
     (∀ op ∈ [f.sqrt, f.rcp, f.rsq, f.exp2, f.log2], op (.nan q) r = (f.canonNan, if q then nv else 0)) ∧
     (f.sqrt (.fin n 0 e) r = zero ∧ f.sqrt (.inf false) r = (f.infBits, 0) ∧ f.sqrt (.inf true) r = bad ∧
       (m ≠ 0 → f.sqrt (.fin true m e) r = bad) ∧
       ∀ x, x < f.signBit → f.decode x = .fin false m e → m ≠ 0 → SameNumber a (.fin false (m * m) (2 * e)) → f.sqrt a r = (x, 0)) ∧
     (f.rcp (.fin n 0 e) r = (inf, 8#6) ∧ f.rcp (.inf n) r = zero ∧
       (SameNumber a (.fin n 1 p) → f.rcp a r = f.encode (.fin n 1 (-p)) r)) ∧
     (f.rsq (.fin n 0 e) r = (inf, 8#6) ∧ f.rsq (.inf false) r = (0, 0) ∧ f.rsq (.inf true) r = bad ∧
       (m ≠ 0 → f.rsq (.fin true m e) r = bad) ∧
       (SameNumber a (.fin false 1 (2 * p)) → f.rsq a r = f.encode (.fin false 1 (-p)) r)) ∧
     (f.exp2 (.inf false) r = (f.infBits, 0) ∧ f.exp2 (.inf true) r = (0, 0) ∧
       (SameNumber a (FVal.ofInt p) ∨ p = 0 ∧ a = .fin n 0 e → f.exp2 a r = f.encode (.fin false 1 p) r)) ∧
     (f.log2 (.fin n 0 e) r = (f.signBit + f.infBits, 8#6) ∧ f.log2 (.inf false) r = (f.infBits, 0) ∧ f.log2 (.inf true) r = bad ∧
       (m ≠ 0 → f.log2 (.fin true m e) r = bad) ∧
       (SameNumber a (.fin false 1 p) → f.log2 a r = f.encode (FVal.ofInt p) r)) ∧
     (m ≠ 0 → f.div (.fin q m p) (.fin (q != n) 0 e) r = (inf, 8#6)) ∧
     f.div (.fin q 0 p) (.fin n 0 e) r = bad ∧ f.div (.inf q) (.inf n) r = bad) ∧
   (∀ (f : FF) (x y : Nat), f = ffF32 ∨ f = ffBf16 ∨ f = ffF16 → x < 2 * f.signBit → y < 2 * f.signBit →
     let a := f.decode x
     let b := f.decode y
     let le := decide (placeOf f x ≤ placeOf f y)
     let zeros := a.isZero && b.isZero
     let fl := sigFlag a ||| sigFlag b
     let ex := x / 2 ^ f.mb % 2 ^ f.eb
     let fr := x % 2 ^ f.mb
     let neg := decide (f.signBit ≤ x)
     (∀ mx : Bool, (a.isNan = true → b.isNan = true → f.minmax mx x y = (f.canonNan, fl)) ∧
       (a.isNan = true → b.isNan = false → f.minmax mx x y = (y, fl)) ∧ (a.isNan = false → b.isNan = true → f.minmax mx x y = (x, fl)) ∧
       (a.isNan = false → b.isNan = false → f.minmax mx x y = (if le = mx then y else x, 0))) ∧
     (a.isNan = false → b.isNan = false → a.lt b = (le && decide (x ≠ y) && !zeros) ∧ a.eq b = (decide (x = y) || zeros)) ∧
     f.classBit x = 2 ^ (if ex = 2 ^ f.eb - 1 then (if fr = 0 then (if neg then 0 else 7) else if fr < 2 ^ (f.mb - 1) then 8 else 9)
       else if ex = 0 then (if fr = 0 then (if neg then 3 else 4) else if neg then 2 else 5) else if neg then 1 else 6)) ∧
   ∀ (src dst : Fmt) (x : Nat) (r : Rnd), src.isReg = true → dst.isReg = true → x < 2 ^ src.width →
     let v := src.val x
     let w := dst.width
     let f := dst.ff
     let lo : Int := if dst.isSigned then -2 ^ (w - 1) else 0
     let hi : Int := if dst.isSigned then 2 ^ (w - 1) - 1 else 2 ^ w - 1
     let bits := fun (k : Int) => (BitVec.ofInt w (max lo (min k hi))).toNat
     let fits := fun (k : Int) => decide (lo ≤ k) && decide (k ≤ hi)
     (dst.isFloat = true →
       (∀ q, v = .nan q → convert src dst x r = (f.canonNan, if q then nv else 0)) ∧
       (∀ y, y < 2 * f.signBit → SameNumber v (f.decode y) → convert src dst x r = (y, 0)) ∧
       ∀ n, v = .inf n → convert src dst x r =
         if f.hasInf = true then ((if n then f.signBit else 0) + f.infBits, 0) else ((if n then 0x80 else 0) + 0x7E, 5#6)) ∧
     (src.isInt = true → dst.isInt = true →
       convert src dst x r = (bits (src.intVal x), if fits (src.intVal x) then 0 else 0x20#6)) ∧
     (src.isFloat = true → dst.isInt = true →
       (∀ q, v = .nan q → convert src dst x r = (0, nv)) ∧
       (∀ n, v = .inf n → convert src dst x r = (bits (if n then lo else hi), nv)) ∧
       ∀ n m e, v = .fin n m e →
         let num : Int := (if n then -(m : Int) else m) * 2 ^ e.toNat
         let den : Nat := 2 ^ (-e).toNat
         ∃ k, RoundsTo r.mode num den k ∧
           convert src dst x r = (bits k, if fits k = false then nv else if num % (den : Int) = 0 then 0 else 1#6)) ∧
     (src.isFloat = true → dst = .e8m0 →
       (v.isNan = true ∨ v.isInf = true ∨ v.isZero = true ∨ v.sign = true → convert src dst x r = (0xFF, nv)) ∧
       ∀ m e (g : Nat), v = .fin false m e → 2 ^ g ≤ m → m < 2 ^ (g + 1) →
         let l := (g : Int) + e
         convert src dst x r = if 127 < l then (254, 5#6) else if l < -127 then (0, 3#6)
           else ((l + 127).toNat, if m = 2 ^ g then 0 else 1#6))) ∧
  (∀ (s : State) (tk n : Nat) (h : QEntry) (rest : List QEntry) (f : RedOp) (o : V1), n = 0 ∨ h.gl ≤ n →
     let u := s.team tk
     let fmt := vtFmt h.vtype
     let old := fun (i : Nat) => elem h.w (u.vec.reg o.d.toNat) i
     let picked := fun (n : Nat) (p : Nat → Bool) =>
       ((List.range n).filter (fun i => u.vec.mask o.m.toNat i && p i)).map (elem h.w (u.vec.reg o.a.toNat))
     let runs := fun (k : RedKind) (which : Nat → Bool) (val : Nat → Nat × Flags) => ReadyV s tk h rest (.red k f o) →
       ∃ t, exec (.viqIssue tk n) s = .next t ∧ DoneV s tk h rest o.d.toNat t ∧
         (t.team tk).ctl.fflags = u.ctl.fflags ||| h.fl ||| orFlagsOf h.gl which (fun i => (val i).2) ∧
         ∀ i, i < h.gl → elem h.w ((t.team tk).vec.reg o.d.toNat) i = if which i then (val i).1 % 2 ^ h.w else old i
     runs .red (fun i => decide (i = 0)) (fun _ => redSays f fmt (picked h.gl (fun _ => true)) (h.rnd 0)) ∧
     runs .fold (fun i => decide (i < 64)) (fun j => redSays f fmt (old j :: picked h.gl (fun i => decide (i % 64 = j))) (h.rnd j)) ∧
     runs .scan (fun i => u.vec.mask o.m.toNat i) (fun i => redSays f fmt (picked (i + 1) (fun _ => true)) (h.rnd i))) ∧
  (∀ (s : State) (tk n : Nat) (h : QEntry) (rest : List QEntry) (d a : Reg) (m : BitVec 4) (o : VV),
     let u := s.team tk
     let fmt := vtFmt h.vtype
     let src := fun (r : Reg) (i : Nat) => elem h.w (u.vec.reg r.toNat) i
     let p := u.vec.poly d.toNat
     let deg := p.pdeg.toNat
     let q := fun (t : State) => (t.team tk).vec.poly d.toNat
     let one : FVal := .fin false 1 0
     let pf := fun (t : State) => (t.team tk).ctl.pflags
     rising u.vec.p = true →
     (ReadyV s tk h rest (.ppinit false d) → ∃ t, exec (.viqIssue tk n) s = .next t ∧ DoneP s tk h rest d.toNat 0 t ∧
       (∀ j, (q t).coef j = if j = 0 then 0x3F800000 else 0) ∧ (q t).ps = 0#32 ∧ (q t).pn = 0#32 ∧ (q t).pdeg = p.pdeg ∧
       pf t = clearPT u.ctl.pflags d.toNat) ∧
     (ReadyV s tk h rest (.ppinit true d) → rising p.c = true → ∃ t fl, exec (.viqIssue tk n) s = .next t ∧
       DoneP s tk h rest d.toNat fl t ∧ pf t = u.ctl.pflags ∧
       ∃ p1 : Poly, (∀ j, p1.coef j = if j ≤ deg then p.coef j else 0) ∧ p1.pn = p.pn ∧ p1.pdeg = p.pdeg ∧
         p1.ps = (if ∀ j, j ≤ deg → (p.val j).isZero = true then 0#32 else p.ps) ∧ Rescaled p1 true (q t)) ∧
     (∀ pb : Bool, ReadyAt s tk h rest (.ppmul pb o) → o.d = d → h.start < h.gl → n = 1 →
       let x := fmt.ff.decode (src o.a h.start)
       let r := ffF32.finish (one.add x.neg .rne) Rnd.rne
       let fa := if pb then ffF32.decode r.1 else x
       let fb := if pb then x else fmt.ff.decode (src o.b h.start)
       let term := fun (j : Nat) =>
         let y := fa.mul (p.val j)
         let z := fb.mul (if j = 0 then .fin false 0 0 else p.val (j - 1))
         if y.1.isNan || z.1.isNan then FVal.nan false else (y.1.add z.1 .rne).1
       ∃ t, exec (.viqIssue tk n) s = .next t ∧ (∀ k, k ≠ tk → t.team k = s.team k) ∧
         (t.team tk).vec = { u.vec with p := (t.team tk).vec.p } ∧ (∀ k, k ≠ d.toNat → (t.team tk).vec.poly k = u.vec.poly k) ∧
         (h.start + 1 = h.gl → (t.team tk).q.viq = rest) ∧
         (h.start + 1 < h.gl → ∃ fl, (t.team tk).q.viq = { h with start := h.start + 1, fl := fl, run := none, done := false } :: rest) ∧
         (u.vec.mask o.m.toNat h.start = false → q t = p ∧ pf t = u.ctl.pflags) ∧
         (u.vec.mask o.m.toNat h.start = true →
           let out := (fb.mul (p.val deg)).1
           pf t = (if out.isNan || !out.isZero then setPT u.ctl.pflags d.toNat else u.ctl.pflags) ∧
           ∃ p1 : Poly, (∀ j, p1.coef j = if j ≤ deg then (roundCoef (term j)).1 else 0) ∧ p1.pn = p.pn + 1 ∧ p1.ps = p.ps ∧
             p1.pdeg = p.pdeg ∧ Rescaled p1 false (q t))) ∧
     (ReadyV s tk h rest (.ppdiv d) →
       let fa := ffF32.decode (h.y.toNat % 2 ^ 32)
       let fb := ffF32.decode (h.z.toNat % 2 ^ 32)
       let up := fa.isNan || fb.isNan || !absLess fa fb || ptBit u.ctl.pflags d.toNat
       ∃ t fl, exec (.viqIssue tk n) s = .next t ∧ DoneP s tk h rest d.toNat fl t ∧
         pf t = (if !fa.isNan && !fb.isNan && absLess fa fb && ptBit u.ctl.pflags d.toNat then setPX u.ctl.pflags d.toNat
           else u.ctl.pflags) ∧
         ∃ p1 : Poly, p1.pn = p.pn - 1 ∧ p1.ps = p.ps ∧ p1.pdeg = p.pdeg ∧ (∀ j, deg < j → p1.coef j = 0) ∧ Rescaled p1 false (q t) ∧
           (fa.isNan = true ∨ fb.isNan = true → ∀ j, j ≤ deg → p1.coef j = 0x7FC00000) ∧
           (fa.isNan = false → fb.isNan = false → up = true → ∀ j, j ≤ deg →
             p1.coef j = (quotCoef (p.val j) fb (if j = 0 then .fin false 0 0 else p1.val (j - 1)) fa).1) ∧
           (up = false → p1.coef deg = 0 ∧ ∀ j, j < deg → 
             p1.coef j = (quotCoef (p.val (j + 1)) fa (if j + 1 = deg then .fin false 0 0 else p1.val (j + 1)) fb).1)) ∧
     (ReadyV s tk h rest (.ppmvV a d m) → h.w = 32 → ∃ t, exec (.viqIssue tk n) s = .next t ∧ DoneV s tk h rest a.toNat t ∧
       ∀ i, i < h.gl → elem 32 ((t.team tk).vec.reg a.toNat) i =
         if i < 64 ∧ u.vec.mask m.toNat i = true then p.coef i else src a i) ∧
     (ReadyV s tk h rest (.ppmvP d a m) → h.w = 32 → rising p.c = true → ∃ t, exec (.viqIssue tk n) s = .next t ∧
       DoneP s tk h rest d.toNat 0 t ∧ pf t = u.ctl.pflags ∧ (q t).ps = p.ps ∧ (q t).pn = p.pn ∧ (q t).pdeg = p.pdeg ∧
       ∀ j, (q t).coef j = if j < min h.gl 64 ∧ u.vec.mask m.toNat j = true then src a j else p.coef j)) ∧
  (∀ (s : State) (tk n : Nat) (h q : QEntry) (qs later : List QEntry) (c stride r : Nat) (f : VInt) (o : VSc),
     let u := s.team tk
     let by' : Reg := BitVec.ofNat 5 (h.pass * stride)
     let op := VOp.shift by' (.int f o)
     let d := (o.d + by').toNat
     let a := fun (i : Nat) => BitVec.ofNat q.w (elem q.w (u.vec.reg (o.a + by').toNat) i)
     let b := fun (i : Nat) => BitVec.ofNat q.w (if o.s then q.z.toNat else elem q.w (u.vec.reg (o.b + by').toNat) i)
     tk < 640 → u.runs = true → pipesFree (s.passPipes (coreOf tk)) tk = true → u.q.viq = h :: (qs ++ later) →
     (u.q.viq.map QEntry.no).Nodup → h.op = .v (.rep c stride r) → qs.length = c → (∀ x ∈ qs, x.counts = true) →
     h.pass < r → qs[h.idx]? = some q → q.op = .v (.int f o) → q.start = 0 → n = 0 ∨ q.gl ≤ n →
     u.faultBefore q.no = false → s.vHolds tk { no := if h.pass = 0 then q.no else maxNo qs h.no, e := q, op := op } = false →
     u.vec.vPoison = [] → q.w = 8 ∨ q.w = 16 ∨ q.w = 32 ∨ q.w = 64 → q.gl * q.w ≤ 65536 → rising u.vec.v = true → s.ms.ok = true →
     ∃ t, exec (.viqIssue tk n) s = .next t ∧ (∀ k, k ≠ tk → t.team k = s.team k) ∧
       (t.team tk).q.viq = (if h.idx + 1 = c ∧ h.pass + 1 = r then later
         else (if h.idx + 1 = c then { h with idx := 0, pass := h.pass + 1 } else { h with idx := h.idx + 1 }) ::
           (qs.map (fun x => if x.no = q.no then clearRun q else x) ++ later)) ∧
       (∀ k, k ≠ d → (t.team tk).vec.reg k = u.vec.reg k) ∧
       ∀ i, i < q.gl → elem q.w ((t.team tk).vec.reg d) i =
         if u.vec.mask o.m.toNat i then (intSays f (a i) (b i)).toNat else elem q.w (u.vec.reg d) i)

/-- R275, R285 to R291: A step of the matrix queue: `mzero`, `mld`, `mst` and the drains on one row of their tile, `.clr` zeroing
it; `madd` on one row; `msum` one sum; `mma` and `mma.g` on one group of 16 of K, over every cell: integers wrapping or
saturating, the floating-point formats exact and rounded once, scaled formats by their blocks' bytes. No other accumulator cell
and no other byte changes. How an mma with K = 0 steps follows log 64, the words of `mma.g` and `mdrain.i8` outside the live
part log 56. -/
def Obligations.MatrixSteps : Prop :=
  ∀ (s : State) (tk : Nat) (e : QEntry) (rest : List QEntry),
    let u := s.team tk
    let g := Tile.of e.x
    let a := Opd.of e.y
    let b := Opd.of e.z
    let row := g.row0 + e.start
    let inRow := fun (r c : Nat) => r = row ∧ g.col0 ≤ c ∧ c < g.col0 + g.n
    let cell := fun (t : State) (r c : Nat) => (t.team tk).vec.cell r c
    let byte := fun (t : State) (off : Nat) => t.ms.lmByte (coreOf tk) (u.lmBase + off)
    let kept := fun (t : State) => OnlyLm s.ms t.ms ∧ ∀ k, look 0#8 t.ms.lm k = look 0#8 s.ms.lm k
    let clamp := fun (x : Int) => (BitVec.ofInt 32 (max (-2147483648) (min x 2147483647))).toNat
    let wrap := fun (sat : Bool) (x : Int) => if sat then clamp x else (BitVec.ofInt 32 x).toNat
    let int32 := fun (x : Nat) => (BitVec.ofNat 32 x).toInt
    (ReadyM s tk e rest .zero → ∃ t, exec (.matrixStep tk) s = .next t ∧ SteppedM s tk e rest .zero t ∧ kept t ∧
      ∀ r c, c < 256 → (inRow r c → cell t r c = 0) ∧ (¬inRow r c → cell t r c = cell s r c)) ∧
    (ReadyM s tk e rest .ld → ∃ t, exec (.matrixStep tk) s = .next t ∧ SteppedM s tk e rest .ld t ∧ kept t ∧
      ∀ r c, c < 256 → (inRow r c → cell t r c = readLE (byte s) (a.addr + e.start * a.stride + 4 * (c - g.col0)) 4) ∧
        (¬inRow r c → cell t r c = cell s r c)) ∧
    (ReadyM s tk e rest .st → ∃ t, exec (.matrixStep tk) s = .next t ∧ SteppedM s tk e rest .st t ∧ OnlyLm s.ms t.ms ∧
      (∀ r c, cell t r c = cell s r c) ∧
      (∀ j, j < g.n → readLE (byte t) (a.addr + e.start * a.stride + 4 * j) 4 = cell s row (g.col0 + j)) ∧
      ∀ k, let at' := lmKey (coreOf tk) (u.lmBase + a.addr + e.start * a.stride)
        k < at' ∨ at' + 4 * g.n ≤ k → look 0#8 t.ms.lm k = look 0#8 s.ms.lm k) ∧
    (∀ f : MF, ReadyM s tk e rest (.mma false f) → f.f = 4#4 → f.s = false → g.tb = false → g.split = false → 0 < g.k →
      g.row0 + g.m ≤ 256 →
      let val := fun (un : Bool) (x : Byte) => if un then (x.toNat : Int) else x.toInt
      let ks := (List.range 16).filter (fun i => decide (16 * e.start + i < g.k))
      let sum := fun (i j : Nat) => ks.foldl (fun (acc : Int) k => acc + val f.u (byte s (a.addr + i * a.stride + (16 * e.start + k))) *
        val f.v (byte s (b.addr + (16 * e.start + k) * b.stride + j))) 0
      ∃ t, exec (.matrixStep tk) s = .next t ∧ SteppedM s tk e rest (.mma false f) t ∧ kept t ∧
        (∀ i j, i < g.m → j < g.n → cell t (g.row0 + i) (g.col0 + j) =
          (BitVec.ofNat 32 (if e.start = 0 ∧ f.c = false then 0 else cell s (g.row0 + i) (g.col0 + j)) + BitVec.ofInt 32 (sum i j)).toNat) ∧
        ∀ r c, c < 256 → r < g.row0 ∨ g.row0 + g.m ≤ r ∨ c < g.col0 ∨ g.col0 + g.n ≤ c → cell t r c = cell s r c) ∧
    (∀ (kind : Nat) (q : Reg) (clr : Bool), ReadyM s tk e rest (.drain kind q clr) →
      let size := if kind = 0 then 4 else if kind = 1 then 2 else 1
      let word := fun (k j : Nat) => BitVec.ofNat 32 (liveWord e u.vec ((q.toNat + k) % 32) j)
      let requantized := fun (c j : Nat) =>
        let x := ((BitVec.ofNat 32 c).signExtend 64 + (word 2 j).signExtend 64) * (word 0 j).signExtend 64
        let sh := (word 1 j).toNat % 64
        let y := (if sh = 0 then x else x + 1#64 <<< (sh - 1)).sshiftRight sh
        (BitVec.ofInt 8 (max (-128) (min (y.toInt + (word 3 j).toInt) 127))).toNat
      let rnd := fun (j : Nat) => ({ mode := vtRM e.vtype, seed := e.seed, g := BitVec.ofNat 64 (row * 256 + (g.col0 + j)) } : Rnd)
      let out := fun (j : Nat) =>
        let c := cell s row (g.col0 + j)
        if kind = 0 then c else if kind = 1 then (convert .f32 .bf16 c (rnd j)).1 else requantized c j
      ∃ t, exec (.matrixStep tk) s = .next t ∧ SteppedM s tk e rest (.drain kind q clr) t ∧ OnlyLm s.ms t.ms ∧
        (∀ j, j < g.n → readLE (byte t) (a.addr + e.start * a.stride + size * j) size = out j) ∧
        (∀ k, let at' := lmKey (coreOf tk) (u.lmBase + a.addr + e.start * a.stride)
          k < at' ∨ at' + size * g.n ≤ k → look 0#8 t.ms.lm k = look 0#8 s.ms.lm k) ∧
        ∀ r c, c < 256 → cell t r c = if clr = true ∧ inRow r c then 0 else cell s r c) ∧
    (∀ col isInt sat : Bool, ReadyM s tk e rest (.add col isInt sat) →
      let sum := fun (x y : Nat) => if isInt then wrap sat (int32 x + int32 y)
        else (ffF32.finish ((ffF32.decode x).add (ffF32.decode y) .rne) Rnd.rne).1
      ∃ t, exec (.matrixStep tk) s = .next t ∧ SteppedM s tk e rest (.add col isInt sat) t ∧ kept t ∧
        ∀ r c, c < 256 →
          (inRow r c → cell t r c = sum (cell s r c) (readLE (byte s) (a.addr + 4 * (if col then c - g.col0 else e.start)) 4)) ∧
          (¬inRow r c → cell t r c = cell s r c)) ∧
    (∀ i4 un sat : Bool, ReadyM s tk e rest (.sum i4 un sat) →
      let f : BitVec 4 := if i4 then 5#4 else 4#4
      let el := fun (k : Nat) => mfIntVal f un (if g.tb then rowElem (byte s) (a.addr + k * a.stride) e.start 1 i4
        else rowElem (byte s) (a.addr + e.start * a.stride) k 1 i4)
      let at' := (e.z.extractLsb' 0 22).toNat + 4 * e.start
      ∃ t, exec (.matrixStep tk) s = .next t ∧ SteppedM s tk e rest (.sum i4 un sat) t ∧ OnlyLm s.ms t.ms ∧
        (∀ r c, cell t r c = cell s r c) ∧
        readLE (byte t) at' 4 = wrap sat ((e.z.extractLsb' 32 32).toInt * ((List.range g.k).map el).sum) ∧
        ∀ k, k < lmKey (coreOf tk) (u.lmBase + at') ∨ lmKey (coreOf tk) (u.lmBase + at') + 4 ≤ k →
          look 0#8 t.ms.lm k = look 0#8 s.ms.lm k) ∧
    ∀ (gather : Bool) (f : MF), ReadyM s tk e rest (.mma gather f) → g.row0 + g.m ≤ 256 →
      let cb := bCol g u.bind.tidx
      let rowOf := fun (i : Nat) => aRow gather g e u.vec u.bind.tidx i
      let size := mfSize f.f
      let nib := mfNibble f.f
      let x := fun (i k : Nat) => rowElem (byte s) (a.addr + rowOf i * a.stride) k size nib
      let y := fun (k j : Nat) => if g.tb then rowElem (byte s) (b.addr + (cb + j) * b.stride) k size nib
        else rowElem (byte s) (b.addr + k * b.stride) (cb + j) size nib
      let blocks := (g.k + 31) / 32
      let scaled := fun (v : FVal) (at' : Nat) => if mfScaled f.f then mxScaled v (byte s (at' + e.start / 2)).toNat else v
      let xv := fun (i k : Nat) => scaled (mfVal f.f u.vec a.sc (x i k)) (e.sx.toNat + rowOf i * blocks)
      let yv := fun (k j : Nat) => scaled (mfVal f.f u.vec b.sc (y k j)) (e.sy.toNat + (cb + j) * blocks)
      let ks := ((List.range 16).map (16 * e.start + ·)).filter (fun k => decide (k < g.k))
      let old := fun (i j : Nat) => if e.start = 0 ∧ f.c = false then 0 else cell s (g.row0 + i) (g.col0 + j)
      let value := fun (i j : Nat) =>
        if g.k = 0 then old i j
        else if mfInt f.f then
          wrap f.s (int32 (old i j) + (ks.map (fun k => mfIntVal f.f f.u (x i k) * mfIntVal f.f f.v (y k j))).sum)
        else
          let terms := ffF32.decode (old i j) :: ks.map (fun k => ((xv i k).mul (yv k j)).1)
          (((if ks.length < 16 then terms ++ [FVal.fin false 0 0] else terms).foldl Terms.push Terms.none).fsum ffF32 Rnd.rne).1
      ∃ t, exec (.matrixStep tk) s = .next t ∧ SteppedM s tk e rest (.mma gather f) t ∧ kept t ∧
        (∀ i j, i < g.m → j < g.n → cell t (g.row0 + i) (g.col0 + j) = value i j) ∧
        ∀ r c, c < 256 → r < g.row0 ∨ g.row0 + g.m ≤ r ∨ c < g.col0 ∨ g.col0 + g.n ≤ c → cell t r c = cell s r c

/-! ### Near-memory and copy units, late results (R72, R303 to R322) -/

/-- R314, R316, R317, R322, R319, R315, R320, R324: A near-memory unit's turn, for every command: it takes the elements of the run
from its next one on, whose owning addresses lie in one 4 KiB block, up to the run's end or the first element that cannot be
performed, with whose status its share stops; only this job, memory, cached translations and links differ. Of a command on all
stacks, a run on another stack is passed over. The event NMU_RUN is the same turn. One element of every near-memory command: the
value its destination holds, and for NM_MOMENTUM and NM_ADAMW those of its moments, every other byte of memory but the marks of
R179 as it was, and the element counted; one of NM_SUMSQ joins the exact sum. With every share of a command finished, its record
is written at its place, and the command is gone, with the entry of a team that still has it: a malformed one reads status 2
with nothing done; one that met no error reads status 0, its flags, E = COUNT and its count. A record in local memory fills its
granule. That a command runs on though its owner has ended is the model's reading: log 27. -/
def Obligations.NearMemoryRuns : Prop :=
  (∀ (s : State) (op : Nat) (c : NmCmd) (i : Instr) (j : NmJob) (u : NmShare),
     let own := fun (k : Nat) => nmAddr c (nmOwner op) k
     let e := runEnd op c u.next
     (RunsNm s op c i j u →
       (∃ t n st fl sum, exec i s = .next t ∧ u.next ≤ n ∧ n ≤ e ∧ u.next < e ∧ e ≤ c.count.toNat ∧ (st = 0 ↔ n = e) ∧
         t = { s with ms := t.ms, jobs := t.jobs } ∧
         t.ms = { s.ms with mem := t.ms.mem, tlb := t.ms.tlb, links := t.ms.links } ∧
         t.jobs = movedJobs s j u n st fl sum) ∧
       (∀ k, u.next ≤ k → k < e → own k / 4096 = own u.next / 4096) ∧
       (s.cur.stack < 12 → op = j.opcode → c = j.cmd → exec (.nmuRun s.cur.j s.cur.stack) s = exec i s)) ∧
     (nmInstr op c = some i → s.job? s.cur.j = some j → j.malformed = false → j.preStatus = 0 → j.all = true →
       j.shares.find? (fun x => decide (x.stack = s.cur.stack) || !j.all) = some u → u.status = 0 → u.next < c.count.toNat →
       nmStack s j (own u.next) ≠ s.cur.stack →
       exec i s = .next { s with jobs := s.jobs.map (fun x => if x.id = j.id then
         { j with shares := j.shares.map (fun y => if y.stack = u.stack then { y with next := e } else y) } else x) })) ∧
  (∀ (s s1 s2 s3 s4 : State) (op : Nat) (c : NmCmd) (i : Instr) (j : NmJob) (u : NmShare) (x y z q : Xlat),
     let W := (Fmt.ofCode c.w.toNat).getD .f32
     let G := (Fmt.ofCode c.g.toNat).getD .f32
     let n := W.width / 8
     let at' := nmAddr c .w u.next
     let rm := (RMode.ofCode c.rm.toNat).getD .rne
     let rnd : Rnd := { mode := rm, seed := c.k0.setWidth 64, g := BitVec.ofNat 64 u.next }
     let k := fun (b : BitVec 32) => ffF32.decode b.toNat
     let k0 := k c.k0
     let w := W.val (s2.ms.homeRead x.pa n)
     let raw := s2.ms.homeRead y.pa (G.width / 8)
     let g := G.val raw
     let takes := fun (b : State) (v : Nat) => ∃ t fl, exec i s = .next t ∧ t = { s with ms := t.ms, jobs := t.jobs } ∧
       t.ms.homeRead x.pa n = v % 2 ^ (8 * n) ∧
       (∀ p, p < x.pa ∨ x.pa + n ≤ p → ¬markBytes b.ms x at' p → t.ms.byteAt p = b.ms.byteAt p) ∧
       t.jobs = movedJobs s j u (u.next + 1) 0 fl j.sum
     let f32 := fun (v : FVal) => (ffF32.encode v Rnd.rne).1
     let minus := fun (a b : FVal) (r : RMode) => (a.add b.neg r).1
     let old := fun (b : State) (r : NmRole) (l : Xlat) => match r with
       | .w => W.val (b.ms.homeRead l.pa n)
       | .g => G.val (b.ms.homeRead l.pa (G.width / 8))
       | _ => ffF32.decode (b.ms.homeRead l.pa 4)
     let clean := fun (b : State) (ls : List Xlat) => ∀ l ∈ ls, b.ms.poisoned l.pa = false
     -- the moments of an element, which lie apart from it and from each other
     let moves := fun (b : State) (w : Nat) (ms : List (NmRole × Xlat × Nat)) =>
       let all := (x, at', n) :: ms.map (fun e => (e.2.1, nmAddr c e.1 u.next, 4))
       (∀ e ∈ all, ∀ d ∈ all, ∀ p, d.1.pa ≤ p → p < d.1.pa + d.2.2 → ¬markBytes b.ms e.1 e.2.1 p ∧
         (e = d ∨ p < e.1.pa ∨ e.1.pa + e.2.2 ≤ p)) →
       ∃ t fl, exec i s = .next t ∧ t = { s with ms := t.ms, jobs := t.jobs } ∧ t.ms.homeRead x.pa n = w % 2 ^ (8 * n) ∧
         (∀ e ∈ ms, t.ms.homeRead e.2.1.pa 4 = e.2.2) ∧
         (∀ p, (∀ e ∈ all, (p < e.1.pa ∨ e.1.pa + e.2.2 ≤ p) ∧ ¬markBytes b.ms e.1 e.2.1 p) → t.ms.byteAt p = b.ms.byteAt p) ∧
         t.jobs = movedJobs s j u (u.next + 1) 0 fl j.sum
     (RunsNm s op c i j u → runEnd op c u.next = u.next + 1 → op = 8 →
       nmXlat s j .read (nmAddr c .g u.next) = (s2, .ok y) → s2.ms.poisoned y.pa = false → ∃ t fl, exec i s = .next t ∧
         t = { s with ms := s2.ms, jobs := t.jobs } ∧
         t.jobs = movedJobs s j u (u.next + 1) 0 fl (j.sum.push ((old s2 .g y).mul (old s2 .g y)).1)) ∧
     (RunsNm s op c i j u → runEnd op c u.next = u.next + 1 → Memory.wf s.ms.mem → nmXlat s j .write at' = (s1, .ok x) →
     (op = 1 → takes s1 (c.k0.toNat % 2 ^ W.width)) ∧
     (nmXlat s1 j .read (nmAddr c .g u.next) = (s2, .ok y) → s2.ms.poisoned y.pa = false → s2.ms.poisoned x.pa = false →
       (op = 2 → takes s2 raw) ∧
       (op = 3 → takes s2 (W.enc (k0.mul g).1 rnd).1) ∧
       (op = 4 → takes s2 (W.enc (w.add (k0.mul g).1 rm).1 rnd).1) ∧
       (op = 9 → takes s2 (convert G W raw rnd).1) ∧
       (op = 5 → takes s2 (W.enc (minus w (k0.mul (g.add ((k c.k1).mul w).1 rm).1).1 rm) rnd).1)) ∧
     (nmXlat s1 j .read (nmAddr c .g u.next) = (s2, .ok y) → nmXlat s2 j .write (nmAddr c .m u.next) = (s3, .ok z) →
       (op = 6 → clean s3 [x, y, z] →
         let m := f32 ((k0.mul (old s3 .m z)).1.add (old s3 .g y) .rne).1
         moves s3 (W.enc (minus (old s3 .w x) ((k c.k1).mul (ffF32.decode m)).1 rm) rnd).1 [(.m, z, m)]) ∧
       (op = 7 → nmXlat s3 j .write (nmAddr c .v u.next) = (s4, .ok q) → clean s4 [x, y, z, q] →
         let one := FVal.ofInt 1
         let g := old s4 .g y
         let w := old s4 .w x
         let m := f32 ((k0.mul (old s4 .m z)).1.add ((minus one k0 .rne).mul g).1 .rne).1
         let v := f32 (((k c.k1).mul (old s4 .v q)).1.add ((minus one (k c.k1) .rne).mul (g.mul g).1).1 .rne).1
         let d := (ffF32.sqrt (ffF32.decode v) Rnd.rne).1
         let e := f32 ((ffF32.decode d).add (k c.k3) .rne).1
         let r := (ffF32.div (ffF32.decode m) (ffF32.decode e) Rnd.rne).1
         moves s4 (W.enc (minus (minus w ((k c.k2).mul (ffF32.decode r)).1 rm) ((k c.k4).mul w).1 rm) rnd).1
           [(.m, z, m), (.v, q, v)])))) ∧
  (∀ (s : State) (id : Nat) (j : NmJob), s.job? id = some j → j.finished = true → j.sync = 0#2 → s.ms.ok = true →
     let wrote := fun (t : State) (x : Nat) =>
       if j.recG then t.ms.homeRead j.recAddr 16 = x
       else
         let core := j.recAddr / 3145728
         let off := j.recAddr % 3145728
         t.ms.lmRead core off 16 = x ∧ t.ms.isFull core off = true
     let record := fun (t : State) =>
       (j.malformed = true → wrote t (2 + j.count % 2 ^ 32 * 2 ^ 96)) ∧
       (j.malformed = false → j.preStatus = 0 → (∀ x ∈ j.shares, x.status = 0) → j.opcode ≠ 8 →
         wrote t (j.flags.toNat * 2 ^ 32 + j.cmd.count.toNat * 2 ^ 64 + j.count % 2 ^ 32 * 2 ^ 96))
     (j.owner = .gone → j.recG = true →
       ∃ t, exec (.cnmComplete id) s = .next t ∧ t = { s with ms := t.ms, jobs := s.jobs.filter (fun x => decide (x.id ≠ id)) } ∧
         record t) ∧
     (∀ tk no e, j.owner = .team tk no → (s.team tk).cEntry no = some e → e.no = no →
       ∃ t, exec (.cnmComplete id) s = .next t ∧ t.jobs = s.jobs.filter (fun x => decide (x.id ≠ id)) ∧ record t ∧
         (t.team tk).cEntry no = none ∧ (t.team tk).ctl.fflags = (s.team tk).ctl.fflags ||| e.fl ∧
         (t.team tk).q.viq = (s.team tk).q.viq ∧ (t.team tk).vec = (s.team tk).vec ∧ (t.team tk).regs = (s.team tk).regs))

/-- R72, R303 to R309, R313, R82, R84, R139: A `cfence` at the head of its queue completes; a unit of a `cfill` into the team's own
local memory writes its 256 bytes, each byte b receiving byte b mod 8 of the value, fills their granules, changes no other byte,
and moves CP on; a unit of a `cpy`, plain or decoding, of a `cpyt` and of a `cgath` reads its source whole, writes each byte at
its place, and moves CP on; the acquire phase of a command with no knot writes the core's lines back and is over, a stream's
task having none. That a unit of up to 256 bytes is written in one step is the model's choice: log 87. A load in flight whose
word of local memory nothing older is in the way of gets its value, the other results staying; `.fe` waits for its granule to be
full, `.fec` leaves it empty. -/
def Obligations.EngineUnits : Prop :=
  (∀ (s : State) (tk eng : Nat) (e : QEntry) (rest : List QEntry) (o : COp), HeadC s tk eng e rest o →
     let u := s.team tk
     let core := coreOf tk
     (o.kind = .cfence → ∃ t, exec (.copyUnit (.team tk eng 0)) s = .next t ∧ OnlyTeam tk s t ∧ (t.team tk).cq eng = rest) ∧
     (o.kind = .cfill → e.idx = 1 → o.sync.getLsbD 0 = false ∨ e.acq = true → u.lmWaits e.no (cTouch u e) = false →
       u.relWaits e.no = false → mayServe s tk eng = true → s.ms.ok = true → (CDesc.of e.x).sp = 2 → u.lmSize ≤ 2 ^ 22 → (CDesc.of e.x).addr + e.z.toNat ≤ u.lmSize →
       256 * (e.start + 1) < e.z.toNat →
       let at' := u.lmBase + (CDesc.of e.x).addr
       ∃ t, exec (.copyUnit (.team tk eng 0)) s = .next t ∧
         (∀ b, 256 * e.start ≤ b → b < 256 * (e.start + 1) →
           t.ms.lmByte core (at' + b) = e.y.extractLsb' (8 * (b % 8)) 8 ∧ t.ms.isFull core (at' + b) = true) ∧
         (∀ k, k < lmKey core (at' + 256 * e.start) ∨ lmKey core (at' + 256 * (e.start + 1)) ≤ k → look 0#8 t.ms.lm k = look 0#8 s.ms.lm k) ∧
         t.ms = { s.ms with lm := t.ms.lm, fe := t.ms.fe, lmPoison := t.ms.lmPoison, cores := t.ms.cores } ∧
         (t.team tk).cq eng = { e with start := e.start + 1 } :: rest ∧ (t.team tk).vec = u.vec ∧ (t.team tk).regs = u.regs) ∧
     (e.idx = 1 → o.sync.getLsbD 0 = false ∨ e.acq = true → u.lmWaits e.no (cTouch u e) = false → u.relWaits e.no = false →
       mayServe s tk eng = true → s.ms.ok = true → e.start + 1 < copyUnits o.kind e.cap e.z →
       let c := u.copyCtx tk e
       let dst := CDesc.of e.x
       let src := CDesc.of e.y
       let n := e.z.toNat
       let moves := fun (s1 : State) (sp : Nat) (out : List (Nat × Byte)) => ∀ s2 ls, copyPlaces c sp out s1 = (s2, .ok ls) →
         (ls.filterMap locLm).Nodup → (ls.filterMap locPa).Nodup →
         ∃ t, exec (.copyUnit (.team tk eng 0)) s = .next t ∧
           (∀ a b core off, (Loc.l core off, a, b) ∈ ls → t.ms.lmByte core off = b) ∧
           (∀ a b va x, (Loc.g x va, a, b) ∈ ls → (∀ a' b' va' x', (Loc.g x' va', a', b') ∈ ls → ¬markBytes s2.ms x' va' x.pa) →
             t.ms.byteAt x.pa = b) ∧
           (∀ k, k ∉ ls.filterMap locLm → look 0#8 t.ms.lm k = look 0#8 s.ms.lm k) ∧
           (∀ p, p ∉ ls.filterMap locPa → (∀ a b va x, (Loc.g x va, a, b) ∈ ls → ¬markBytes s2.ms x va p) →
             t.ms.byteAt p = s2.ms.byteAt p) ∧
           (∃ cap fl, (t.team tk).cq eng = { e with start := e.start + 1, cap := cap, fl := fl } :: rest) ∧
           (t.team tk).vec = u.vec ∧ (t.team tk).regs = u.regs
       (∀ s1 out, o.kind = .cpy → src.dec = false → copyReadAll c (cpyBytes dst src n e.start) s = (s1, .ok out) →
         moves s1 dst.sp out) ∧
       (∀ s1 s2 fmt out fl, o.kind = .cpy → src.dec = true →
         ((∃ k, e.cap = some k ∧ fmt = k.toNat ∧ s1 = s) ∨ ∃ ms x, e.cap = none ∧ fmt = pageFmt x.ent.leaf ∧ s1 = { s with ms := ms } ∧
           s.ms.translate c.place c.asn c.root c.atH .read (BitVec.ofNat 64 src.addr) = (ms, .ok x)) →
         let w := e.w / 8
         decElems c u.vec e src.addr dst.addr fmt (min 256 (n - 256 * e.start) / w) (256 * e.start / w) s1 = (s2, .ok (out, fl)) →
         moves s2 dst.sp out) ∧
       (∀ s1 cap out, o.kind = .cpyt → e.cap = some cap →
         let x := Shape.of cap 0
         let y := Shape.of cap 16
         let es := tensorUnit x y n e.start
         tensorAlign x y n es = none → copyReadAll c (tensorBytes y n es) s = (s1, .ok out) → moves s1 (CDesc.of x.base).sp out) ∧
       (∀ s1 s2 (v : Word) out, o.kind = .cgath →
         let r := rowUnit e.z e.start
         ((∃ k, e.cap = some k ∧ k.toNat / 2 ^ 64 = r.1 + 1 ∧ v.toNat = k.toNat % 2 ^ 64 ∧ s1 = s) ∨
           ∃ l, (∀ k, e.cap = some k → k.toNat / 2 ^ 64 ≠ r.1 + 1) ∧ v.toNat = readLE (fun i => (l.getD i (0, 0#8)).2) 0 8 ∧
             copyReadAll c ((List.range 8).map (fun i => (.mem src.sp (src.addr + 8 * r.1 + i), i))) s = (s1, .ok l)) →
         rowEntryBad v = false →
         copyReadAll c (cpyBytes { dst with addr := dst.addr + r.1 * rowSize e.z } (CDesc.of v) (rowSize e.z) r.2) s1 = (s2, .ok out) →
         moves s2 dst.sp out)) ∧
     ((o.kind = .cpy ∨ o.kind = .cfill ∨ o.kind = .cgath ∨ o.kind = .cpyt ∨ o.kind = .cnm ∨ o.kind = .cnmAll) → e.idx = 1 →
       (o.kind = .cpyt → e.cap.isSome = true) → u.relWaits e.no = false → o.sync.getLsbD 0 = true → e.acq = false → u.gStoreBefore e.no = false → knotAddr e.cka = 0 → Memory.wf s.ms.mem →
       ∃ t, exec (.acquirePhase (.team tk eng 0)) s = .next t ∧ t = { s with teams := t.teams, ms := t.ms } ∧
         Published core (fun l => (lostAddr s.ms l).isNone) s.ms t.ms ∧ (∀ k, k ≠ tk → t.team k = s.team k) ∧
         t.team tk = u.setCq eng ({ e with acq := true } :: rest)) ∧
     (∀ k id, k < 32 → exec (.acquirePhase (.task k id)) s = .next s)) ∧
  (∀ (s : State) (tk i : Nat) (f : Flight) (l : PendLoad), tk < 640 →
     let u := s.team tk
     let core := coreOf tk
     let off := u.lmBase + l.ea.toNat
     let older := { u with flights := u.flights.filter (fun g => match g.load with | some m => decide (m.bno < l.bno) | none => false) }
     u.status = .running → u.flights[i]? = some f → f.load = some l → (∀ g ∈ u.flights, g.left ≠ 0) → rising s.ms.fe = true →
     older.lmWaits l.before (loadTouch u l) = false → s.ms.lmBad core off = false →
     (l.fe = true → s.ms.isFull core off = false → exec (.scalarResultReady tk i) s = .next s) ∧
     ((l.fe = true → s.ms.isFull core off = true) →
       ∃ t, exec (.scalarResultReady tk i) s = .next t ∧ t = { s with teams := t.teams, ms := t.ms } ∧ (∀ k, k ≠ tk → t.team k = s.team k) ∧
         t.team tk = { u with flights := u.flights.set i { f with val := extended l.size l.sx (s.ms.lmRead core off l.size), load := none } } ∧
         t.ms = { s.ms with fe := t.ms.fe } ∧
         ∀ k, look false t.ms.fe k = if l.fec = true ∧ k = lmKey core off / 16 then false else look false s.ms.fe k))

/-! ### Team slots and gangs (R17, R27 to R36, R151 to R169, R362 to R366) -/

/-- R151, R160, R165, R17, R54, R57: A held bundle whose condition has come has the next turn; a `wfe` hold of 4,096 cycles ends; a
landing slot whose count has run out is written to its register, the last one for a register winning. A completed instruction
fill reaches every core that asked for its line, and is no longer outstanding; an evicted line of an L1 is written back and
gone, no other byte of memory changing. A line whose home is gone stays: log 14. -/
def Obligations.SlotEvents : Prop :=
  (∀ (s : State) (tk : Nat), tk < 640 →
     let u := s.team tk
     (u.held = true → exec (.heldBundleRelease tk) s = .next { s with agenda := .bundle tk :: s.agenda }) ∧
     (u.held = false → exec (.heldBundleRelease tk) s = .next s) ∧
     (∃ t, exec (.wfeTimeout tk) s = .next t ∧ OnlyTeam tk s t ∧
       t.team tk = { u with wake := if u.wake = none then none else some true }) ∧
     (u.status = .running → bankOk u.bank = true → (∀ f ∈ u.flights, f.left = 0 → f.load = none) →
       ∃ t, exec (.landingSlotLand tk) s = .next t ∧ OnlyTeam tk s t ∧ OnlyRegs u (t.team tk) ∧
         (t.team tk).flights = u.flights.filter (fun f => decide (f.left ≠ 0)) ∧
         (∀ r, (∀ f ∈ u.flights, f.left = 0 → f.reg ≠ r) → (t.team tk).reg r = u.reg r) ∧
         ∀ a f b, u.flights = a ++ f :: b → f.left = 0 → f.reg ≠ 0#5 → (∀ g ∈ b, g.left = 0 → g.reg ≠ f.reg) →
           (t.team tk).reg f.reg = f.val)) ∧
  (∀ (s : State) (c core line : Nat),
     (c < 40 → rising (s.cluster c).fills = true → ∃ t, exec (.instructionFill c line) s = .next t ∧
       (∀ k ∈ look [] (s.cluster c).fills line, line ∈ (t.ms.core k).icache) ∧
       (∀ l, look [] (t.cluster c).fills l = if l = line then [] else look [] (s.cluster c).fills l) ∧
       (∀ k, (t.ms.core k).l1 = (s.ms.core k).l1) ∧ t.ms.code = s.ms.code ∧ t.teams = s.teams) ∧
     (core < 320 → Memory.wf s.ms.mem → ∀ l, findLine (s.ms.core core).l1 line = some l → l.dirty = 0#64 ∨ s.ms.isPop (line * 64) = true →
       ∃ t, exec (.l1Eviction core line) s = .next t ∧ t = { s with ms := t.ms } ∧
         Published core (fun x => decide (x.pa = line)) s.ms t.ms ∧ findLine (t.ms.core core).l1 line = none))

/-- R158, R163, R164, R171, R190, R355, R419: An escalated trap ends its task with the cause and TVAL of its trap, reason 1, the
slot freed, once no queued syllable is to complete; a `trap.brk` of a handler given a breakpoint holds the team, as it was at
entry, where a debugger is attached to a debug launch. The debugger's answer resumes it as `tret` would, or ends the task with
BREAKPOINT; before that it may enable a breakpoint, or plant a `trap.brk` in the context's own copy of a page, while no
translation is in force. Which trap governs, what the team at entry is and that the planted word keeps P are the model's choice:
logs 26 and 97; whether a debugger is attached is open: log 9. -/
def Obligations.EscalatedTraps : Prop :=
  ∀ (s : State) (tk : Nat) (w : WEntry), tk < 640 →
    let u := s.team tk
    let b := u.bind
    let x := s.stream b.slot
    let ends := fun (t : State) (cause : Nat) (v : Word) => (t.team tk) = Team.reset ∧ (t.stream b.slot).entry? w.id =
      some { w with st := .faulted, fault := some { reason := .team, cause := cause, gidx := b.gidx, tidx := b.tidx, tval := v } }
    u.status ≠ .empty → x.taskOf b.seq = some w → x.entry? w.id = some w → w.st = .issued →
    (∃ k n g l a, w.op = .launch k n g l a) →
    (∀ e, u.status = .escalating → u.esc = some e → u.toDrain = [] → e.info.cause ≠ .breakpoint ∨ e.ended = true →
      ∃ t, exec (.escalateTrap tk) s = .next t ∧ ends t e.info.cause.code e.info.tval) ∧
    (∀ e c, u.status = .escalating → u.esc = some e → u.toDrain = [] → e.info.cause = .breakpoint → e.ended = false →
      u.entry = some c → c.ctl.tcause = 0x0A#8 →
      ∃ t, exec (.escalateTrap tk) s = .next t ∧
        if x.lrec.debug = true ∧ Config.debuggerAttached x.ctx = true then
          (t.team tk).status = .heldDebug ∧ (t.team tk).ctl = c.ctl ∧ (t.team tk).vec = c.vec ∧ (t.team tk).under = c.under ∧
            (t.team tk).script = c.script ∧ OnlyTeam tk s t
        else ends t 0x0A c.ctl.tval) ∧
    (∀ e, u.status = .escalating → u.esc = some e → u.toDrain ≠ [] → exec (.escalateTrap tk) s = .next s) ∧
    (u.status = .heldDebug →
      (∃ t, exec (.debuggerRequest tk .finish) s = .next t ∧ ends t 0x0A u.ctl.tval) ∧
      ∃ t, exec (.debuggerRequest tk .resume) s = .next t ∧ OnlyTeam tk s t ∧ (t.team tk).status = .running ∧
        (t.team tk).level = .a ∧ (t.team tk).pc = u.ctl.tpc ∧ (t.team tk).hregs = [] ∧ (t.team tk).afterTret = true) ∧
    (u.status = .heldDebug → ∀ n v, ∃ t, exec (.debuggerRequest tk (.breakpoint n v)) s = .next t ∧
      if n < 8 ∧ s.inSource b.slot = true then
        OnlyTeam tk s t ∧ t.team tk = { u with ctl := { u.ctl with bkp := store 0#64 u.ctl.bkp n (v &&& maskBkp) } }
      else t = s) ∧
    (u.status = .heldDebug → ∀ va code c s', s.inSource b.slot = true → privatePage s b.slot va c = some s' → s'.ms.ok = true →
      let pa := physOf s'.ms c.root (va / 4 * 4)
      let old := BitVec.ofNat 32 (readLE (fun i => look 0#8 s'.ms.code i) pa 4)
      ∃ t w, exec (.debuggerRequest tk (.plant va code c)) s = .next t ∧ encodeSyl (sylP old) (.trapBrk code) = some w ∧
        t = { s' with ms := t.ms } ∧ readLE (fun i => look 0#8 t.ms.code i) pa 4 = w.toNat ∧ t.ms.homeRead pa 4 = w.toNat ∧
        ∀ p, p < pa ∨ pa + 4 ≤ p → look 0#8 t.ms.code p = look 0#8 s'.ms.code p ∧ t.ms.byteAt p = s'.ms.byteAt p) ∧
    (u.status = .heldDebug → ∀ va code c, s.inSource b.slot = false ∨ privatePage s b.slot va c = none → exec (.debuggerRequest tk (.plant va code c)) s = .next s) ∧
    (u.status ≠ .heldDebug → ∀ q, exec (.debuggerRequest tk q) s = .next s)

/-- R154, R166, R167, R168, R362, R363, R377, R384: A pre-emption, for a reason the spec gives, of a team alone in its gang's task,
with no queued trap at its boundary, halts it there: at A-level with cause PREEMPT, TPC at its next bundle, and its queues in
the image; at H-level with the first trap's registers as they were. The lease of a stream with no team left bound is suspended,
or has run out, but for a migration. The context is saved, and the slot freed, once no near-memory command of the team and no
write to a peer is outstanding: every register, and local memory byte for byte. What a save waits for and what stays at H-level
are the model's choice: logs 24, 25 and 85. -/
def Obligations.PreemptionAndSave : Prop :=
  ∀ (s : State) (tk : Nat), tk < 640 →
    let u := s.team tk
    let core := coreOf tk
    let x := s.stream u.bind.slot
    let may := fun (why : PreemptWhy) => match why with
      | .room => u.bind.cls ≠ 0 ∧ roomWanted s x.part = true
      | .drain => u.preemptReq = true
      | .migrate => True
    (∀ why, ¬may why → exec (.preemptionRequest ⟨tk, why⟩) s = .next s) ∧
    (∀ why, may why → u.status = .running → s.haltSet tk = [tk] → (∀ e ∈ u.q.all, e.fault = none) →
      ∃ t, exec (.preemptionRequest ⟨tk, why⟩) s = .next t ∧ t = { s with teams := t.teams, streams := t.streams, ms := s.ms.setLinks tk [] } ∧
        (∀ k, k ≠ tk → t.team k = s.team k) ∧ (t.team tk).status = .halted ∧ (t.team tk).was = .running ∧
        (t.team tk).pc = u.pc ∧ (t.team tk).level = u.level ∧ (t.team tk).bind = u.bind ∧
        (u.level = .a → (t.team tk).ctl.tcause = 0x0F#8 ∧ (t.team tk).ctl.tval = 0#64 ∧ (t.team tk).ctl.tpc = u.pc &&& 0x01FFFFFFFFFFFFFC#64 ∧
          (t.team tk).ctl.tstatus = 0#4 ∧ (t.team tk).image = some u.q ∧ (t.team tk).q = Queues.empty ∧
          (t.team tk).ctl.mkp = BitVec.ofNat 16 (oldestStart u.q.mq) ∧ (t.team tk).ctl.cp = BitVec.ofNat 64 (oldestStart (u.q.cq0 ++ u.q.cq1)) ∧
          ((∀ e ∈ u.q.viq, ∀ vb kb, e.op ≠ .v (.trunc vb kb)) → (t.team tk).vec = u.vec ∧ (t.team tk).under = [])) ∧
        (u.level = .h → (t.team tk).ctl = u.ctl ∧ (t.team tk).q = u.q.again ∧ (t.team tk).image = u.image ∧ (t.team tk).regs = u.regs ∧
          (t.team tk).hregs = u.hregs ∧ (t.team tk).vec = u.vec) ∧
        (∀ k, k ≠ u.bind.slot → t.stream k = s.stream k) ∧
        (why = .migrate ∨ x.lease.st ≠ .active ∨ (∃ j ∈ s.teamsOf u.bind.slot, j ≠ tk ∧ (s.team j).status ≠ .halted) →
          t.stream u.bind.slot = x) ∧
        (why ≠ .migrate → x.lease.st = .active → (∀ j ∈ s.teamsOf u.bind.slot, j = tk ∨ (s.team j).status = .halted) →
          t.stream u.bind.slot = { x with lease :=
            if x.lease.left.toNat ≤ 10 then { x.lease with st := .expired, left := 0#32, lapsed := some x.lease.left }
            else { x.lease with st := .suspended } })) ∧
    (u.status = .halted → (∃ j ∈ s.jobs, j.ofTeam tk = true) ∨ (∃ y ∈ s.ms.unacked, y.who = .team tk ∧ y.dead = false) →
      exec (.contextSave tk) s = .next s) ∧
    (u.status = .halted → (∀ j ∈ s.jobs, j.ofTeam tk = false) → (∀ y ∈ s.ms.unacked, y.who = .team tk → y.dead = true) → rising s.ms.lm = true →
      ∃ t x, exec (.contextSave tk) s = .next t ∧ t.saved = s.saved ++ [x] ∧ x.team = u ∧ x.k = u.bind.slot ∧ x.seq = u.bind.seq ∧
        x.gidx = u.bind.gidx ∧ x.tidx = u.bind.tidx ∧ t.team tk = Team.reset ∧ (∀ k, k ≠ tk → t.team k = s.team k) ∧
        (∀ k, k < u.lmSize → look 0#8 x.lm k = s.ms.lmByte core (u.lmBase + k)) ∧
        (∀ y ∈ s.ms.unacked, y.who = .team tk → y ∈ x.unacked) ∧ (∀ y ∈ t.ms.unacked, y.who ≠ .team tk) ∧
        ∀ l ∈ (t.ms.core core).l1, l.dirty = 0#64 ∨ s.ms.isPop (l.pa * 64) = false)

/-- R27, R31, R362, R364, R380, R387, R391, R28, R365, R366: A gang whose turn it is, placed on distinct cores of one cluster with
room, none of them more worn than one left out, is bound: each team's record names it, its gang and its place, not yet armed, in
its stream's address space, with its class floor of capacity, 64 positions at level 2; a gang that may not be bound yet is not.
The floors in positions and the choice within the cluster are the model's: logs 44 and 92; the record's fields follow log 8. A
write of a cluster's arm register arms all of a gang's bound records or none; a write of a start-phase entry is kept, and
touches nothing else. -/
def Obligations.GangBinding : Prop :=
  (∀ (s : State) (k id g : Nat) (places : List Placement) (w : WEntry) (ker gcnt gsz lmu : Nat) (args : List Word), k < 32 →
     let x := s.stream k
     let me : Waiting := { k := k, id := id, cls := x.lrec.cls.toNat, no := w.issueNo, gsz := gsz, lmu := lmu, prot := x.lrec.prot }
     x.entry? id = some w → w.op = .launch ker gcnt gsz lmu args →
     (nextGang w ≠ some g → exec (.gangBind k id g places) s = .next s) ∧
     let least := leastWorn s (fun core => coreTakes s core lmu me.cls) places
     (firstPlaceable s x.part me = false → exec (.gangBind k id g places) s = .next s) ∧
     (least = false → exec (.gangBind k id g places) s = .next s) ∧
     (x.active = true → nextGang w = some g → producersBound s k w = true → firstPlaceable s x.part me = true →
       placesOk s x.part gsz lmu me.cls me.prot places = true → least = true → x.taskOf (w.seq.getD 0#64) = some w →
       ∃ t, exec (.gangBind k id g places) s = .next t ∧ places.length = gsz ∧
         (t.stream k).taskOf (w.seq.getD 0#64) = some { w with gangs := w.gangs.set g .bound } ∧
         (∀ tk, (∀ y ∈ places, 2 * y.core + y.slot ≠ tk) → t.team tk = s.team tk) ∧
         ∀ i y, places[i]? = some y →
           let b := (t.team (2 * y.core + y.slot)).bind
           (t.team (2 * y.core + y.slot)).status = .bound ∧ b.v = true ∧ b.arm = false ∧ b.args = args ∧ b.asn = (s.streamSpace k).1 ∧ b.root = (s.streamSpace k).2 ∧
           b.seq = w.seq.getD 0#64 ∧ b.gidx = g ∧ b.gcnt = gcnt ∧ b.cls = me.cls ∧ b.gsz = gsz ∧ b.tidx = i ∧ b.lmb = y.lmb ∧ b.lmu = lmu ∧
           b.prot = me.prot ∧ b.slot = k ∧ (t.team (2 * y.core + y.slot)).cap32 =
             if (s.cluster (y.core / 8)).level = .l2 then 64 else match me.cls with | 0 => 256 | 1 => 128 | _ => 64)) ∧
  (∀ (s : State) (c v : Nat) (m : BitVec 16), c < 40 →
     let tks := maskSlots c m
     let whole := ∀ tk ∈ tks, ∀ e ∈ s.gang tk, e.1 ∈ tks
     let ready := ∀ tk ∈ tks, (s.team tk).bind.v = true ∧ (s.team tk).status = .bound
     (whole → ready → ∃ t, exec (.gangArm c m) s = .next t ∧ (t.cluster c).armMask = m ∧
       (∀ tk ∈ tks, t.team tk = { s.team tk with status := .armed, bind := { (s.team tk).bind with arm := true } }) ∧
       ∀ tk, tk ∉ tks → t.team tk = s.team tk) ∧
     (¬(whole ∧ ready) → ∃ t, exec (.gangArm c m) s = .next t ∧ (t.cluster c).armMask = m ∧ t.teams = s.teams) ∧
     (∃ t, exec (.startPhaseTableWrite c v) s = .next t ∧ t = { s with clusters := t.clusters } ∧
       t.cluster c = { s.cluster c with phase := BitVec.ofNat 6 v } ∧ ∀ d, d ≠ c → t.cluster d = s.cluster d))

/-- R34, R35, R36: At the start of an armed gang every one of its teams has its first-bundle registers, its control registers at
their start values, its PC at the kernel's entry, and its local memory at the object's image, zero elsewhere, full where the
image lies, with no poison; a team resumed goes on as it was. -/
def Obligations.TeamStart : Prop :=
  ∀ (s : State) (k id g : Nat) (w : WEntry), k < 32 → (s.stream k).entry? id = some w →
    let tks := (s.teamsOfTask k (w.seq.getD 0#64)).filter (fun tk => decide ((s.team tk).bind.gidx = g))
    ((∃ tk ∈ tks, (s.team tk).status ≠ .armed) → exec (.teamStart k id g) s = .next s) ∧
    ((∀ tk ∈ tks, (s.team tk).status = .armed) → rising s.teams = true → s.ms.ok = true → (tks.map coreOf).Nodup →
      (∀ tk ∈ tks, (s.team tk).bind.lmb + (s.team tk).bind.lmu ≤ 48) →
      ∃ t, exec (.teamStart k id g) s = .next t ∧ (∀ tk, tk ∉ tks → t.team tk = s.team tk) ∧
        (∀ tk ∈ tks, (s.team tk).resume = true → t.team tk = { s.team tk with resume := false, status := (s.team tk).was }) ∧
        ∀ tk ∈ tks, (s.team tk).resume = false →
          let u := s.team tk
          let v := t.team tk
          let b := u.bind
          let img := (lmImage s u).take u.lmSize
          v.status = .running ∧ v.pc = b.entry ∧ v.level = .a ∧ v.bind = b ∧ v.ctl = Ctl.start ∧ v.vec = VecState.start ∧ v.q = Queues.empty ∧
          v.flights = [] ∧ v.krels = [] ∧
          (∀ r : Reg, v.reg r = startReg b r.toNat) ∧
          ∀ o, o < u.lmSize →
            t.ms.lmByte (coreOf tk) (u.lmBase + o) = img.getD o 0#8 ∧
            t.ms.isFull (coreOf tk) (u.lmBase + o) = decide (o / 16 * 16 < img.length) ∧
            t.ms.lmBad (coreOf tk) (u.lmBase + o) = false)

/-- R29, R166, R169, R218, R391: A saved gang is resumed whole where it is placed: every team with its saved state, its new
local-memory base, its local memory byte for byte, waiting to be armed; a team halted at A-level goes on at TPC with its queues,
whose syllables see the vector state the handler's grants left them. Which cores it prefers within its cluster is the model's
choice: log 92. -/
def Obligations.GangResumption : Prop :=
  ∀ (s : State) (k id g : Nat) (places : List Placement) (w : WEntry) (ker gcnt gsz lmu : Nat) (args : List Word), k < 32 →
    let x := s.stream k
    let n := w.seq.getD 0#64
    let mine := fun (y : SavedTeam) => decide (y.k = k) && decide (y.seq = n) && decide (y.gidx = g)
    x.entry? id = some w → w.op = .launch ker gcnt gsz lmu args → x.active = true → w.gangs[g]? = some .saved →
    (∀ h ∈ w.gangs.take g, h = .bound ∨ h = .ended) → producersBound s k w = true → x.taskOf n = some w →
    placesOk s x.part gsz lmu x.lrec.cls.toNat x.lrec.prot places = true → s.ms.ok = true →
    leastWorn s (fun core => coreTakes s core lmu x.lrec.cls.toNat && savedSuits s k n g core) places = true →
    (∀ i y z, places[i]? = some y → z ∈ s.saved → mine z = true → z.tidx = i → lanesSuit s z y.core = true ∧ z.team.bind.lmu = lmu ∧
      rising z.lm = true ∧ ∀ e ∈ z.lm, e.1 < lmu * 65536) →
    ∃ t, exec (.gangResume k id g places) s = .next t ∧ t.saved = s.saved.filter (fun y => !mine y) ∧
      (t.stream k).taskOf n = some { w with gangs := w.gangs.set g .bound } ∧
      ∀ i y z, places[i]? = some y → s.saved.find? (fun z => mine z && decide (z.tidx = i)) = some z →
        let v := t.team (2 * y.core + y.slot)
        v.status = .bound ∧ v.resume = true ∧ v.was = z.team.was ∧ v.bind = { z.team.bind with lmb := y.lmb, arm := false, v := true } ∧
        v.level = z.team.level ∧ v.hregs = z.team.hregs ∧ v.krels = z.team.krels ∧
        (∀ a ∈ z.unacked, ({ a with who := .team (2 * y.core + y.slot) } : Unack) ∈ t.ms.unacked) ∧
        (z.team.level = .h → v.regs = z.team.regs ∧ v.pc = z.team.pc ∧ v.q = z.team.q.unplaced ∧
          v.image = z.team.image.map Queues.unplaced ∧ v.ctl = z.team.ctl ∧ v.vec = z.team.vec) ∧
        (∀ q, z.team.level = .a → z.team.was = .running → z.team.image = some q → v.q = q.again.unplaced ∧ v.image = none ∧
          v.pc = z.team.ctl.tpc ∧ v.ctl = { z.team.ctl with es := 0#16, mkp := 0#16, cp := 0#64 } ∧ v.under = [] ∧
          v.vec = (match z.team.under with | c :: _ => c.vec | [] => z.team.vec) ∧
          (slotFlights z.team.ctl = [] → z.team.saved = [] → v.regs = z.team.regs)) ∧
        ∀ o, o < lmu * 65536 → t.ms.lmByte y.core (y.lmb * 65536 + o) = look 0#8 z.lm o

/-! ### The task window (R335 to R360, R372, R373) -/

/-- R43, R346, R348, R352, R335, R336, R337, R349, R351, R377, R401: A waiting task whose conditions hold and behind no older one
that can issue issues, taking its place in the order of issue; one behind a fence, behind a producer or a conflicting task,
behind a `twait`, or behind an entry not complete where it may not issue speculatively, waits, and so does one behind an older
task that can issue. A launch whose gangs have all ended is complete. A `twait` is complete once its knot's COUNT has reached
the threshold, and not before. Which older task is a producer and which conflicts where regions overlap in part is the model's
choice: log 59. The complete head entry leaves the window, and its watchdog is reloaded: a task's renamed buffers stand in the
retired map with the descriptors it received, the ones they had before going to the tail of the free list; a `tsig` adds its
increment to its knot's COUNT, once no write of its stream to a peer is to be acknowledged, and becomes Faulted with PAGE_STORE
where one can no longer be; a `tfree` undeclares its buffer. Which writes count as the stream's is the model's choice: log 103. -/
def Obligations.TaskProgress : Prop :=
  (∀ (s : State) (k id : Nat) (w : WEntry), k < 32 →
     let x := s.stream k
     let has := fun (t : State) (e : WEntry) => OnlyStream k s { t with ms := s.ms, issueNo := s.issueNo } ∧ (t.stream k).entry? id = some e ∧
       t.stream k = { x with window := (t.stream k).window }
     x.entry? id = some w →
     (x.active = true → x.ending = none → w.seq ≠ none → w.st = .waiting → (∀ all a, w.op ≠ .nm all a) →
       (∀ o ∈ x.older id, (w.producedBy o = true → o.st = .complete ∨ (w.after = true ∧ o.st = .issued)) ∧ w.conflicts o = false ∧
         (w.spec = true ∨ o.st = .complete) ∧ o.op ≠ .fence ∧ (∀ a b, o.op = .wait a b → o.st = .complete) ∧
         ¬(o.st = .waiting ∧ o.seq ≠ none ∧ mayIssue s k o = true)) →
       kernelHeld s k w = false →
       ∃ t, exec (.taskIssue k id) s = .next t ∧ has t { w with st := .issued, issueNo := s.issueNo } ∧ t.issueNo = s.issueNo + 1 ∧ t.ms = s.ms) ∧
     ((∃ o ∈ x.older id, o.op = .fence ∨ (w.spec = false ∧ o.st ≠ .complete) ∨ w.isNm = true ∨
         (w.producedBy o = true ∧ w.after = false ∧ o.st ≠ .complete) ∨ w.conflicts o = true ∨
         ((∃ a b, o.op = .wait a b) ∧ o.st ≠ .complete) ∨ (o.st = .waiting ∧ o.seq ≠ none ∧ mayIssue s k o = true)) →
       exec (.taskIssue k id) s = .next s) ∧
     ((∃ a b c d e, w.op = .launch a b c d e) → w.st = .issued →
       ((∀ g ∈ w.gangs, g = .ended) → ∃ t, exec (.taskComplete k id) s = .next t ∧ has t { w with st := .complete } ∧ t.issueNo = s.issueNo ∧
         t.ms = s.ms) ∧
       ((∃ g ∈ w.gangs, g ≠ .ended) → exec (.taskComplete k id) s = .next s)) ∧
     (∀ knot thr p, w.op = .wait knot thr → w.st = .waiting → streamKnot s k .read knot = (s, .ok p) →
       (s.ms.homeRead p.pa 8 < thr.toNat → exec (.twaitComplete k id) s = .next s) ∧
       (thr.toNat ≤ s.ms.homeRead p.pa 8 → ∃ t, exec (.twaitComplete k id) s = .next t ∧ has t { w with st := .complete } ∧
         t.issueNo = s.issueNo ∧ t.ms = s.ms))) ∧
  (∀ (s : State) (k : Nat) (w : WEntry) (rest : List WEntry), k < 32 →
     let x := s.stream k
     let p := s.part x.part
     let freed := fun (d : Option Nat) => match d with | some i => (match p.descs.find? (fun y => decide (y.id = i)) with | some y => [y] | none => []) | none => []
     let left := fun (t : State) (m : List (Nat × LBuf)) (old : Option Nat) =>
       t.stream k = { x with window := rest, rmap := m, wdLeft := if x.lrec.wdper = 0#32 then p.wdper else x.lrec.wdper } ∧
       (∀ j, j ≠ k → t.stream j = s.stream j) ∧ t.part x.part = { p with free := p.free ++ freed old } ∧ t.teams = s.teams
     x.window = w :: rest →
     (w.st ≠ .complete → exec (.entryRetire k) s = .next s) ∧
     (w.st = .complete →
       (∀ i o n lb d z f pl old, w.op = .copy i o n → w.renamed = [(lb, d)] → look .undeclared x.rmap lb = .renamable z f pl old →
         ∃ t, exec (.entryRetire k) s = .next t ∧ left t (put x.rmap lb (.renamable z f pl (some d))) old ∧ t.ms = s.ms) ∧
       (∀ lb, w.op = .free lb → ∃ t, exec (.entryRetire k) s = .next t ∧ left t (drop x.rmap lb) w.oldDesc ∧ t.ms = s.ms) ∧
       (∀ knot inc m a, w.op = .sig knot inc → w.renamed = [] → Memory.wf s.ms.mem → streamKnot s k .write knot = ({ s with ms := m }, .ok a) →
         let mine := fun (y : Unack) => decide (y.who = .stream k)
         (m.ackWait mine = .waits → exec (.entryRetire k) s = .next { s with ms := m }) ∧
         (∀ v, m.ackWait mine = .lost v → ∃ t, exec (.entryRetire k) s = .next t ∧
           OnlyStream k { s with ms := m.dropUnacked (fun y => mine y && y.dead) } t ∧ t.stream k = { x with window := (t.stream k).window } ∧
           (t.stream k).entry? w.id = some { w with
             st := .faulted
             fault := some { reason := .streamMem, cause := Cause.pageStore.code, gidx := 0, tidx := 0, tval := BitVec.ofNat 64 v } }) ∧
         (m.ackWait mine = .done → ∃ t, exec (.entryRetire k) s = .next t ∧ left t x.rmap none ∧
           t.ms.homeRead a.pa 8 = ((m.markWrite a knot.toNat).homeRead a.pa 8 + inc.toNat) % 2 ^ 64 ∧
           ∀ q, q < a.pa ∨ a.pa + 8 ≤ q → ¬markBytes m a knot.toNat q → t.ms.byteAt q = m.byteAt q))))

/-- R356, R357, R358, R360: A faulted entry at the head of the window squashes the window, restores the slot to the state in which
its T-op was decoded, leaves the fault record, and stops decode; the descriptors of the squashed tasks go back. The resident OS
then restarts decode, backing a page of the deferred range first, at most once, by a page of HBM4E that its table writes map
there, zero and free of poison, or ends the stream with TASK_FAULT. -/
def Obligations.TaskFaults : Prop :=
  ∀ (s : State) (k : Nat), k < 32 →
    let x := s.stream k
    let p := s.part x.part
    (∀ (w : WEntry) (rest : List WEntry) (f : EntryFault), x.window = w :: rest → w.fault = some f → w.st = .faulted →
      rising s.teams = true →
      ∃ t, exec (.taskFaultTaken k) s = .next t ∧
        t.stream k = { x with
          window := [], spc := w.snapSpc, t := w.snapT, smap := w.snapMap, seq := w.snapSeq, stopped := true
          faultRec := some { topAddr := w.snapSpc, seq := w.snapSeq, reason := f.reason.code, cause := f.cause, gidx := f.gidx, tidx := f.tidx,
                             tval := f.tval } } ∧
        (∀ j, j ≠ k → t.stream j = s.stream j) ∧
        (∀ d y, (∃ e ∈ w :: rest, ∃ lb, (lb, d) ∈ e.renamed) → p.descs.find? (fun y => decide (y.id = d)) = some y →
          y ∈ (t.part x.part).free) ∧
        ∀ tk, (s.team tk).bind.slot ≠ k → t.team tk = s.team tk) ∧
    (∀ (f : FaultRecord) (back : Option Backing), x.faultRec = some f → x.active = true → x.ending = none → x.stopped = true → x.window = [] →
      let deferred := f.reason = 1 ∧ (f.cause = 6 ∨ f.cause = 7) ∧ x.lrec.defbase.toNat ≤ f.tval.toNat ∧
        f.tval.toNat < x.lrec.defbase.toNat + x.lrec.deflen.toNat ∧ ((s.streamSpace k).1, f.tval.toNat / 65536) ∉ p.backed
      let sp := s.streamSpace k
      let lo := f.tval.toNat / 65536 * 65536
      let fits := fun (b : Backing) =>
        let m := s.ms.writeTables b.writes
        b.page * 65536 < 2 ^ 44 ∧ m.isPop (b.page * 65536) = true ∧ pageMapped m sp.2 (f.tval.toNat / 65536) = true ∧
        physOf m sp.2 lo = b.page * 65536 ∧ spaceBusy s sp.1 lo (lo + 65536) = false
      (∃ t, exec (.streamRestart k false back) s = .next t ∧ OnlyStream k s t ∧
        t.stream k = { x with ending := some .taskFault, endReason := f.reason, endCause := f.cause }) ∧
      (¬deferred → ∃ t, exec (.streamRestart k true back) s = .next t ∧ OnlyStream k s t ∧ t.stream k = { x with stopped := false }) ∧
      (deferred → exec (.streamRestart k true none) s = .next s) ∧
      (deferred → ∀ b, ¬fits b → exec (.streamRestart k true (some b)) s = .next s) ∧
      (deferred → ∀ b, fits b → rising s.ms.mem = true → (∀ c, ∀ l ∈ (s.ms.core c).l1, reachedIn sp.1 lo (lo + 65536) l = true → l.dirty = 0#64) →
        ∃ t, exec (.streamRestart k true (some b)) s = .next t ∧ t.stream k = { x with stopped := false } ∧
          (sp.1, f.tval.toNat / 65536) ∈ (t.part x.part).backed ∧
          (∀ o, o < 65536 → t.ms.byteAt (b.page * 65536 + o) = 0#8 ∧ t.ms.poisoned (b.page * 65536 + o) = false) ∧
          ∀ e ∈ t.ms.tlb, e.asn = sp.1 → e.va + e.size ≤ lo ∨ lo + 65536 ≤ e.va))

/-- R372, R373, R384, R398: Once no near-memory command of it still writes and no write of it to a peer is to be acknowledged, a
stream that ends is no longer active, and its slot is back in its partition's address space; its interrupts are sent; its lease
is over; its completion record, where it names one that can be written, holds its status, reason, cause, discarded launches,
SEQ, handle and tag at their places. A record that cannot be written and the number of a virtual function follow the model's
choice: logs 37 and 38; which writes it waits for, log 103. -/
def Obligations.StreamEnding : Prop :=
  ∀ (s : State) (k : Nat) (e : EndStatus), k < 32 →
    let x := s.stream k
    let a := x.lrec.status
    let s0 := s.publishPart (s.part x.part)
    let s' := { s0 with ms := s0.ms.dropUnacked (fun y => decide (y.who = .stream k)) }
    x.active = true → x.ending = some e →
    ((∃ j ∈ s.jobs, j.slot = k) → exec (.streamEnd k) s = .next s) ∧
    ((∀ j ∈ s.jobs, j.slot ≠ k) → (∃ y ∈ s0.ms.unacked, y.who = .stream k ∧ y.dead = false) → exec (.streamEnd k) s = .next s0) ∧
    ((∀ j ∈ s.jobs, j.slot ≠ k) → (∀ y ∈ s0.ms.unacked, y.who = .stream k → y.dead = true) → x.qen = false → x.devq = [] →
      ∃ t, exec (.streamEnd k) s = .next t ∧
      (t.stream k).active = false ∧ (t.stream k).ending = none ∧ (t.stream k).space = none ∧ (t.stream k).window = [] ∧ (t.stream k).qstate = .disabled ∧
      (∀ j, j ≠ k → t.stream j = s.stream j) ∧ t.teams = s.teams ∧
      (∃ v, t.msis = s.msis ++ [{ fn := 0, vec := 1 + k, what := .completion }, { fn := 1 + x.part, vec := v, what := .completion }]) ∧
      (x.lease.st = .active ∨ x.lease.st = .suspended → (t.stream k).lease.st = if e = .done then .expired else .forfeited) ∧
      (a = 0#64 → t.ms = s'.ms) ∧
      ∀ (pa : Nat) (m : Nat → Xlat), a ≠ 0#64 → rising s'.ms.mem = true →
        (∀ i, i < 32 → streamXlat s' k .write (a + BitVec.ofNat 64 i) = (s', .ok (m i)) ∧ (m i).pa = pa + i ∧ pageBlk (m i).ent.leaf = 0 ∧
          (s'.ms.current (m i).ent).dc = true ∧ (s'.ms.current (m i).ent).marked.contains ((a.toNat + i) / 65536) = true ∧
          (∀ sp, s'.ms.space? (m i).ent.asn = some sp → sp.ckpt = false)) →
        t.ms.homeRead pa 32 = e.code + x.endReason % 256 * 2 ^ 16 + (if e = .taskFault then x.endCause % 256 else 0) * 2 ^ 24 +
          x.discarded % 2 ^ 32 * 2 ^ 32 +
          (if e = .badRecord ∨ e = .loadFailed ∨ (e = .done ∧ x.lrec.load = true) then 0 else x.seq.toNat) * 2 ^ 64 +
          (if e = .done then x.handle.toNat else 0) * 2 ^ 128 + x.lrec.tag.toNat * 2 ^ 192)

/-! ### The host's and the operator's side (R40, R183 to R191, R367 to R382, R402) -/

/-- R328, R367, R368, R369, R370, R377, R376, R382, R397: A kick writes TAIL. An idle, enabled slot whose ring holds a well-formed
record under the expected tag starts it: SPC is ENTRY, the stream registers are clear, HEAD is one on, the watchdog is loaded,
and the stream is a context of its own. With another tag the slot retries, and parks after the fifth; a kick meanwhile starts
the window of retries afresh, whatever waits in the device queue; a slot of a draining partition takes nothing. What an idle
slot is follows log 39; that the descriptors its last stream still held are free then is the model's choice: log 58. The
register page: QBASE and QSIZE are written only while the queue is disabled, by their access codes; QCTL.EN enables with HEAD
and TAIL 0 or disables; QCTL.ABORT ends every stream of the running context TORN_DOWN and discards what it had queued; LEASE
takes each legal field, and requests a lease where both are; an offset with no register ignores writes. What a tear-down
discards and frees follows the model's choice: logs 41 and 58. -/
def Obligations.RecordFetch : Prop :=
  (∀ (s : State) (k : Nat) (v : Word), k < 32 →
     let x := s.stream k
     let p := s.part x.part
     let ring := x.qbase + BitVec.ofNat 64 (64 * (x.head.toNat % 2 ^ x.qsize.toNat))
     let open' := x.active = false ∧ x.qen = true ∧ x.devq = [] ∧ p.draining = false ∧ p.slots.contains k = true
     (x.active = true → x.qstate = .running → ∃ t, exec (.kick k v) s = .next t ∧ OnlyStream k s t ∧ t.stream k = { x with tail := v, parked := false }) ∧
     (open' → x.qstate = .idle → ¬x.head.toNat < v.toNat → ∃ t, exec (.kick k v) s = .next t ∧ OnlyStream k s t ∧
       t.stream k = { x with tail := v, parked := false }) ∧
     (∀ w : Nat → Word, open' → x.qstate = .idle → x.head.toNat < v.toNat →
       (∀ i, i < 8 → streamRead s k (ring + BitVec.ofNat 64 (8 * i)) = (s, .ok (w i))) → w 7 = x.head + 1#64 →
       (w 0).toNat % 8 = 0 → (w 0).toNat < 2 ^ 57 → (w 4).toNat % 32 = 0 → (w 2).toNat % 65536 = 0 → (w 3).toNat % 65536 = 0 →
       (w 5).toNat < 2 ^ 34 → w 1 = 0#64 → (∃ a ∈ p.apps, a.handle = w 6) →
       ∃ t, exec (.kick k v) s = .next t ∧ t = { s with streams := t.streams, parts := t.parts, nextCtx := s.nextCtx + 1 } ∧
         (∀ j, j ≠ k → t.stream j = s.stream j) ∧ (∀ j, j ≠ x.part → t.part j = s.part j) ∧
         t.part x.part = { p with free := p.free ++ x.heldDescs.filterMap p.desc? } ∧
         let y := t.stream k
         y.active = true ∧ y.ending = none ∧ y.spc = w 0 ∧ y.t = [] ∧ y.window = [] ∧ y.smap = [] ∧ y.rmap = [] ∧ y.seq = 0#64 ∧ y.ctx = s.nextCtx ∧ y.fromHost = true ∧
         y.head = x.head + 1#64 ∧ y.tail = v ∧ y.qstate = .running ∧ y.lrec.status = w 4 ∧ y.lrec.tag = w 7 ∧ y.lrec.cls = (w 5).extractLsb' 32 2 ∧
         y.wdLeft = if (w 5).extractLsb' 0 32 = 0#32 then p.wdper else (w 5).extractLsb' 0 32) ∧
     (∀ tag, open' → x.qstate = .idle → x.head.toNat < v.toNat → streamRead s k (ring + 56#64) = (s, .ok tag) → tag ≠ x.head + 1#64 →
       ∃ t, exec (.kick k v) s = .next t ∧ OnlyStream k s t ∧
         t.stream k = { x with tail := v, parked := false, retries := 0, qstate := .fetching }) ∧
     (∀ tag, x.qstate = .fetching → p.draining = false → x.head.toNat < v.toNat → streamRead s k (ring + 56#64) = (s, .ok tag) →
       tag ≠ x.head + 1#64 → ∃ t, exec (.kick k v) s = .next t ∧ OnlyStream k s t ∧
         t.stream k = { x with tail := v, parked := false, retries := 0 }) ∧
     (p.draining = true → exec (.seqtagRetry k) s = .next s) ∧
     (∀ tag, open' → x.qstate = .fetching → streamRead s k (ring + 56#64) = (s, .ok tag) → tag ≠ x.head + 1#64 →
       ∃ t, exec (.seqtagRetry k) s = .next t ∧ OnlyStream k s t ∧ t.stream k =
         if x.retries + 1 < 5 then { x with retries := x.retries + 1 } else { x with retries := 0, parked := true, qstate := .parked })) ∧
  (∀ (s : State) (k off : Nat) (v : Word), k < 32 →
     let x := s.stream k
     (x.qen = true → off = 0x00 ∨ off = 0x08 → exec (.registerWrite k off v) s = .next s) ∧
     (x.qen = false → ∃ t, exec (.registerWrite k 0x00 v) s = .next t ∧ OnlyStream k s t ∧
       t.stream k = { x with qbase := v &&& 0x01FFFFFFFFFFFFC0#64 }) ∧
     (x.qen = false → v.toNat % 16 ≤ 12 → ∃ t, exec (.registerWrite k 0x08 v) s = .next t ∧ OnlyStream k s t ∧
       t.stream k = { x with qsize := v.extractLsb' 0 4 }) ∧
     (x.qen = false → 12 < v.toNat % 16 → exec (.registerWrite k 0x08 v) s = .next s) ∧
     exec (.registerWrite k 0x10 v) s = exec (.kick k v) s ∧ exec (.registerWrite k 0x30 v) s = exec (.leaseRequest k v) s ∧
     (off ∉ [0x00, 0x08, 0x10, 0x28, 0x30] → exec (.registerWrite k off v) s = .next s) ∧
     (x.qen = false → ∃ t, exec (.qctlEn k true) s = .next t ∧ OnlyStream k s t ∧ t.stream k =
       { x with qen := true, head := 0#64, tail := 0#64, parked := false, retries := 0, qstate := if x.active = true then .running else .idle }) ∧
     (x.qen = true → x.active = true → ∃ t, exec (.qctlEn k false) s = .next t ∧ OnlyStream k s t ∧ t.stream k =
       { x with qen := false, parked := false, retries := 0, qstate := .running }) ∧
     (x.active = false → exec (.abort k) s = .next s) ∧
     (x.active = true → rising s.streams = true → ∃ t, exec (.abort k) s = .next t ∧
       (∀ j, (s.stream j).active = true → (s.stream j).ending = none → (s.stream j).ctx = x.ctx →
         (t.stream j).ending = some .tornDown ∧ (t.stream j).window = []) ∧
       (∀ j, (s.stream j).ctx ≠ x.ctx → (t.stream j).ending = (s.stream j).ending ∧ (t.stream j).window = (s.stream j).window ∧
         (t.stream j).active = (s.stream j).active) ∧
       ∀ j, ∀ d ∈ (t.stream j).devq, d.2 ≠ x.ctx) ∧
     (let dur := v.toNat / 2 ^ 32 % 65536
      let w := v.toNat % 65536
      let okD := 1 ≤ dur ∧ dur ≤ 10000
      let okW := 1 ≤ w ∧ w ≤ 800
      (x.active = false ∨ x.ending ≠ none ∨ x.lrec.load = true ∨ x.lease.st = .active ∨ x.lease.st = .suspended →
        ∃ t, exec (.leaseRequest k v) s = .next t ∧ OnlyStream k s t ∧ t.stream k = x) ∧
      (x.active = true → x.ending = none → x.lrec.load = false → x.lease.st ≠ .active → x.lease.st ≠ .suspended →
        ∃ t, exec (.leaseRequest k v) s = .next t ∧ OnlyStream k s t ∧ t.stream k = { x with lease := { x.lease with
          dur := if okD then BitVec.ofNat 16 dur else x.lease.dur, watts := if okW then BitVec.ofNat 16 w else x.lease.watts
          req := if okD ∧ okW then true else x.lease.req } })))

/-- R208, R261, R375, R184, R185, R187, R191, R374: LAUNCH of a team's handler answers 1 for a slot its partition does not have, 2
for a misaligned record, 3 for a full device queue, 4 for a load record; else it queues the record with a class no better than
the caller's and the caller's debug bit, and answers 0. CAPSCRIPT answers 1 outside a debug launch, 2 for a bad length, 3 for an
odd address, and else loads the script and answers 0. The order of LAUNCH's statuses is the model's choice: log 39. A load
record whose image stands at ARGS ends DONE with the partition's next handle where every step of loading succeeds, and
LOAD_FAILED with the number of the first step that fails, changing nothing else, where one does not: no valid signature 1,
security version 2, digests 3, an ill-formed object 4, generation 5, no room 6. RESOLVE writes a linkage entry that still names
the stub with the export's address, answers 0 in s1, and leaves one already bound as it is; with no such entry or export the
task ends with the trap of its handler. Where the stub lies, the layout of manifest, imports and exports, that the bytes at ARGS
are the event's, or not even a signature's can be read there, and what a failed RESOLVE reports are the model's choice: logs 89,
90, 93, 94 and 36. -/
def Obligations.SystemCalls : Prop :=
  (∀ (s : State) (tk : Nat),
     let u := s.team tk
     let k := u.bind.slot
     let x := s.stream k
     let a := u.reg 1#5
     let n := (u.reg 2#5).toNat
     let answers := fun (t : State) (v : Word) => (t.team tk) = { u with status := .running, call := none, regs := (t.team tk).regs, hregs := (t.team tk).hregs } ∧
       (t.team tk).reg 1#5 = v ∧ (∀ r, r ≠ 1#5 → (t.team tk).reg r = u.reg r) ∧ ∀ j, j ≠ tk → t.team j = s.team j
     u.status = .forwarded → bankOk u.bank = true →
     ({ caller := .team tk, num := 2 } ∈ s.syscalls →
       let slot := (s.part x.part).slotAt n
       (slot = none → ∃ t, exec (.launch (.team tk)) s = .next t ∧ answers t 1#64 ∧ t.streams = s.streams) ∧
       (slot ≠ none → a.toNat % 64 ≠ 0 → ∃ t, exec (.launch (.team tk)) s = .next t ∧ answers t 2#64 ∧ t.streams = s.streams) ∧
       ∀ (d : Nat) (w : Nat → Word), slot = some d → a.toNat % 64 = 0 →
         (∀ i, i < 8 → streamRead s k (a + BitVec.ofNat 64 (8 * i)) = (s, .ok (w i))) →
         let r := recordOf w
         (16 ≤ (s.stream d).devq.length → ∃ t, exec (.launch (.team tk)) s = .next t ∧ answers t 3#64 ∧ t.streams = s.streams) ∧
         ((s.stream d).devq.length < 16 → (w 5).getLsbD 35 = true ∨ 2 ^ 37 ≤ (w 5).toNat ∨ 2 ^ 57 ≤ (w 0).toNat → ∃ t, exec (.launch (.team tk)) s = .next t ∧ answers t 4#64 ∧ t.streams = s.streams) ∧
         ((s.stream d).devq.length < 16 → (w 5).getLsbD 35 = false → (w 5).toNat < 2 ^ 37 → (w 0).toNat < 2 ^ 57 → (s.stream d).active = true →
           ∃ t, exec (.launch (.team tk)) s = .next t ∧ answers t 0#64 ∧ OnlyStream d { s with teams := t.teams, syscalls := t.syscalls } t ∧
             t.stream d = { s.stream d with devq := (s.stream d).devq ++
               [({ r with cls := BitVec.ofNat 2 (max r.cls.toNat x.lrec.cls.toNat), debug := x.lrec.debug }, x.ctx)] })) ∧
     ({ caller := .team tk, num := 3 } ∈ s.syscalls →
       let runs := fun (v : Word) => ∃ t, exec (.capscript (.team tk)) s = .next t ∧ answers t v
       (x.lrec.debug = false → runs 1#64) ∧
       (x.lrec.debug = true → n = 0 ∨ 16 < n → runs 2#64) ∧
       (x.lrec.debug = true → 1 ≤ n → n ≤ 16 → a.toNat % 2 = 1 → runs 3#64) ∧
       (∀ m : Nat → Xlat, x.lrec.debug = true → 1 ≤ n → n ≤ 16 → a.toNat % 2 = 0 →
         (∀ i, i < n → streamXlat s k .read (a + BitVec.ofNat 64 (2 * i)) = (s, .ok (m i)) ∧ inScaleArea (m i).ent (a.toNat + 2 * i) = false ∧ s.ms.poisoned (m i).pa = false) →
         ∃ t, exec (.capscript (.team tk)) s = .next t ∧ (t.team tk).reg 1#5 = 0#64 ∧ (t.team tk).status = .running ∧
           (t.team tk).script = some { caps := (List.range n).map (fun i => s.ms.homeRead (m i).pa 2), pos := 0 }))) ∧
  (∀ (s : State) (k : Nat) (plan : Option MapPlan), k < 32 →
     let x := s.stream k
     let p := s.part x.part
     let fails := fun (image : Option AppImage) (n : Nat) => ∃ t, exec (.loadApplication k image plan) s = .next t ∧ OnlyStream k s t ∧
       t.stream k = { x with ending := some .loadFailed, endReason := n }
     (x.active = true → x.ending = none → x.lrec.load = true →
       (imageStands s k none = false → exec (.loadApplication k none plan) s = .next s) ∧ (imageStands s k none = true → fails none 1) ∧ ∀ i : AppImage,
       let sv := (Config.manifestSv i.manifest).toNat
       (imageStands s k (some i) = false → exec (.loadApplication k (some i) plan) s = .next s) ∧
       (imageStands s k (some i) = true →
         if ∀ key ∈ p.keys, verifies key i.manifest i.sig = false then fails (some i) 1
         else if sv < s.svFuses then fails (some i) 2
         else if i.objs.map sha384 ≠ Config.manifestDigests i.manifest then fails (some i) 3
         else if ∃ b ∈ i.objs, objFormed b sv = false then fails (some i) 4
         else if ∃ b ∈ i.objs, (objOf b).sched = true ∧ (objOf b).gen ≠ 9 then fails (some i) 5
         else match plan.bind (mapImage s.ms p.asn p.root (i.objs.map objOf)) with
           | none => fails (some i) 6
           | some m => ∃ t a, exec (.loadApplication k (some i) plan) s = .next t ∧ t.ms = m ∧
             t.stream k = { x with ending := some .done, handle := p.nextHandle } ∧ (∀ j, j ≠ k → t.stream j = s.stream j) ∧
             t.part x.part = { p with apps := p.apps ++ [a], nextHandle := p.nextHandle + 1#64 } ∧
             a.handle = p.nextHandle ∧ a.objs.map LoadedObj.obj = i.objs.map objOf ∧ a.programs = Config.manifestPrograms i.manifest ∧
             a.kindex = Config.manifestKernels i.manifest ∧ ∀ o ∈ a.objs, o.sched = o.obj.sched ∧ o.holdIssue = false)) ∧
     (∀ (tk : Nat) (w : WEntry), tk < 640 → (s.team tk).status = .forwarded → (s.team tk).bind.slot = k →
       { caller := .team tk, num := 1 } ∈ s.syscalls → x.taskOf (s.team tk).bind.seq = some w → x.entry? w.id = some w → w.st = .issued →
       (∃ n c g l a, w.op = .launch n c g l a) →
       let b := (s.team tk).bind
       let a := (s.team tk).reg 1#5
       let cause := (causeOf (s.team tk).ctl.tcause.toNat).code
       let tval := (s.team tk).ctl.tval
       let ends := ∃ t, exec (.resolve (.team tk)) s = .next t ∧ t.team tk = Team.reset ∧ t.ms.mem = s.ms.mem ∧
         (t.stream k).entry? w.id = some { w with st := .faulted, fault := some { reason := .team, cause := cause, gidx := b.gidx, tidx := b.tidx, tval := tval } }
       (s.appOf k = none → ends) ∧
       (∀ app, s.appOf k = some app → app.linkEntry a.toNat = none → ends) ∧
       (∀ app o j m, s.appOf k = some app → app.linkEntry a.toNat = some (o, j) → streamAccess s k .write a = (s, .ok m) →
         s.ms.poisoned m.pa = false → s.ms.homeRead m.pa 8 = o.stub → app.exportOf (Config.importName (sectionBytes o.obj.sections 6) j) = none → ends)) ∧
     (∀ (tk : Nat) (app : App) (o : LoadedObj) (j : Nat) (m : Xlat) (v : Nat), (s.team tk).status = .forwarded → (s.team tk).bind.slot = k →
       { caller := .team tk, num := 1 } ∈ s.syscalls → bankOk (s.team tk).bank = true → Memory.wf s.ms.mem →
       let a := (s.team tk).reg 1#5
       s.appOf k = some app → app.linkEntry a.toNat = some (o, j) → streamAccess s k .write a = (s, .ok m) → s.ms.poisoned m.pa = false →
       app.exportOf (Config.importName (sectionBytes o.obj.sections 6) j) = some v →
       (s.ms.homeRead m.pa 8 = o.stub → ∃ t, exec (.resolve (.team tk)) s = .next t ∧ (t.team tk).status = .running ∧
         (t.team tk).reg 1#5 = 0#64 ∧ ((∀ b, m.pa ≤ b → b < m.pa + 8 → s.ms.noDirty (coreOf tk) b) →
           t.ms.homeRead m.pa 8 = v % 2 ^ 64) ∧ findLine (t.ms.core (coreOf tk)).l1 (m.pa / 64) = none) ∧
       (s.ms.homeRead m.pa 8 ≠ o.stub → ∃ t, exec (.resolve (.team tk)) s = .next t ∧ (t.team tk).status = .running ∧
         (t.team tk).reg 1#5 = 0#64 ∧ OnlyL1 (coreOf tk) s.ms t.ms ∧ findLine (t.ms.core (coreOf tk)).l1 (m.pa / 64) = none)))

/-- R183, R188, R189, R190, R40, R174, R187, R334, R374, R378, R402, R403: Invalidation of a range removes exactly the cached
translations that meet it, the dirty lines reached through it being home, once nothing under way uses them; a translation signed
by the device that fits its object joins the cache; at a safe point an object's form changes and the cached translations of its
pages go, and before one issue of its tasks is held; a debug launch, a private page or an enabled breakpoint keeps it serial.
What a translation's signature covers, and that its effects equal the source's, are the model's choice: log 96. What is not
signed with the operator key changes nothing. A partitioning request is applied whole and stored, every partition as asked, or
changes nothing; SV fuses only blow; an enrolled key joins its partition's; an unloaded application's handle is gone. What may
not move, and that a request's bytes are those signed, are the model's choice: logs 48 and 95. -/
def Obligations.OperatorRequests : Prop :=
  (∀ (s : State) (part base : Nat) (o : LoadedObj),
     let p := s.part part
     (∀ asn lo hi, spaceBusy s asn lo hi = true → exec (.tlbInvalidate asn lo hi) s = .next s) ∧
     (∀ asn lo hi, spaceBusy s asn lo hi = false → ∃ t, exec (.tlbInvalidate asn lo hi) s = .next t ∧ t = { s with ms := t.ms } ∧
       (∀ e, e ∈ t.ms.tlb ↔ e ∈ s.ms.tlb ∧ ¬(e.asn = asn ∧ e.va < hi ∧ lo < e.va + e.size)) ∧
       (∀ c, ∀ l ∈ (t.ms.core c).l1, reachedIn asn lo hi l = true → l.dirty = 0#64 ∨ t.ms.isPop (l.pa * 64) = false) ∧
       ∀ pa, (∀ c, ∀ l ∈ (s.ms.core c).l1, reachedIn asn lo hi l = true → l.pa = pa / 64 → l.dirty.getLsbD (pa % 64) = false) →
         t.ms.byteAt pa = s.ms.byteAt pa) ∧
     (p.loaded? base = some o →
       let busy := spaceBusy s p.asn base (base + o.obj.size)
       let swaps := fun (b : Bool) => ∃ t, exec (.translationSwap part base b) s = .next t ∧
         t.part part = p.setObj base (fun z => { z with sched := b, holdIssue := false }) ∧
         ∀ e ∈ t.ms.tlb, e.asn = p.asn → e.va + e.size ≤ base ∨ base + o.obj.size ≤ e.va
       let holds := fun (b : Bool) => ∃ t, exec (.translationSwap part base b) s = .next t ∧ t.ms = s.ms ∧
         t.part part = p.setObj base (fun z => { z with holdIssue := true })
       (∀ tr : Translation,
         let fits := o.obj.sched = false ∧ s.transSigned tr = true ∧ tr.digest = o.obj.digest ∧ tr.sv = o.obj.sv ∧ tr.gen = 9 ∧
           tr.code.length = o.obj.size ∧ keepsForm o tr.code = true
         (fits → exec (.translateObject part base tr) s = .next { s with trans := s.trans ++ [tr] }) ∧
         (¬fits → exec (.translateObject part base tr) s = .next s)) ∧
       (∀ b, o.obj.sched = true → exec (.translationSwap part base b) s = .next s) ∧
       (heldSerial s part base = true → exec (.translationSwap part base true) s = .next s) ∧
       (o.obj.sched = false → safePoint s part base = true → busy = false → swaps false) ∧
       (o.obj.sched = false → safePoint s part base = false ∨ busy = true → holds false) ∧
       (o.obj.sched = false → heldSerial s part base = false → (∃ tr ∈ s.trans, transUsable s tr o.obj = true) →
         (safePoint s part base = true → busy = false → swaps true) ∧ (safePoint s part base = false ∨ busy = true → holds true)) ∧
       (o.obj.sched = false → heldSerial s part base = false → (∀ tr ∈ s.trans, transUsable s tr o.obj = false) →
         exec (.translationSwap part base true) s = .next { s with trans := s.trans.filter (fun y => decide (y.digest ≠ o.obj.digest)) }))) ∧
  (∀ (s : State) (g : Signed) (req : List PartReq) (n part : Nat) (key : PubKey) (handle : Word),
     (s.byOperator g = false → exec (.partitionChange ⟨req, g⟩) s = .next s ∧ exec (.fuseAdvance ⟨n, g⟩) s = .next s ∧
       exec (.keyEnroll part ⟨key, g⟩) s = .next s ∧ exec (.applicationUnload part ⟨handle, g⟩) s = .next s) ∧
     (reqFormed req = false → exec (.partitionChange ⟨req, g⟩) s = .next s) ∧
     ((∃ r ∈ req.zipIdx, reqMoves s r.2 r.1 = true) → exec (.partitionChange ⟨req, g⟩) s = .next s) ∧
     (s.byOperator g = true →
       (reqFormed req = true → (∀ r ∈ req.zipIdx, reqMoves s r.2 r.1 = false) → (∀ e ∈ s.parts, e.1 < req.length) →
         ∃ t, exec (.partitionChange ⟨req, g⟩) s = .next t ∧ t.stored = req ∧ ∀ (j : Nat) (r : PartReq), req[j]? = some r →
           (t.part j).pairs = r.pairs ∧ (t.part j).slots = r.slots ∧ (t.part j).asn = r.asn ∧ (t.part j).root = r.root ∧ (t.part j).wdper = r.wdper ∧
           (t.part j).more = r.more.map (fun y => (y.1, y.2.1)) ∧ (∀ k ∈ r.slots, (t.stream k).part = j) ∧
           ∀ y ∈ (r.asn, r.root, r.dmap) :: r.more, ∃ sp ∈ t.ms.spaces, sp.asn = y.1 ∧ sp.root = y.2.1 ∧ sp.dmap = y.2.2 ∧ sp.part = j) ∧
       (∃ t, exec (.fuseAdvance ⟨n, g⟩) s = .next t ∧ t = { s with svFuses := if s.svFuses ≤ n ∧ n ≤ 64 then n else s.svFuses }) ∧
       (∃ t, exec (.keyEnroll part ⟨key, g⟩) s = .next t ∧ t = { s with parts := t.parts } ∧ key ∈ (t.part part).keys ∧
         (∀ j, j ≠ part → t.part j = s.part j) ∧ ∀ q, q ≠ key → (q ∈ (t.part part).keys ↔ q ∈ (s.part part).keys)) ∧
       (∃ t, exec (.applicationUnload part ⟨handle, g⟩) s = .next t ∧ t = { s with parts := t.parts } ∧ (∀ j, j ≠ part → t.part j = s.part j) ∧
         ∀ a, a ∈ (t.part part).apps ↔ a ∈ (s.part part).apps ∧ a.handle ≠ handle)))

/-! ### Power, temperature and wear (R377 to R391) -/

/-- R377, R379, R380, R387, R391, R392, R8, R402: A power epoch: the epoch counts on, running watchdogs count its 10 µs, and one
that has run out drains its partition, asks for the pre-emption of its stream's teams and forfeits its stream's lease; no team
changes otherwise but in its capacity. Every resident team's capacity lies within VLMAX(32) and what its cluster's thermal level
and its core's wear allow, and, where its pair's class floors keep balance and budget, at or above its floor. How the shares of
a pair are found, and how floors that keep neither yield, are the model's choice: logs 44 and 46; that a watchdog counts 10 µs
at each epoch, log 31. An operator's signed policy that keeps the shares of all pairs within the module's 3,200 W is kept, and
applies to each pair at once where the pair's floors fit it, else once they do; one that names another partition's pair, or asks
for more, changes nothing. That a policy is refused whole is the model's choice: log 47. -/
def Obligations.PowerEpoch : Prop :=
  (∀ s : State, rising s.teams = true → rising s.streams = true → ∃ t, exec .powerEpoch s = .next t ∧ t.epoch = s.epoch + 1 ∧ t.ms = s.ms ∧
     (∀ tk, t.team tk = { s.team tk with cap32 := (t.team tk).cap32, preemptReq := (t.team tk).preemptReq }) ∧
     (∀ k, k < 32 → (s.stream k).watched = true → (t.stream k).wdLeft.toNat = (s.stream k).wdLeft.toNat - 10) ∧
     (let due := fun (k : Nat) => (s.stream k).watched = true ∧ (s.stream k).wdLeft.toNat ≤ 10
      ((∀ k, k < 32 → ¬due k) → t.parts = s.parts ∧ ∀ tk, (t.team tk).preemptReq = (s.team tk).preemptReq) ∧
      ∀ k, k < 32 → due k → (t.part (s.stream k).part).draining = true ∧
        (∀ tk, (s.team tk).present = true → (s.team tk).bind.slot = k → (t.team tk).preemptReq = true) ∧
        ((s.stream k).lease.st = .active ∨ (s.stream k).lease.st = .suspended → (t.stream k).lease.st = .forfeited)) ∧
     (let most := fun (tk : Nat) => min (vlmax (lanes (s.ms.core (coreOf tk)).lmap (s.team tk).bind.prot) 32)
        (min (match (s.cluster (clusterOf tk)).level with | .l0 => 2048 | .l1 => 1024 | _ => 64)
          (match (s.ms.core (coreOf tk)).wearState with | .healthy => 2048 | _ => 1024))
      let least := fun (tk : Nat) => min (most tk) (match (s.team tk).bind.cls with | 0 => 256 | 1 => 128 | _ => 64)
      let floors := fun (c : Nat) => ((s.resident c).map (fun e => (if e.2.bind.prot then 2 else 1) * least e.1)).sum
      ∀ tk, tk < 640 → (s.team tk).present = true → (t.team tk).cap32 ≤ most tk ∧
        (pairFits (wattUnits (t.pairWatts (tk / 32))) (floors (2 * (tk / 32))) (floors (2 * (tk / 32) + 1)) = true →
          least tk ≤ (t.team tk).cap32))) ∧
  (∀ (s : State) (part p w : Nat) (g : Signed),
     let pairs := (s.part part).pairs
     let asked := fun (q : Nat) => if q = p then w else look (s.pairWatts q) s.pairNext q
     let allowed := ((List.range 20).map asked).foldl (· + ·) 0 ≤ 3200
     (s.byOperator g = false ∨ pairs.contains p = false ∨ ¬allowed → exec (.powerPolicyChange part ⟨[(p, w)], g⟩) s = .next s) ∧
     (s.byOperator g = true → pairs.contains p = true → allowed → s.pairNext = [] →
       ∃ t, exec (.powerPolicyChange part ⟨[(p, w)], g⟩) s = .next t ∧ t = { s with pairW := t.pairW, pairNext := t.pairNext } ∧
         (floorsUnder s p w = true → t.pairWatts p = w ∧ t.pairNext = []) ∧
         (floorsUnder s p w = false → t.pairW = s.pairW ∧ t.pairNext = [(p, w)]) ∧ ∀ q, q ≠ p → t.pairWatts q = s.pairWatts q))

/-- R377, R383, R384, R392, R385, R386, R398: A requested lease is granted at the epoch within the pool and the window, or refused;
one in force runs down while a team of its stream is bound; one whose time has run out expires; a watchdog that has run out
drains its partition, asking for the pre-emption of its streams' teams; the drain's end closes its streams with WATCHDOG,
disables their queues, and gives every descriptor back. A drain forfeits the leases first, one that has expired in the same
epoch too. When within an epoch these fall, that leases and watchdogs count 10 µs at each, and what counts as energy begun, are
the model's choice: logs 31 and 45. An over-current event, and each further kill, ends with POWER_KILL every stream of one
context of the numerically highest class, and among those of the most capacity; the first one is also a module event, on vector
0 of function 0 and of every partition's. What a context is, what its capacity is, what else of it ends and the number of a
virtual function are the model's choice: logs 42, 43 and 38. -/
def Obligations.LeasesAndKills : Prop :=
  (∀ (s : State) (k part : Nat), k < 32 →
     let x := s.stream k
     let quiet := ∀ j, j < 32 → (s.stream j).watched = true → 10 < (s.stream j).wdLeft.toNat
     (∃ t, exec (.leaseExpiry k) s = .next t ∧ OnlyStream k s t ∧ t.stream k =
       if x.lease.st = .active ∧ x.lease.left.toNat ≤ 10 ∧ s.anyBound k = true then
         { x with lease := { x.lease with st := .expired, left := 0#32, lapsed := some x.lease.left } } else x) ∧
     (x.lease.req = false → x.lease.st = .active → quiet → ∃ t, exec .powerEpoch s = .next t ∧ (t.stream k).lease =
       let l := { x.lease with lapsed := none }
       if s.anyBound k = false then l
       else if x.lease.left.toNat ≤ 10 then { l with st := .expired, left := 0#32 } else { l with left := x.lease.left - 10#32 }) ∧
     (x.lease.req = true → x.lease.st ≠ .active → quiet → (∀ j, j ≠ k → (s.stream j).lease.req = false ∧ (s.stream j).lease.st ≠ .active ∧
         (s.stream j).lease.st ≠ .suspended) → s.energy = [] → rising s.streams = true →
       ∃ t, exec .powerEpoch s = .next t ∧ (t.stream k).lease =
         let w := min x.lease.watts.toNat (min 800 (8000000 / max 1 x.lease.dur.toNat))
         if w = 0 then { x.lease with req := false, st := .refused, granted := 0#16, left := 0#32, lapsed := none }
         else { x.lease with req := false, st := .active, granted := BitVec.ofNat 16 w, left := x.lease.dur.setWidth 32, lapsed := none }) ∧
     (10 < x.wdLeft.toNat → exec (.watchdogExpiry k) s = .next s) ∧
     (x.active = true → x.ending = none → x.lrec.load = false → x.wdLeft.toNat ≤ 10 →
       ∃ t, exec (.watchdogExpiry k) s = .next t ∧ (t.part x.part).draining = true ∧ t.stream k = { x with wdLeft := 0#32, endReason := 1, lease := x.lease.end' .watchdog } ∧
         (∀ j, (s.stream j).part = x.part → (s.stream j).active = true →
           (s.stream j).lease.st = .active ∨ (s.stream j).lease.st = .suspended ∨ (s.stream j).lease.lapsed ≠ none → (t.stream j).lease.st = .forfeited) ∧
         ∀ tk, (s.team tk).present = true → (s.team tk).bind.slot = k →
           t.team tk = { s.team tk with preemptReq := true }) ∧
     ((s.part part).draining = false → exec (.drainKillTimeout part) s = .next s) ∧
     ((s.part part).draining = true → rising s.streams = true → ∃ t, exec (.drainKillTimeout part) s = .next t ∧
       (t.part part).draining = false ∧ (t.part part).free = (s.part part).descs ∧
       (∀ e ∈ t.ms.knots, e.1 / 65536 ≠ part) ∧
       (∀ j, (s.stream j).part ≠ part → t.stream j = s.stream j) ∧
       ∀ j, (s.stream j).active = true → (s.stream j).part = part →
         (t.stream j).window = [] ∧ (t.stream j).qen = false ∧ (t.stream j).devq = [] ∧
         (t.stream j).ending = some (match (s.stream j).ending with | none => .watchdog | some e => e))) ∧
  (∀ (s : State) (pair : Option Nat), (∀ p, pair = some p → p < 20) → rising s.streams = true →
     let mine := fun (c : Nat) => c ∈ s.contexts ∧ ∀ p, pair = some p → ∃ tk ∈ s.ctxTeams c, tk / 32 = p
     let fns := 0 :: ((List.range 20).filter (fun j => decide ((s.part j).pairs ≠ []))).map (1 + ·)
     let msgs := s.msis ++ fns.map (fun f => { fn := f, vec := 0, what := .overCurrent })
     let kills := fun (c : Nat) (t : State) =>
       (∀ j, (s.stream j).active = true → (s.stream j).ending = none → (s.stream j).ctx = c →
         (t.stream j).ending = some .powerKill ∧ (t.stream j).window = []) ∧
       (∀ j, (s.stream j).ctx ≠ c → (t.stream j).ending = (s.stream j).ending ∧ (t.stream j).window = (s.stream j).window)
     ((¬∃ c, mine c) → (∃ t, exec (.overCurrentEvent pair) s = .next t ∧ t = { s with msis := msgs }) ∧ exec (.nextContextKill pair) s = .next s) ∧
     ((∃ c, mine c) → ∃ c t u, mine c ∧ exec (.overCurrentEvent pair) s = .next t ∧ exec (.nextContextKill pair) s = .next u ∧
       t.msis = msgs ∧ u.msis = s.msis ∧ kills c t ∧ kills c u ∧
       ∀ d, mine d → s.ctxClass d ≤ s.ctxClass c ∧ (s.ctxClass d = s.ctxClass c → s.ctxCap d ≤ s.ctxCap c)))

/-- R387, R388, R389, R390, R391: A reading moves a cluster by one level at its thresholds, none of them within the dwell, but for
entry to Trip, which any level makes at 115 °C at once, with the module event. A wear sample adds 10 ms at the greater of its
core's two rates to the core's lifetime record, moves its state at 80, 95 and 100 % of the budget and never back, and charges
the streams of the teams bound since the last one by their active cycles; the record goes to flash every 60 s and at orderly
shutdown. What a sample brings, and whom it charges where no slot was active, follow log 98. -/
def Obligations.ThermalAndWear : Prop :=
  (∀ (s : State) (c : Nat) (r : Int), c < 40 →
     let x := s.cluster c
     let settled := x.dwell ≤ 1
     let goes := fun (l : Thermal) => ∃ t, exec (.thermalSample c r) s = .next t ∧ t = { s with clusters := t.clusters } ∧
       (∀ d, d ≠ c → t.cluster d = s.cluster d) ∧ t.cluster c = { x with level := l, dwell := if l = x.level then x.dwell - 1 else 100 }
     (¬settled → r < 460 → goes x.level) ∧
     (460 ≤ r → x.level ≠ .trip → ∃ t, exec (.thermalSample c r) s = .next t ∧ (t.cluster c).level = .trip ∧
       { fn := 0, vec := 0, what := .trip } ∈ t.msis) ∧
     (settled → r < 460 →
       (x.level = .l0 → goes (if 380 ≤ r then .l1 else .l0)) ∧
       (x.level = .l1 → goes (if 420 ≤ r then .l2 else if r ≤ 368 then .l0 else .l1)) ∧
       (x.level = .l2 → goes (if r ≤ 408 then .l1 else .l2)) ∧
       (x.level = .trip → goes (if r ≤ 448 then .l2 else .trip)))) ∧
  (∀ (s : State) (core bias migration : Nat) (act : List Nat),
     let c := s.ms.core core
     let n := max bias migration
     let w := c.wear + n
     let budget := 200000000 * 2 ^ 20 * 100
     let runs := fun (t : State) => exec (.wearSample core bias migration act) s = .next t
     (core < 320 → w < budget → c.wearState ≠ .retired → ∃ t, runs t ∧ t.teams = s.teams ∧
       (t.ms.core core).wear = w ∧ (∀ k, k ≠ core → t.ms.core k = s.ms.core k) ∧
       (t.ms.core core).wearState = (if 95 * budget ≤ 100 * w then .drained else if c.wearState = .drained then .drained
         else if 80 * budget ≤ 100 * w then .derated else if c.wearState = .derated then .derated else .healthy) ∧
       (∀ tk j q, (tk, j, q) ∈ (t.ms.core core).used ↔ (tk = 2 * core ∨ tk = 2 * core + 1) ∧ (s.team tk).present = true ∧
         j = (s.team tk).bind.slot ∧ q = (s.stream j).serial) ∧
       (∀ tk j q, c.used = [(tk, j, q)] → (t.stream j).wear = (s.stream j).wear + if (s.stream j).serial = q then n else 0) ∧
       (∀ i j p q a b, c.used = [(2 * core, i, p), (2 * core + 1, j, q)] → i ≠ j → (s.stream i).serial = p → (s.stream j).serial = q →
         act = [a, b] →
         (t.stream i).wear = (s.stream i).wear + (if a + b = 0 then n / 2 else n * a / (a + b)) ∧
         (t.stream j).wear = (s.stream j).wear + (if a + b = 0 then n / 2 else n * b / (a + b))) ∧
       (c.used = [] → t.streams = s.streams)) ∧
     (core < 320 → budget ≤ w → ∃ t, runs t ∧ (t.ms.core core).wearState = .retired) ∧
     (∃ t, exec .wearRecordWrite s = .next t ∧ t = { s with flash := t.flash, rates := [], wearAge := [] } ∧ look 0 t.flash core = c.wear) ∧
     (∃ t, exec .orderlyShutdown s = .next t ∧ t.power = .off ∧ look 0 t.flash core = c.wear))

/-! ### Errors, links, checkpoints, bring-up (R173, R178, R393 to R405) -/

/-- R198, R205, R216, R393, R394, R395, R400, R178, R256, R396: A corrected error changes no datum: it drops what parity protects,
to be fetched again, and of a lane slice it is counted. An uncorrected one poisons its 64-byte block, of memory, an accumulator
row, or the register bytes that the physical lane and row hold for a live element, of either copy in a protected team, or the
dirty line it struck, and nothing else. What storage an error strikes is the model's choice: log 22; the 24 h of a lane's count
follow log 69. The background activities and a flit's replay change nothing a program or a host can see. That their effect is
time alone is the model's reading: log 53. A checkpoint round of a space reads and clears its dirty map and leaves a round
record, numbered on, with the number of marked granules; a round with none marked changes no other byte. Checkpointing is turned
on and off, by the operator's signature, for a space alone. How granules lie in the target is the model's choice: log 50; the
bit order of the map: log 83; what is signed: log 95. -/
def Obligations.ErrorsAndCheckpoints : Prop :=
  (∀ (s : State) (b core tk r lane asn va : Nat),
     exec (.eccCorrectableError (.memory b)) s = .next s ∧
     (core < 320 → b < 49152 → exec (.eccCorrectableError (.lm core b)) s = .next s) ∧
     (∃ t, exec (.eccCorrectableError (.tlb asn va)) s = .next t ∧ t = { s with ms := { s.ms with tlb := t.ms.tlb } } ∧
       ∀ e, e ∈ t.ms.tlb ↔ e ∈ s.ms.tlb ∧ ¬(e.asn = asn ∧ e.va ≤ va ∧ va < e.va + e.size)) ∧
     (core < 320 → ∃ t, exec (.eccCorrectableError (.l1 core b)) s = .next t ∧ t = { s with ms := t.ms } ∧ t.ms.mem = s.ms.mem ∧
       ∀ l, l ∈ (t.ms.core core).l1 ↔ l ∈ (s.ms.core core).l1 ∧ ¬(l.pa = b ∧ l.dirty = 0#64)) ∧
     (tk < 640 → r < 32 → b < 32 → lane < 64 → (s.team tk).present = true → ∃ t, exec (.eccCorrectableError (.vreg tk r b lane)) s = .next t ∧ t.teams = s.teams ∧
       t.ms.mem = s.ms.mem ∧ (lane, s.epoch) ∈ (t.ms.core (coreOf tk)).laneErr ∧ (t.ms.core (coreOf tk)).lmap = (s.ms.core (coreOf tk)).lmap) ∧
     (∃ t, exec (.eccUncorrectableError (.memory b)) s = .next t ∧ t = { s with ms := { s.ms with memPoison := t.ms.memPoison } } ∧
       ∀ q, q ∈ t.ms.memPoison ↔ q = b ∨ q ∈ s.ms.memPoison) ∧
     (core < 320 → b < 49152 → ∃ t, exec (.eccUncorrectableError (.lm core b)) s = .next t ∧
       t = { s with ms := { s.ms with lmPoison := t.ms.lmPoison } } ∧
       ∀ o, o < 3145728 → t.ms.lmBad core o = (decide (o / 64 = b) || s.ms.lmBad core o)) ∧
     (tk < 640 → r < 32 → b < 32 → lane < 64 →
       let u := s.team tk
       let ls := usable (s.ms.core (coreOf tk)).lmap u.bind.prot
       let row := if u.ctl.width = 64 then 2 * (ls.length / 2) else ls.length
       -- of a protected team, lanes 32 to 63 hold the second copies
       let mine := if u.bind.prot = true ∧ 32 ≤ lane then lane - 32 else lane
       (mine ∉ ls → exec (.eccUncorrectableError (.vreg tk r b lane)) s = .next s) ∧
       ∀ i, ls[i]? = some mine →
         (row ≤ i ∨ u.liveBytes ≤ 4 * (b * row + i) → exec (.eccUncorrectableError (.vreg tk r b lane)) s = .next s) ∧
         (i < row → 4 * (b * row + i) < u.liveBytes → ∃ t, exec (.eccUncorrectableError (.vreg tk r b lane)) s = .next t ∧ OnlyTeam tk s t ∧
           t.team tk = { u with vec := { u.vec with vPoison := (t.team tk).vec.vPoison } } ∧
           ∀ q, q ∈ (t.team tk).vec.vPoison ↔ q = r * 128 + (b * row + i) * 4 / 64 ∨ q ∈ u.vec.vPoison)) ∧
     (tk < 640 → r < 256 → b < 16 → ∃ t, exec (.eccUncorrectableError (.acc tk r b)) s = .next t ∧ OnlyTeam tk s t ∧
       t.team tk = { s.team tk with vec := { (s.team tk).vec with accPoison := (t.team tk).vec.accPoison } } ∧
       ∀ q, q ∈ (t.team tk).vec.accPoison ↔ q = r * 16 + b ∨ q ∈ (s.team tk).vec.accPoison) ∧
     (core < 320 → ∃ t, exec (.eccUncorrectableError (.l1 core b)) s = .next t ∧ t.ms.mem = s.ms.mem ∧ t.teams = s.teams ∧
       ∀ l ∈ (t.ms.core core).l1, l.pa = b → l.lost = true ∧ l.dirty ≠ 0#64)) ∧
  (∀ (s : State) (l : Nat), exec .patrolScrub s = .next s ∧ exec .sramScrub s = .next s ∧ exec .hbmCalibration s = .next s ∧
     exec .linkCalibration s = .next s ∧ (l < 16 → exec (.flitReplay l) s = .next s)) ∧
  (∀ (s : State) (asn target : Nat) (en : Bool) (g : Signed),
     (s.ms.space? asn = none → exec (.checkpointRound asn target) s = .next s) ∧
     (∀ sp, s.ms.space? asn = some sp → rising s.ms.mem = true → sp.dmap + 2 ^ 38 ≤ 2 ^ 44 →
       let marks := (s.ms.mem.filter (fun c => decide (sp.dmap ≤ c.1) && decide (c.1 < sp.dmap + 2 ^ 38))).flatMap
         (fun c => (List.range 8).filter (fun i => c.2.getLsbD i))
       ∃ t n ue, exec (.checkpointRound asn target) s = .next t ∧ t = { s with ms := t.ms, rounds := t.rounds } ∧
         t.rounds = s.rounds ++ [{ asn := asn, number := n, count := marks.length, ue := ue }] ∧
         n = (s.rounds.filter (fun x => decide (x.asn = asn))).length + 1 ∧
         (∀ a, sp.dmap ≤ a → a < sp.dmap + 2 ^ 38 → t.ms.byteAt a = 0#8 ∧ ∀ tk, a / 64 ∉ t.ms.linkSet tk) ∧
         (marks = [] → ue = false ∧ ∀ a, a < sp.dmap ∨ sp.dmap + 2 ^ 38 ≤ a → t.ms.byteAt a = s.ms.byteAt a)) ∧
     (s.byOperator g = false → exec (.checkpointControl asn ⟨en, g⟩) s = .next s) ∧
     (s.byOperator g = true → ∃ t, exec (.checkpointControl asn ⟨en, g⟩) s = .next t ∧ t = { s with ms := { s.ms with spaces := t.ms.spaces } } ∧
       t.ms.spaces.map (fun x => (x.asn, x.root, x.dmap, x.part)) = s.ms.spaces.map (fun x => (x.asn, x.root, x.dmap, x.part)) ∧
       (∀ x ∈ t.ms.spaces, x.asn = asn → x.ckpt = en) ∧ ∀ x, x.asn ≠ asn → (x ∈ t.ms.spaces ↔ x ∈ s.ms.spaces)))

/-- R58, R256, R368, R382, R390, R397, R398, R399, R401, R405: A host's access through BAR4 or to its own memory, or a peer's over a
link that is up, reads or writes the bytes at their homes, a write leaving every other byte; above main memory a host reads all
ones and its writes are dropped; a peer's request for what is not there is unsupported. Through BAR2 a function reads and writes
the register pages of its slots, in ascending slot number; BAR0 holds the fuse count and the round records, and takes a freeze;
no other write of it, of the partition control registers either, changes anything. Where these lie in BAR0, what the partition
control registers read, and what a partial write of a register does, is the model's choice: log 91. A link that goes down, or
gives no credit for 1 ms, takes its region out of what is populated, and a module frozen then cannot be resumed; it is retrained
only while no partition maps the region, which comes back with it; a write on its way over it, of a saved context too, is lost;
each function hears of it. A far-tier device is not removed while one maps it, and its port's vector tells of its removal, by
the model's choice: log 49; the number of a virtual function is its choice too: log 38. -/
def Obligations.LinksAndDevices : Prop :=
  (∀ (s : State) (x : BusAccess) (l fn bar : Nat), Memory.wf s.ms.mem →
     let done := fun (i : Instr) (lo : Nat) => ∃ t, exec i s = .next t ∧ t = { s with ms := t.ms, reply := t.reply } ∧ t.reply.ur = false ∧
       match x.write with
       | some v => t.ms.homeRead lo x.size = v % 2 ^ (8 * x.size) ∧
         (∀ a, a < lo ∨ lo + x.size ≤ a → t.ms.byteAt a = s.ms.byteAt a) ∧
         (∀ tk a, lo ≤ a → a < lo + x.size → a / 64 ∉ t.ms.linkSet tk)
       | none => t.ms = s.ms ∧ ((∀ i, i < x.size → s.ms.poisoned (lo + i) = false) → t.reply.data = s.ms.homeRead lo x.size ∧ t.reply.poison = false) ∧
         ((∃ i, i < x.size ∧ s.ms.poisoned (lo + i) = true) → t.reply.poison = true)
     let refused := fun (i : Instr) (d : Nat) => exec i s = .next { s with reply := { data := d, ur := true, poison := false } }
     let host := fun (bar : Nat) (a : BusAccess) => Instr.hostHdmAccess { fn := fn, bar := bar, own := false, acc := a }
     let own := Instr.hostHdmAccess { fn := fn, bar := bar, own := true, acc := x }
     let hers := x.addr + x.size ≤ 2 ^ 44 ∧ s.ms.isPop (2 * 2 ^ 44 + x.addr) = true ∧ s.ms.isPop (2 * 2 ^ 44 + x.addr + (x.size - 1)) = true
     let ones := if x.write = none then 2 ^ (8 * x.size) - 1 else 0
     let replies := fun (d : Nat) => { s with reply := { data := d, ur := false, poison := false } }
     let val := fun (y : Stream) (off : Nat) => match off with
       | 0x00 => y.qbase.toNat | 0x08 => y.qsize.toNat | 0x10 => y.tail.toNat | 0x18 => y.head.toNat | 0x20 => y.qstate.code
       | 0x28 => if y.qen = true then 1 else 0 | 0x30 => y.lease.watts.toNat + 2 ^ 32 * y.lease.dur.toNat
       | 0x38 => y.lease.st.code + 2 ^ 16 * y.lease.granted.toNat + 2 ^ 32 * y.lease.left.toNat | 0x40 => y.wear / 100 % 2 ^ 64
       | _ => 0
     (hers → done own (2 * 2 ^ 44 + x.addr)) ∧ (¬hers → refused own ones) ∧
     (fn = 0 → x.addr + x.size ≤ 824633720832 → done (host 4 x) x.addr) ∧
     (fn ≠ 0 ∨ 824633720832 < x.addr + x.size → refused (host 4 x) ones) ∧
     (bar ∉ [0, 2, 4] → refused (host bar x) ones) ∧
     (fn ≠ 0 ∨ 2 ^ 20 < x.addr + x.size → refused (host 0 x) ones) ∧
     (∀ k a, (fn = 0 ∧ a / 4096 = k ∧ k < 32) ∨ (0 < fn ∧ (s.part (fn - 1)).slotAt (a / 4096) = some k) → a % 8 = 0 →
       exec (host 2 { addr := a, size := 8, write := none }) s = .next (replies (val (s.stream k) (a % 4096))) ∧
       ∀ v, exec (host 2 { addr := a, size := 8, write := some v }) s = exec (.registerWrite k (a % 4096) (BitVec.ofNat 64 v)) (replies 0)) ∧
     ((fn = 0 ∧ 32 ≤ x.addr / 4096) ∨ (0 < fn ∧ (s.part (fn - 1)).slotAt (x.addr / 4096) = none) → refused (host 2 x) ones) ∧
     (fn = 0 → ∀ i, i < 131072 →
       (∃ t, exec (host 0 { addr := 8 * i, size := 8, write := none }) s = .next t ∧ t = { s with reply := t.reply, fresh := t.fresh } ∧
         t.reply.ur = false ∧ (Config.bar0At i = .fuseCount → t.reply.data = s.svFuses % 2 ^ 64) ∧
         (∀ j r, s.rounds[j]? = some r → (Config.bar0At i = .round j 0 → t.reply.data = r.number % 2 ^ 64) ∧
           (Config.bar0At i = .round j 1 → t.reply.data = r.count % 2 ^ 64) ∧
           (Config.bar0At i = .round j 2 → t.reply.data = if r.ue = true then 1 else 0))) ∧
       (∀ v, Config.bar0At i ≠ .freeze → ∃ t, exec (host 0 { addr := 8 * i, size := 8, write := some v }) s = .next t ∧
         t = { s with reply := t.reply, fresh := t.fresh }) ∧
       (∀ v, Config.bar0At i = .freeze → v % 2 = 1 → s.power = .ready →
         ∃ t, exec (host 0 { addr := 8 * i, size := 8, write := some v }) s = .next t ∧ t.power = .frozen)) ∧
     (l < 16 → (s.link l).up = false → exec (.peerAccess l x) s = .next s) ∧
     (l < 16 → (s.link l).up = true → (∀ i, i < x.size → s.ms.isPop (x.addr + i) = true ∧ isHostOrPeer (x.addr + i) = false) → done (.peerAccess l x) x.addr) ∧
     (l < 16 → (s.link l).up = true → (∃ i, i < x.size ∧ s.ms.isPop (x.addr + i) = false) → refused (.peerAccess l x) 0)) ∧
  (∀ (s : State) (l : Nat), l < 16 →
     let events := fun (w : MsiWhat) => s.msis ++ (0 :: ((List.range 20).filter (fun j => decide ((s.part j).pairs ≠ []))).map (1 + ·)).map (fun f => { fn := f, vec := 0, what := w })
     let gone := fun (us : List Unack) => us.map (fun u => if u.pa / 2 ^ 44 = 16 + l then { u with dead := true } else u)
     exec (.linkCreditTimeout l) s = exec (.linkDown l) s ∧
     ((s.link l).up = false → exec (.linkDown l) s = .next s) ∧
     ((s.link l).up = true → ∃ t, exec (.linkDown l) s = .next t ∧ (t.link l).up = false ∧ (∀ k, k ≠ l → t.link k = s.link k) ∧
       (∀ x, x ∈ t.ms.populated ↔ x ∈ s.ms.populated ∧ x.base / 2 ^ 44 ≠ 16 + l) ∧ t.ms.mem = s.ms.mem ∧ t.teams = s.teams ∧
       t.ms.unacked = gone s.ms.unacked ∧ t.saved = s.saved.map (fun z => { z with unacked := gone z.unacked }) ∧
       (s.power = .frozen → t.lostLink = true ∧ t.msis = s.msis) ∧ (s.power ≠ .frozen → t.lostLink = s.lostLink ∧ t.msis = events .linkDown)) ∧
     ((s.link l).up = true ∨ s.maps (16 + l) = true → exec (.linkRetrain l) s = .next s) ∧
     ((s.link l).up = false → s.maps (16 + l) = false → ∃ t, exec (.linkRetrain l) s = .next t ∧ (t.link l).up = true ∧
       (∀ k, k ≠ l → t.link k = s.link k) ∧
       (∀ x, x ∈ t.ms.populated ↔ x ∈ s.ms.populated ∨ (x ∈ s.physMap ∧ x.base / 2 ^ 44 = 16 + l)) ∧ t.ms.mem = s.ms.mem) ∧
     (l < 8 → l ∉ s.cxl ∨ s.maps 1 = true → exec (.deviceRemoval l) s = .next s) ∧
     (l < 8 → l ∈ s.cxl → s.maps 1 = false → ∃ t, exec (.deviceRemoval l) s = .next t ∧ (∀ p, p ∈ t.cxl ↔ p ∈ s.cxl ∧ p ≠ l) ∧
       t.msis = s.msis ++ [{ fn := 0, vec := 33 + l, what := .cxl }] ∧
       (∀ x, x ∈ t.ms.populated ↔ x ∈ s.ms.populated ∧ x.base / 2 ^ 44 ≠ 1) ∧ t.ms.mem = s.ms.mem))

/-- R5, R173, R389, R391, R398, R403, R404, R405: Bring-up runs the first firmware slot whose signature verifies under the key whose
digest is fused, at a version the fuses allow, and reports READY with the trained links, the firmware's map, within what each
region can hold, and the stored partitioning, or halts with NO_FIRMWARE; a running module freezes and goes on where it stood
unless the freeze was too long or a link went down; a reset and a loss of power leave an unpowered module with its fuses, keys
and wear record. What bring-up finds, and what stays without power, are the model's choice: logs 51 and 68, and the number of a
virtual function: log 38. -/
def Obligations.BringUpAndFreeze : Prop :=
  ∀ (s : State) (r : BootReport) (long : Bool),
    let sound := fun (x : Option FwImage) => ∃ f, x = some f ∧ sha384 (keyBytes f.key) = s.rootDigest ∧
      verifies f.key f.bytes f.sig = true ∧ s.fwFuses ≤ f.ver
    let a := sound s.fwA
    let b := sound s.fwB
    let msgs := fun (u : State) (w : MsiWhat) => s.msis ++ (0 :: ((List.range 20).filter (fun j => decide ((u.part j).pairs ≠ []))).map (1 + ·)).map (fun f => { fn := f, vec := 0, what := w })
    let room := fun (n : Nat) => if n = 0 then 824633720832 else if n = 1 then (if ∃ p ∈ r.cxl, p < 8 then 2 ^ 43 else 0)
      else if n = 2 ∨ (16 ≤ n ∧ n < 32) then 2 ^ 44 else 0
    (s.power ≠ .off ∨ r.supplyOk = false → exec (.boot r) s = .next s) ∧
    (s.power = .off → r.supplyOk = true → ¬a → ¬b → exec (.boot r) s = .next { s with power := .halted, msis := msgs s .noFirmware }) ∧
    (s.power = .off → r.supplyOk = true → a ∨ b → ∃ t, exec (.boot r) s = .next t ∧ t.power = .ready ∧ t.msis = msgs t .ready ∧ t.svFuses = s.svFuses ∧ t.fwFuses = s.fwFuses ∧
      (∀ l, l < 16 → ((t.link l).up = true ↔ l ∈ r.links)) ∧
      (∀ x, x ∈ t.ms.populated ↔ (∃ n, (x.base, n) ∈ r.physMap ∧ x.size = min n (room (x.base / 2 ^ 44) - x.base % 2 ^ 44)) ∧ 0 < x.size ∧
        (x.base / 2 ^ 44 < 16 ∨ x.base / 2 ^ 44 - 16 ∈ r.links)) ∧
      (∀ x ∈ t.trans, s.svFuses ≤ x.sv) ∧ (∀ c ∈ r.deadCores, c < 320 → (t.ms.core c).wearState = .retired) ∧
      (∀ c, (t.ms.core c).wear = look 0 s.flash c) ∧
      (reqFormed s.stored = true → ∀ (j : Nat) (q : PartReq), s.stored[j]? = some q → (t.part j).pairs = q.pairs ∧ (t.part j).slots = q.slots ∧
        (t.part j).asn = q.asn ∧ (t.part j).root = q.root)) ∧
    (s.power = .ready → exec .freeze s = .next { s with power := .frozen, lostLink := false, msis := msgs s .freeze }) ∧
    (s.power ≠ .ready → exec .freeze s = .next s) ∧
    (exec (.freezeResume long) s = .next (if s.power = .frozen ∧ long = false ∧ s.lostLink = false then { s with power := .ready } else s)) ∧
    (s.power ≠ .frozen → exec .moduleReset s = .next s) ∧
    (let bare := fun (t : State) => t.power = .off ∧ t.ms = MemSys.reset ∧ t.teams = [] ∧ t.streams = [] ∧ t.svFuses = s.svFuses ∧ t.fwFuses = s.fwFuses ∧
      ∀ p, (t.part p).keys = (s.part p).keys ∧ (t.part p).apps = []
     (s.power = .frozen → ∃ t, exec .moduleReset s = .next t ∧ bare t ∧ ∀ c, look 0 t.flash c = (s.ms.core c).wear) ∧
     ∃ t, exec .powerLoss s = .next t ∧ bare t ∧ (s.rates = [] → t.flash = s.flash) ∧
       ∀ c n, s.rates = [(c, n)] → look 0 t.flash c = look 0 s.flash c + 6000 * n ∧ ∀ d, d ≠ c → look 0 t.flash d = look 0 s.flash d)

/-! ### Steps, reset, encodings, and what every step keeps -/

/-- R20, R37, R78, R80, R98, R315, R327, R329, R77, R151, R84, R95, R152, R154, R170: A step runs what the next turn fetches: a
bundle of one syllable is `exec` of the instruction its word decodes to, and then commits, is held, or has trapped; a T-op is
`exec` of its instruction, SPC then moving on unless decode holds or has stopped; a near-memory unit's turn and an event are
`exec` of theirs. With no turn asked for, a module that is ready takes one that is due, every slot with a team coming round
(R37), by the model's choice: log 6; another idles. A bundle of up to four syllables that passes its checks runs them in class
order, each seeing the scalar and control registers as they stood before the bundle; then it commits whole. A hold of its first
syllable keeps what that syllable left and commits nothing; a hold of a later one undoes the bundle; a trap commits nothing of
it. Before a bundle commits it is checked in this order, the first failure raising a bundle trap at the bundle's address: a
fetch fault; BREAKPOINT with the first named syllable's address; BUNDLE_FORM with the word of the syllable that breaks the form,
or whose result would be the fifth in flight; ILLEGAL with the first illegal syllable's word in class order. Which syllable is
named where a bundle both breaks the form and would leave a fifth result is the model's choice: log 76. -/
def Obligations.StepRunsTheInstruction : Prop :=
  ((∀ (s s' : State) (tk : Nat) (r : List Turn) (w : BitVec 32) (i : Instr), RunsSyl s s' tk r w i →
     let s1 := s'.atSyl tk [{ at' := (s.team tk).pc, w := w }] w
     s1.cur.addr = (s.team tk).pc ∧ s1.cur.word = w ∧ s1.cur.npc = (s.team tk).pc + 4#64 ∧
     (∀ t, exec i s1 = .next t → step s = .next (match t.cur.st with
       | .running => (commitBundle t tk).finishExit tk
       | .held => t.markHeld tk
       | .stopped => t)) ∧
     (∀ f, exec i s1 = .fault f → step s = .fault f) ∧ ∀ f, exec i s1 = .refused f → step s = .refused f) ∧
   (∀ (s s1 s2 : State) (k : Nat) (r : List Turn) (w : Word) (ops : List Word) (i : Instr), RunsTop s s1 s2 k r w ops i →
     let c := s2.atTop k (s.stream k).spc w (topOperands w)
     (∀ t, exec i c = .next t → step s = .next (match t.cur.st with
       | .running => t.setStream k { t.stream k with spc := t.cur.npc &&& 0x01FFFFFFFFFFFFF8#64 }
       | _ => t)) ∧ c.cur.npc = (s.stream k).spc + BitVec.ofNat 64 (8 + 8 * topOperands w)) ∧
   (∀ (s : State) (j stack : Nat) (r : List Turn) (x : NmJob) (i : Instr), s.agenda = .nmu j stack :: r → s.power = .ready →
     s.job? j = some x → nmInstr x.opcode x.cmd = some i →
     step s = exec i { s with agenda := r, cur := { s.cur with j := j, stack := stack } }) ∧
   (∀ (s : State) (i : Instr) (r : List Turn), s.agenda = .ev i :: r → s.power = .ready → step s = exec i { s with agenda := r }) ∧
   (∀ s : State, s.agenda = [] → s.power ≠ .ready → step s = .next s) ∧
   (∀ (s : State) (n : Nat), s.agenda = [] → s.power = .ready → s.turns = 2 * n + 1 →
     ∀ d, (slotDue s (n % 640))[n / 640 % (slotDue s (n % 640)).length]? = some d → step s = d.run { s with turns := s.turns + 1 }) ∧
   ∀ s : State, s.agenda = [] → s.power = .ready → (∀ n, s.turns = 2 * n + 1 → slotDue s (n % 640) = []) →
     ∃ d ∈ allDue s, step s = d.run { s with turns := s.turns + 1, fresh := s.fresh + 1 }) ∧
  (∀ (s s' : State) (tk : Nat) (r : List Turn) (l : List Syl) (is : List (Syl × Instr)), RunsBundle s s' tk r l is →
     let s1 := s'.atSyl tk l 0#32
     l.length ≤ 4 ∧ s1.cur.tk = tk ∧ s1.cur.addr = (s.team tk).pc ∧ s1.cur.regs = (s.team tk).bank ∧ s1.cur.ctl = (s.team tk).ctl ∧
     s1.cur.npc = (s.team tk).pc + BitVec.ofNat 64 (4 * l.length) ∧ s1.cur.cuts = [] ∧ s1.cur.raise = none ∧
     (∀ t, Execs is s1 t → step s = .next ((commitBundle t tk).finishExit tk)) ∧
     ∀ (p q : List (Syl × Instr)) (x : Syl) (i : Instr) (t u : State), is = p ++ (x, i) :: q → Execs p s1 t →
       exec i { t with cur := { t.cur with word := x.w } } = .next u →
       (u.cur.st = .held → step s = .next ((if p = [] then u else s1).markHeld tk)) ∧ (u.cur.st = .stopped → step s = .next u)) ∧
  (∀ (s : State) (tk : Nat) (r : List Turn), AtBundle s tk r →
     let t := s.team tk
     let sched := schedAt s tk t.pc
     let word := fun (c : Cause) (x : Syl) => ({ cause := c, tval := x.w.setWidth 64 } : TrapInfo)
     (∀ (l : List Syl) (s1 s2 : State) (i : TrapInfo), Fetches tk (s.atFetch tk r) t.pc l s1 → opens sched l → l.length < 4 →
       fetchSyl s1 tk (t.pc + BitVec.ofNat 64 (4 * l.length)) = (s2, .error (some i)) → step s = .next (s2.bundleTrap tk i .s t.pc)) ∧
     ∀ (l : List Syl) (s1 : State), Fetches tk (s.atFetch tk r) t.pc l s1 →
       (∀ (p q : List Syl) (x : Syl), (wholeBundle sched l ∨ ∃ y, brokenBundle sched l y) → l = p ++ x :: q → t.level = .a → t.afterTret = false →
         (∀ y ∈ p, ¬bkpNames t.ctl y) → bkpNames t.ctl x →
         step s = .next (s1.bundleTrap tk { cause := .breakpoint, tval := x.at' } (classOf x.cls) t.pc)) ∧
       (∀ x, brokenBundle sched l x → noBreak t l → step s = .next (s1.bundleTrap tk (word .bundleForm x) (classOf x.cls) t.pc)) ∧
       (∀ (x : Syl) (i : Instr), wholeBundle sched l → noBreak t l → l.head? = some x → decodeSyl x.w = .ok i →
         fifthResult (s1.team tk) i = true → step s = .next (s1.bundleTrap tk (word .bundleForm x) (classOf x.cls) t.pc)) ∧
       ∀ (p q : List Syl) (x : Syl) (n : DecodeError), wholeBundle sched l → noBreak t l → l = p ++ x :: q →
         (∀ y ∈ l, ∀ i, decodeSyl y.w = .ok i → fifthResult (s1.team tk) i = false) → (t.level = .h → ∀ y ∈ l, y.cls ≠ 2) →
         (∀ y ∈ p, ∃ i, decodeSyl y.w = .ok i ∧ checkSyl s1 tk l y i = .ok i) → decodeSyl x.w = .error n →
         step s = .next (s1.bundleTrap tk (word .illegal x) (classOf x.cls) t.pc))

/-- R35, R187, R366, R368, R387, R403: After reset the module is off, memory, local memory and their full/empty bits are in
canonical form and list nothing, region 0x00 is populated whole, every cluster is at level 0 with PH(k) = k, no slot holds a
team or runs a stream, every host queue is disabled, no fuse is blown, and VTYPE names f32. The reset values the spec does not
give are the model's choice (log entries 2 and 3). -/
def Obligations.ResetState : Prop :=
  let s := State.reset
  s.power = .off ∧ s.InOrder ∧ s.ms.mem = [] ∧ s.ms.lm = [] ∧ s.ms.fe = [] ∧ s.svFuses = 0 ∧ s.agenda = [] ∧
  (∀ c, c < 40 → (s.cluster c).phase.toNat = c ∧ (s.cluster c).level = .l0) ∧
  (∀ tk, (s.team tk).present = false ∧ (s.team tk).ctl.vtype = 8#13 ∧ ∀ r, (s.team tk).reg r = 0#64) ∧
  (∀ k, (s.stream k).active = false ∧ (s.stream k).qen = false ∧ (s.stream k).qstate = .disabled) ∧
  (∀ a, s.ms.isPop a = true ↔ a < 824633720832) ∧ step s = .next s

/-- R86 to R99: A few words written out from the encoding tables, and the instructions they are: one at least of each class, a T-op
of each kind of operand, a near-memory command. -/
def Obligations.WordsDecode : Prop :=
  decodeSyl 0x0C186A02#32 = .ok (.ld 6 3 2 2 false 2) ∧
  decodeSyl 0x0E10450C#32 = .ok (.amoAdd 4 2 5 true false) ∧
  decodeSyl 0x141C6401#32 = .ok (.setglH 7 3 4) ∧
  decodeSyl 0x18808026#32 = .ok (.crw 4 0x013) ∧
  decodeSyl 0x12000101#32 = .ok (.gbarWait 1) ∧
  decodeSyl 0x1503FFFB#32 = .ok (.ste (-5)) ∧
  decodeSyl 0x1C000002#32 = .ok (.trapSys 2) ∧
  decodeSyl 0x1C800000#32 = .ok .tret ∧
  decodeSyl 0x20044300#32 = .ok (.vadd { d := 1, a := 2, b := 3, x := false, y := false, m := 0, s := false }) ∧
  decodeSyl 0x299064D4#32 = .ok (.vfma { d := 4, a := 3, b := 4, x := true, y := true, m := 5 }) ∧
  decodeSyl 0x3C0C40A9#32 = .ok (.vld { d := 3, a := 2, b := 0, o := true, c := 2, v := true, m := 1 }) ∧
  decodeSyl 0x40296C80#32 = .ok (.mma { t := 10, a := 11, b := 12, f := 8, u := false, v := false, s := false, c := false }) ∧
  decodeSyl 0x6005AEA0#32 = .ok (.cpy { d := 1, a := 13, l := 14, y := 2, e := 2, g := 0 }) ∧
  decodeSyl 0x6218E1E2#32 = .ok (.cnmAll 6 7 3 2 2) ∧
  decodeTop 0x0231200000000000#64 [] = .ok (.tadd 3 1 2) ∧
  decodeTop 0x3000010080010002#64 [0x1000000000000005#64] = .ok (.tlaunch { a := 0, gsz := 0, lm := 2, gc := 1, ker := 2 } [.inp 5]) ∧
  decodeTableWord 512 0x000000003F80000000000000000000000000000000000000000000000000000000000000001000000000000400000801 =
    some (.nmFill { w := 8, g := 0, rm := 0, count := 4, dst := 0x100000, src := 0, aux1 := 0, aux2 := 0, k0 := 0x3F800000, k1 := 0, k2 := 0, k3 := 0, k4 := 0 })

/-- R76, R86 to R95, R96 to R100: Every well-formed syllable, with any operands, is read back from its word, with its P bit; and a
word that is read as an instruction is that instruction's word. Every well-formed T-op is read back from its header and operand
words, the header asking for just those words; every well-formed near-memory command is read back from its 64 bytes. -/
def Obligations.EncodingRoundTrip : Prop :=
  ((∀ (i : Instr) (p : Bool) (w : BitVec 32), i.wf = true → encodeSyl p i = some w → decodeSyl w = .ok i ∧ sylP w = p) ∧
   ∀ (w : BitVec 32) (i : Instr), decodeSyl w = .ok i → i.wf = true ∧ encodeSyl (sylP w) i = some w) ∧
  ((∀ (i : Instr) (w : Word) (ops : List Word), i.wf = true → encodeTop i = some (w :: ops) → topOperands w = ops.length ∧ decodeTop w ops = .ok i) ∧
   ∀ (i : Instr) (x : BitVec 512), i.wf = true → encodeNm i = some x → decodeNm x = .ok i)

/-- R45, R123, R173: Every step, from any state in order, leaves a state in order: memory, local memory and the full/empty bits in
their canonical form, so that equal memories are equal data; every sparse map by rising keys; and nothing listed for s0 or t0,
in whose place zero reads. The canonical form is the model's own (log entry 4). -/
def Obligations.StateStaysInOrder : Prop := ∀ s t : State, s.InOrder → step s = .next t → t.InOrder

/-- R187, R404, R405: No step un-blows an SV fuse, from any state whatever, and a step changes their number only in the event that
advances them. A step of a frozen module leaves every team, stream, core and byte as it is while the module stays frozen; it
leaves the freeze only by resuming, everything else as it was, or by losing its state. -/
def Obligations.FusesAndFreeze : Prop :=
  (∀ s t : State, step s = .next t → s.svFuses ≤ t.svFuses ∧
     (s.svFuses ≠ t.svFuses → ∃ n g r, s.agenda = .ev (.fuseAdvance ⟨n, g⟩) :: r ∧ s.byOperator g = true ∧ t.svFuses = n)) ∧
  (∀ s t : State, s.power = .frozen → step s = .next t →
     (t.power = .frozen ∧ t.teams = s.teams ∧ t.streams = s.streams ∧ t.clusters = s.clusters ∧ t.parts = s.parts ∧ t.jobs = s.jobs ∧
       t.ms = { s.ms with populated := t.ms.populated, unacked := t.ms.unacked }) ∨
     (t = { s with power := .ready, agenda := t.agenda } ∧ s.lostLink = false) ∨
     t.power = .off)
end

