-- ==== Sys2Proof/Laws/Map.lean ====
section
/-! SUPPORT. Laws of the sparse maps: read after write, and that every operation keeps the canonical form. -/

namespace Sys2Proof.Machine

variable {α : Type}

/-! ### Reading -/

@[simp] theorem find?_nil (k : Nat) : find? ([] : List (Nat × α)) k = none := rfl

@[simp] theorem look_nil (d : α) (k : Nat) : look d [] k = d := rfl

theorem look_eq (d : α) (m : List (Nat × α)) (k : Nat) : look d m k = (find? m k).getD d := by
  unfold look; cases find? m k <;> rfl

/-- A key just put is read back, whatever the list was. -/
theorem find?_put_same (m : List (Nat × α)) (k : Nat) (v : α) : find? (put m k v) k = some v := by
  induction m with
  | nil => simp [put, find?]
  | cons e r ih =>
    obtain ⟨j, w⟩ := e
    by_cases h1 : k < j
    · simp [put, h1, find?]
    · by_cases h2 : k = j
      · simp [put, h2, find?]
      · have h3 : ¬ k < j := h1
        simp [put, h1, h2, find?, ih]

/-- Another key reads as before, whatever the list was. -/
theorem find?_put_other (m : List (Nat × α)) (k k' : Nat) (v : α) (h : k' ≠ k) :
    find? (put m k v) k' = find? m k' := by
  induction m with
  | nil => simp [put, find?, h]
  | cons e r ih =>
    obtain ⟨j, w⟩ := e
    by_cases h1 : k < j
    · simp only [put, if_pos h1, find?, if_neg h]
      by_cases h4 : k' < k
      · have h5 : k' < j := by omega
        have h6 : k' ≠ j := by omega
        simp [h4, h5, h6]
      · simp [h4]
    · by_cases h2 : k = j
      · subst h2
        simp [put, find?, h]
      · simp [put, h1, h2, find?, ih]

@[simp] theorem look_put_same (d : α) (m : List (Nat × α)) (k : Nat) (v : α) : look d (put m k v) k = v := by
  simp [look, find?_put_same]

theorem look_put_other (d : α) (m : List (Nat × α)) (k k' : Nat) (v : α) (h : k' ≠ k) :
    look d (put m k v) k' = look d m k' := by
  simp [look, find?_put_other m k k' v h]

/-! ### Keys in order -/

/-- Every listed key lies above a bound. -/
def above (b : Nat) (m : List (Nat × α)) : Prop := ∀ e ∈ m, b < e.1

theorem rising_cons {j : Nat} {w : α} {r : List (Nat × α)} :
    rising ((j, w) :: r) = true ↔ above j r ∧ rising r = true := by
  induction r generalizing j w with
  | nil => simp [rising, above]
  | cons e r ih =>
    obtain ⟨k, x⟩ := e
    simp only [rising, Bool.and_eq_true, decide_eq_true_eq]
    constructor
    · rintro ⟨h1, h2⟩
      refine ⟨?_, h2⟩
      intro e he
      rcases List.mem_cons.1 he with rfl | he
      · exact h1
      · exact Nat.lt_trans h1 ((ih.1 h2).1 e he)
    · rintro ⟨h1, h2⟩
      exact ⟨h1 (k, x) (by simp), h2⟩

theorem find?_above {b k : Nat} {m : List (Nat × α)} (h : above b m) (hk : k ≤ b) : find? m k = none := by
  cases m with
  | nil => rfl
  | cons e r =>
    obtain ⟨j, w⟩ := e
    have : b < j := h (j, w) (by simp)
    have h1 : k ≠ j := by omega
    have h2 : k < j := by omega
    simp [find?, h1, h2]

theorem above_put {b k : Nat} {v : α} {m : List (Nat × α)} (h : above b m) (hk : b < k) : above b (put m k v) := by
  induction m with
  | nil => intro e he; simp [put] at he; subst he; exact hk
  | cons e r ih =>
    obtain ⟨j, w⟩ := e
    have hr : above b r := fun e he => h e (List.mem_cons_of_mem _ he)
    have hj : b < j := h (j, w) (by simp)
    unfold put
    split
    · intro e he
      rcases List.mem_cons.1 he with rfl | he
      · exact hk
      · exact h e he
    · split
      · intro e he
        rcases List.mem_cons.1 he with rfl | he
        · exact hk
        · exact hr e he
      · intro e he
        rcases List.mem_cons.1 he with rfl | he
        · exact hj
        · exact ih hr e he

theorem above_drop {b k : Nat} {m : List (Nat × α)} (h : above b m) : above b (drop m k) := by
  induction m with
  | nil => exact h
  | cons e r ih =>
    obtain ⟨j, w⟩ := e
    have hr : above b r := fun e he => h e (List.mem_cons_of_mem _ he)
    unfold drop
    split
    · exact h
    · split
      · exact hr
      · intro e he
        rcases List.mem_cons.1 he with rfl | he
        · exact h (j, w) (by simp)
        · exact ih hr e he

theorem rising_put {m : List (Nat × α)} (k : Nat) (v : α) (h : rising m = true) : rising (put m k v) = true := by
  induction m with
  | nil => rfl
  | cons e r ih =>
    obtain ⟨j, w⟩ := e
    have hr := rising_cons.1 h
    unfold put
    split
    · rename_i h1
      refine rising_cons.2 ⟨?_, h⟩
      intro e he
      rcases List.mem_cons.1 he with rfl | he
      · exact h1
      · exact Nat.lt_trans h1 (hr.1 e he)
    · split
      · rename_i h2; subst h2
        exact rising_cons.2 hr
      · exact rising_cons.2 ⟨above_put hr.1 (by omega), ih hr.2⟩

theorem rising_drop {m : List (Nat × α)} (k : Nat) (h : rising m = true) : rising (drop m k) = true := by
  induction m with
  | nil => rfl
  | cons e r ih =>
    obtain ⟨j, w⟩ := e
    have hr := rising_cons.1 h
    unfold drop
    split
    · exact h
    · split
      · exact hr.2
      · exact rising_cons.2 ⟨above_drop hr.1, ih hr.2⟩

/-- A dropped key is not listed. -/
theorem find?_drop_same {m : List (Nat × α)} (k : Nat) (h : rising m = true) : find? (drop m k) k = none := by
  induction m with
  | nil => rfl
  | cons e r ih =>
    obtain ⟨j, w⟩ := e
    have hr := rising_cons.1 h
    by_cases h1 : k < j
    · have h2 : k ≠ j := by omega
      simp [drop, h1, find?, h2]
    · by_cases h2 : k = j
      · subst h2; simpa [drop] using find?_above hr.1 (Nat.le_refl k)
      · simp [drop, h1, h2, find?, ih hr.2]

/-- Dropping a key leaves every other one. -/
theorem find?_drop_other {m : List (Nat × α)} (k k' : Nat) (h : rising m = true) (hk : k' ≠ k) :
    find? (drop m k) k' = find? m k' := by
  induction m with
  | nil => rfl
  | cons e r ih =>
    obtain ⟨j, w⟩ := e
    have hr := rising_cons.1 h
    by_cases h1 : k < j
    · simp [drop, h1]
    · by_cases h2 : k = j
      · subst h2
        simp only [drop, if_neg h1, if_true, find?, if_neg hk]
        by_cases h3 : k' < k
        · simp [h3, find?_above hr.1 (Nat.le_of_lt h3)]
        · simp [h3]
      · simp [drop, h1, h2, find?, ih hr.2]

/-! ### The canonical form -/

variable [DecidableEq α]

theorem canonical_iff {d : α} {m : List (Nat × α)} :
    canonical d m = true ↔ rising m = true ∧ ∀ e ∈ m, e.2 ≠ d := by
  simp [canonical]

theorem canonical_rising {d : α} {m : List (Nat × α)} (h : canonical d m = true) : rising m = true :=
  (canonical_iff.1 h).1

@[simp] theorem canonical_nil (d : α) : canonical d ([] : List (Nat × α)) = true := rfl

omit [DecidableEq α] in
theorem mem_put {m : List (Nat × α)} {k : Nat} {v : α} {e : Nat × α} (h : e ∈ put m k v) : e = (k, v) ∨ e ∈ m := by
  induction m with
  | nil => simp [put] at h; exact .inl h
  | cons x r ih =>
    obtain ⟨j, w⟩ := x
    unfold put at h
    split at h
    · rcases List.mem_cons.1 h with rfl | h
      · exact .inl rfl
      · exact .inr h
    · split at h
      · rcases List.mem_cons.1 h with rfl | h
        · exact .inl rfl
        · exact .inr (List.mem_cons_of_mem _ h)
      · rcases List.mem_cons.1 h with rfl | h
        · exact .inr (by simp)
        · rcases ih h with rfl | h
          · exact .inl rfl
          · exact .inr (List.mem_cons_of_mem _ h)

omit [DecidableEq α] in
theorem mem_drop {m : List (Nat × α)} {k : Nat} {e : Nat × α} (h : e ∈ drop m k) : e ∈ m := by
  induction m with
  | nil => exact h
  | cons x r ih =>
    obtain ⟨j, w⟩ := x
    unfold drop at h
    split at h
    · exact h
    · split at h
      · exact List.mem_cons_of_mem _ h
      · rcases List.mem_cons.1 h with rfl | h
        · simp
        · exact List.mem_cons_of_mem _ (ih h)

theorem rising_store {d : α} {m : List (Nat × α)} (k : Nat) (v : α) (h : rising m = true) :
    rising (store d m k v) = true := by
  unfold store; split
  · exact rising_drop k h
  · exact rising_put k v h

/-- A write keeps the canonical form. -/
theorem canonical_store {d : α} {m : List (Nat × α)} (k : Nat) (v : α) (h : canonical d m = true) :
    canonical d (store d m k v) = true := by
  obtain ⟨h1, h2⟩ := canonical_iff.1 h
  unfold store
  split
  · exact canonical_iff.2 ⟨rising_drop k h1, fun e he => h2 e (mem_drop he)⟩
  · rename_i hv
    refine canonical_iff.2 ⟨rising_put k v h1, fun e he => ?_⟩
    rcases mem_put he with rfl | he
    · exact hv
    · exact h2 e he

theorem look_store_same {d : α} {m : List (Nat × α)} (k : Nat) (v : α) (h : rising m = true) :
    look d (store d m k v) k = v := by
  unfold store
  split
  · rename_i hv; simp [look, find?_drop_same k h, hv]
  · exact look_put_same d m k v

theorem look_store_other {d : α} {m : List (Nat × α)} (k k' : Nat) (v : α) (h : rising m = true) (hk : k' ≠ k) :
    look d (store d m k v) k' = look d m k' := by
  unfold store
  split
  · simp [look, find?_drop_other k k' h hk]
  · exact look_put_other d m k k' v hk

/-- Read after write in one line. -/
theorem look_store {d : α} {m : List (Nat × α)} (k k' : Nat) (v : α) (h : rising m = true) :
    look d (store d m k v) k' = if k' = k then v else look d m k' := by
  split
  · rename_i hk; subst hk; exact look_store_same k' v h
  · rename_i hk; exact look_store_other k k' v h hk

/-! ### Ranges and filters -/

omit [DecidableEq α] in
theorem dropRange_eq (m : List (Nat × α)) (lo hi : Nat) :
    dropRange m lo hi = m.filter (fun e => !(decide (lo ≤ e.1) && decide (e.1 < hi))) := by
  induction m with
  | nil => rfl
  | cons e r ih =>
    obtain ⟨j, w⟩ := e
    unfold dropRange
    by_cases h : lo ≤ j ∧ j < hi
    · simp [h, ih]
    · rw [if_neg h, List.filter_cons_of_pos (by simp; omega), ih]

omit [DecidableEq α] in
theorem rising_filter {m : List (Nat × α)} (p : Nat × α → Bool) (h : rising m = true) : rising (m.filter p) = true := by
  induction m with
  | nil => rfl
  | cons e r ih =>
    obtain ⟨j, w⟩ := e
    have hr := rising_cons.1 h
    by_cases hp : p (j, w) = true
    · rw [List.filter_cons_of_pos hp]
      exact rising_cons.2 ⟨fun e he => hr.1 e (List.mem_filter.1 he).1, ih hr.2⟩
    · rw [List.filter_cons_of_neg hp]; exact ih hr.2

theorem canonical_filter {d : α} {m : List (Nat × α)} (p : Nat × α → Bool) (h : canonical d m = true) :
    canonical d (m.filter p) = true := by
  obtain ⟨h1, h2⟩ := canonical_iff.1 h
  exact canonical_iff.2 ⟨rising_filter p h1, fun e he => h2 e (List.mem_filter.1 he).1⟩

theorem canonical_dropRange {d : α} {m : List (Nat × α)} (lo hi : Nat) (h : canonical d m = true) :
    canonical d (dropRange m lo hi) = true := by
  rw [dropRange_eq]; exact canonical_filter _ h

omit [DecidableEq α] in
/-- Keys under a map of the values are the same. -/
theorem find?_map (f : Nat → α → α) (m : List (Nat × α)) (k : Nat) :
    find? (m.map (fun e => (e.1, f e.1 e.2))) k = (find? m k).map (f k) := by
  induction m with
  | nil => rfl
  | cons e r ih =>
    obtain ⟨j, w⟩ := e
    simp only [List.map_cons, find?]
    by_cases h1 : k = j
    · subst h1; simp
    · by_cases h2 : k < j
      · simp [h1, h2]
      · simpa [h1, h2] using ih

/-! ### Bytes -/

theorem canonical_storeLE {m : List Host.Cell} (a n x : Nat) (h : canonical 0#8 m = true) :
    canonical 0#8 (storeLE m a n x) = true := by
  induction n generalizing m a x with
  | zero => exact h
  | succ n ih => exact ih _ _ (canonical_store a _ h)

theorem rising_storeLE {m : List Host.Cell} (a n x : Nat) (h : rising m = true) : rising (storeLE m a n x) = true := by
  induction n generalizing m a x with
  | zero => exact h
  | succ n ih => exact ih _ _ (rising_store a _ h)

/-- A byte outside the stored ones reads as before. -/
theorem look_storeLE_other {m : List Host.Cell} (a n x k : Nat) (h : rising m = true) (hk : k < a ∨ a + n ≤ k) :
    look 0#8 (storeLE m a n x) k = look 0#8 m k := by
  induction n generalizing m a x with
  | zero => rfl
  | succ n ih =>
    simp only [storeLE]
    rw [ih (a + 1) (x / 256) (rising_store a _ h) (by omega), look_store_other a k _ h (by omega)]

/-- Byte j of what was stored. -/
theorem look_storeLE_in {m : List Host.Cell} (a n x j : Nat) (h : rising m = true) (hj : j < n) :
    look 0#8 (storeLE m a n x) (a + j) = BitVec.ofNat 8 (x / 2 ^ (8 * j)) := by
  induction n generalizing m a x j with
  | zero => omega
  | succ n ih =>
    simp only [storeLE]
    cases j with
    | zero =>
      show look 0#8 (storeLE (store 0#8 m a (BitVec.ofNat 8 x)) (a + 1) n (x / 256)) a = _
      rw [look_storeLE_other (a + 1) n _ a (rising_store a _ h) (by omega), look_store_same a _ h]
      simp
    | succ j =>
      have e : a + (j + 1) = (a + 1) + j := by omega
      rw [e, ih (a + 1) (x / 256) j (rising_store a _ h) (by omega), Nat.div_div_eq_div_mul]
      have : 256 * 2 ^ (8 * j) = 2 ^ (8 * (j + 1)) := by
        rw [show 8 * (j + 1) = 8 * j + 8 by omega, Nat.pow_add]; omega
      rw [this]

theorem readLE_congr (f g : Nat → Byte) (a n : Nat) (h : ∀ j, j < n → f (a + j) = g (a + j)) :
    readLE f a n = readLE g a n := by
  induction n generalizing a with
  | zero => rfl
  | succ n ih =>
    have h0 := h 0 (by omega)
    simp only [Nat.add_zero] at h0
    simp only [readLE, h0]
    rw [ih (a + 1) (fun j hj => by have := h (j + 1) (by omega); rwa [show a + (j + 1) = a + 1 + j by omega] at this)]

/-- Bytes stored little-endian read back as the number, modulo what they hold. -/
theorem readLE_ofNat (f : Nat → Byte) (a n x : Nat) (h : ∀ j, j < n → f (a + j) = BitVec.ofNat 8 (x / 2 ^ (8 * j))) :
    readLE f a n = x % 2 ^ (8 * n) := by
  induction n generalizing a x with
  | zero => simp [readLE, Nat.mod_one]
  | succ n ih =>
    have h0 := h 0 (by omega)
    simp only [Nat.add_zero, Nat.mul_zero, Nat.pow_zero, Nat.div_one] at h0
    simp only [readLE, h0, BitVec.toNat_ofNat]
    rw [ih (a + 1) (x / 256) (fun j hj => by
      have := h (j + 1) (by omega)
      rw [show a + (j + 1) = a + 1 + j by omega] at this
      rw [this, Nat.div_div_eq_div_mul, show 8 * (j + 1) = 8 * j + 8 by omega, Nat.pow_add, Nat.mul_comm (2 ^ (8 * j))])]
    rw [show 8 * (n + 1) = 8 + 8 * n by omega, Nat.pow_add, Nat.mod_mul]

theorem readLE_storeLE {m : List Host.Cell} (a n x : Nat) (h : rising m = true) :
    readLE (look 0#8 (storeLE m a n x)) a n = x % 2 ^ (8 * n) :=
  readLE_ofNat _ a n x (fun j hj => look_storeLE_in a n x j h hj)

end Sys2Proof.Machine
end

