-- ==== Sys2Proof/Laws/State.lean ====
section
/-! SUPPORT. The small lemmas of State: what each update leaves in each field. -/

namespace Sys2Proof.Machine

/-! ### setTeam -/

@[simp] theorem State.setTeam_power (s : State) (tk : Nat) (t : Team) : (s.setTeam tk t).power = s.power := rfl
@[simp] theorem State.setTeam_lostLink (s : State) (tk : Nat) (t : Team) : (s.setTeam tk t).lostLink = s.lostLink := rfl
@[simp] theorem State.setTeam_ms (s : State) (tk : Nat) (t : Team) : (s.setTeam tk t).ms = s.ms := rfl
@[simp] theorem State.setTeam_clusters (s : State) (tk : Nat) (t : Team) : (s.setTeam tk t).clusters = s.clusters := rfl
@[simp] theorem State.setTeam_streams (s : State) (tk : Nat) (t : Team) : (s.setTeam tk t).streams = s.streams := rfl
@[simp] theorem State.setTeam_parts (s : State) (tk : Nat) (t : Team) : (s.setTeam tk t).parts = s.parts := rfl
@[simp] theorem State.setTeam_jobs (s : State) (tk : Nat) (t : Team) : (s.setTeam tk t).jobs = s.jobs := rfl
@[simp] theorem State.setTeam_nextJob (s : State) (tk : Nat) (t : Team) : (s.setTeam tk t).nextJob = s.nextJob := rfl
@[simp] theorem State.setTeam_issueNo (s : State) (tk : Nat) (t : Team) : (s.setTeam tk t).issueNo = s.issueNo := rfl
@[simp] theorem State.setTeam_nextCtx (s : State) (tk : Nat) (t : Team) : (s.setTeam tk t).nextCtx = s.nextCtx := rfl
@[simp] theorem State.setTeam_saved (s : State) (tk : Nat) (t : Team) : (s.setTeam tk t).saved = s.saved := rfl
@[simp] theorem State.setTeam_syscalls (s : State) (tk : Nat) (t : Team) : (s.setTeam tk t).syscalls = s.syscalls := rfl
@[simp] theorem State.setTeam_trans (s : State) (tk : Nat) (t : Team) : (s.setTeam tk t).trans = s.trans := rfl
@[simp] theorem State.setTeam_links (s : State) (tk : Nat) (t : Team) : (s.setTeam tk t).links = s.links := rfl
@[simp] theorem State.setTeam_cxl (s : State) (tk : Nat) (t : Team) : (s.setTeam tk t).cxl = s.cxl := rfl
@[simp] theorem State.setTeam_physMap (s : State) (tk : Nat) (t : Team) : (s.setTeam tk t).physMap = s.physMap := rfl
@[simp] theorem State.setTeam_reply (s : State) (tk : Nat) (t : Team) : (s.setTeam tk t).reply = s.reply := rfl
@[simp] theorem State.setTeam_svFuses (s : State) (tk : Nat) (t : Team) : (s.setTeam tk t).svFuses = s.svFuses := rfl
@[simp] theorem State.setTeam_fwFuses (s : State) (tk : Nat) (t : Team) : (s.setTeam tk t).fwFuses = s.fwFuses := rfl
@[simp] theorem State.setTeam_rootDigest (s : State) (tk : Nat) (t : Team) : (s.setTeam tk t).rootDigest = s.rootDigest := rfl
@[simp] theorem State.setTeam_opKey (s : State) (tk : Nat) (t : Team) : (s.setTeam tk t).opKey = s.opKey := rfl
@[simp] theorem State.setTeam_devKey (s : State) (tk : Nat) (t : Team) : (s.setTeam tk t).devKey = s.devKey := rfl
@[simp] theorem State.setTeam_fwA (s : State) (tk : Nat) (t : Team) : (s.setTeam tk t).fwA = s.fwA := rfl
@[simp] theorem State.setTeam_fwB (s : State) (tk : Nat) (t : Team) : (s.setTeam tk t).fwB = s.fwB := rfl
@[simp] theorem State.setTeam_stored (s : State) (tk : Nat) (t : Team) : (s.setTeam tk t).stored = s.stored := rfl
@[simp] theorem State.setTeam_pairW (s : State) (tk : Nat) (t : Team) : (s.setTeam tk t).pairW = s.pairW := rfl
@[simp] theorem State.setTeam_pairNext (s : State) (tk : Nat) (t : Team) : (s.setTeam tk t).pairNext = s.pairNext := rfl
@[simp] theorem State.setTeam_epoch (s : State) (tk : Nat) (t : Team) : (s.setTeam tk t).epoch = s.epoch := rfl
@[simp] theorem State.setTeam_energy (s : State) (tk : Nat) (t : Team) : (s.setTeam tk t).energy = s.energy := rfl
@[simp] theorem State.setTeam_flash (s : State) (tk : Nat) (t : Team) : (s.setTeam tk t).flash = s.flash := rfl
@[simp] theorem State.setTeam_rates (s : State) (tk : Nat) (t : Team) : (s.setTeam tk t).rates = s.rates := rfl
@[simp] theorem State.setTeam_wearAge (s : State) (tk : Nat) (t : Team) : (s.setTeam tk t).wearAge = s.wearAge := rfl
@[simp] theorem State.setTeam_rounds (s : State) (tk : Nat) (t : Team) : (s.setTeam tk t).rounds = s.rounds := rfl
@[simp] theorem State.setTeam_msis (s : State) (tk : Nat) (t : Team) : (s.setTeam tk t).msis = s.msis := rfl
@[simp] theorem State.setTeam_fresh (s : State) (tk : Nat) (t : Team) : (s.setTeam tk t).fresh = s.fresh := rfl
@[simp] theorem State.setTeam_agenda (s : State) (tk : Nat) (t : Team) : (s.setTeam tk t).agenda = s.agenda := rfl
@[simp] theorem State.setTeam_turns (s : State) (tk : Nat) (t : Team) : (s.setTeam tk t).turns = s.turns := rfl
@[simp] theorem State.setTeam_cur (s : State) (tk : Nat) (t : Team) : (s.setTeam tk t).cur = s.cur := rfl

/-! ### setCluster -/

@[simp] theorem State.setCluster_power (s : State) (c : Nat) (x : Cluster) : (s.setCluster c x).power = s.power := rfl
@[simp] theorem State.setCluster_lostLink (s : State) (c : Nat) (x : Cluster) : (s.setCluster c x).lostLink = s.lostLink := rfl
@[simp] theorem State.setCluster_ms (s : State) (c : Nat) (x : Cluster) : (s.setCluster c x).ms = s.ms := rfl
@[simp] theorem State.setCluster_teams (s : State) (c : Nat) (x : Cluster) : (s.setCluster c x).teams = s.teams := rfl
@[simp] theorem State.setCluster_streams (s : State) (c : Nat) (x : Cluster) : (s.setCluster c x).streams = s.streams := rfl
@[simp] theorem State.setCluster_parts (s : State) (c : Nat) (x : Cluster) : (s.setCluster c x).parts = s.parts := rfl
@[simp] theorem State.setCluster_jobs (s : State) (c : Nat) (x : Cluster) : (s.setCluster c x).jobs = s.jobs := rfl
@[simp] theorem State.setCluster_nextJob (s : State) (c : Nat) (x : Cluster) : (s.setCluster c x).nextJob = s.nextJob := rfl
@[simp] theorem State.setCluster_issueNo (s : State) (c : Nat) (x : Cluster) : (s.setCluster c x).issueNo = s.issueNo := rfl
@[simp] theorem State.setCluster_nextCtx (s : State) (c : Nat) (x : Cluster) : (s.setCluster c x).nextCtx = s.nextCtx := rfl
@[simp] theorem State.setCluster_saved (s : State) (c : Nat) (x : Cluster) : (s.setCluster c x).saved = s.saved := rfl
@[simp] theorem State.setCluster_syscalls (s : State) (c : Nat) (x : Cluster) : (s.setCluster c x).syscalls = s.syscalls := rfl
@[simp] theorem State.setCluster_trans (s : State) (c : Nat) (x : Cluster) : (s.setCluster c x).trans = s.trans := rfl
@[simp] theorem State.setCluster_links (s : State) (c : Nat) (x : Cluster) : (s.setCluster c x).links = s.links := rfl
@[simp] theorem State.setCluster_cxl (s : State) (c : Nat) (x : Cluster) : (s.setCluster c x).cxl = s.cxl := rfl
@[simp] theorem State.setCluster_physMap (s : State) (c : Nat) (x : Cluster) : (s.setCluster c x).physMap = s.physMap := rfl
@[simp] theorem State.setCluster_reply (s : State) (c : Nat) (x : Cluster) : (s.setCluster c x).reply = s.reply := rfl
@[simp] theorem State.setCluster_svFuses (s : State) (c : Nat) (x : Cluster) : (s.setCluster c x).svFuses = s.svFuses := rfl
@[simp] theorem State.setCluster_fwFuses (s : State) (c : Nat) (x : Cluster) : (s.setCluster c x).fwFuses = s.fwFuses := rfl
@[simp] theorem State.setCluster_rootDigest (s : State) (c : Nat) (x : Cluster) : (s.setCluster c x).rootDigest = s.rootDigest := rfl
@[simp] theorem State.setCluster_opKey (s : State) (c : Nat) (x : Cluster) : (s.setCluster c x).opKey = s.opKey := rfl
@[simp] theorem State.setCluster_devKey (s : State) (c : Nat) (x : Cluster) : (s.setCluster c x).devKey = s.devKey := rfl
@[simp] theorem State.setCluster_fwA (s : State) (c : Nat) (x : Cluster) : (s.setCluster c x).fwA = s.fwA := rfl
@[simp] theorem State.setCluster_fwB (s : State) (c : Nat) (x : Cluster) : (s.setCluster c x).fwB = s.fwB := rfl
@[simp] theorem State.setCluster_stored (s : State) (c : Nat) (x : Cluster) : (s.setCluster c x).stored = s.stored := rfl
@[simp] theorem State.setCluster_pairW (s : State) (c : Nat) (x : Cluster) : (s.setCluster c x).pairW = s.pairW := rfl
@[simp] theorem State.setCluster_pairNext (s : State) (c : Nat) (x : Cluster) : (s.setCluster c x).pairNext = s.pairNext := rfl
@[simp] theorem State.setCluster_epoch (s : State) (c : Nat) (x : Cluster) : (s.setCluster c x).epoch = s.epoch := rfl
@[simp] theorem State.setCluster_energy (s : State) (c : Nat) (x : Cluster) : (s.setCluster c x).energy = s.energy := rfl
@[simp] theorem State.setCluster_flash (s : State) (c : Nat) (x : Cluster) : (s.setCluster c x).flash = s.flash := rfl
@[simp] theorem State.setCluster_rates (s : State) (c : Nat) (x : Cluster) : (s.setCluster c x).rates = s.rates := rfl
@[simp] theorem State.setCluster_wearAge (s : State) (c : Nat) (x : Cluster) : (s.setCluster c x).wearAge = s.wearAge := rfl
@[simp] theorem State.setCluster_rounds (s : State) (c : Nat) (x : Cluster) : (s.setCluster c x).rounds = s.rounds := rfl
@[simp] theorem State.setCluster_msis (s : State) (c : Nat) (x : Cluster) : (s.setCluster c x).msis = s.msis := rfl
@[simp] theorem State.setCluster_fresh (s : State) (c : Nat) (x : Cluster) : (s.setCluster c x).fresh = s.fresh := rfl
@[simp] theorem State.setCluster_agenda (s : State) (c : Nat) (x : Cluster) : (s.setCluster c x).agenda = s.agenda := rfl
@[simp] theorem State.setCluster_turns (s : State) (c : Nat) (x : Cluster) : (s.setCluster c x).turns = s.turns := rfl
@[simp] theorem State.setCluster_cur (s : State) (c : Nat) (x : Cluster) : (s.setCluster c x).cur = s.cur := rfl

/-! ### setStream -/

@[simp] theorem State.setStream_power (s : State) (k : Nat) (x : Stream) : (s.setStream k x).power = s.power := rfl
@[simp] theorem State.setStream_lostLink (s : State) (k : Nat) (x : Stream) : (s.setStream k x).lostLink = s.lostLink := rfl
@[simp] theorem State.setStream_ms (s : State) (k : Nat) (x : Stream) : (s.setStream k x).ms = s.ms := rfl
@[simp] theorem State.setStream_teams (s : State) (k : Nat) (x : Stream) : (s.setStream k x).teams = s.teams := rfl
@[simp] theorem State.setStream_clusters (s : State) (k : Nat) (x : Stream) : (s.setStream k x).clusters = s.clusters := rfl
@[simp] theorem State.setStream_parts (s : State) (k : Nat) (x : Stream) : (s.setStream k x).parts = s.parts := rfl
@[simp] theorem State.setStream_jobs (s : State) (k : Nat) (x : Stream) : (s.setStream k x).jobs = s.jobs := rfl
@[simp] theorem State.setStream_nextJob (s : State) (k : Nat) (x : Stream) : (s.setStream k x).nextJob = s.nextJob := rfl
@[simp] theorem State.setStream_issueNo (s : State) (k : Nat) (x : Stream) : (s.setStream k x).issueNo = s.issueNo := rfl
@[simp] theorem State.setStream_nextCtx (s : State) (k : Nat) (x : Stream) : (s.setStream k x).nextCtx = s.nextCtx := rfl
@[simp] theorem State.setStream_saved (s : State) (k : Nat) (x : Stream) : (s.setStream k x).saved = s.saved := rfl
@[simp] theorem State.setStream_syscalls (s : State) (k : Nat) (x : Stream) : (s.setStream k x).syscalls = s.syscalls := rfl
@[simp] theorem State.setStream_trans (s : State) (k : Nat) (x : Stream) : (s.setStream k x).trans = s.trans := rfl
@[simp] theorem State.setStream_links (s : State) (k : Nat) (x : Stream) : (s.setStream k x).links = s.links := rfl
@[simp] theorem State.setStream_cxl (s : State) (k : Nat) (x : Stream) : (s.setStream k x).cxl = s.cxl := rfl
@[simp] theorem State.setStream_physMap (s : State) (k : Nat) (x : Stream) : (s.setStream k x).physMap = s.physMap := rfl
@[simp] theorem State.setStream_reply (s : State) (k : Nat) (x : Stream) : (s.setStream k x).reply = s.reply := rfl
@[simp] theorem State.setStream_svFuses (s : State) (k : Nat) (x : Stream) : (s.setStream k x).svFuses = s.svFuses := rfl
@[simp] theorem State.setStream_fwFuses (s : State) (k : Nat) (x : Stream) : (s.setStream k x).fwFuses = s.fwFuses := rfl
@[simp] theorem State.setStream_rootDigest (s : State) (k : Nat) (x : Stream) : (s.setStream k x).rootDigest = s.rootDigest := rfl
@[simp] theorem State.setStream_opKey (s : State) (k : Nat) (x : Stream) : (s.setStream k x).opKey = s.opKey := rfl
@[simp] theorem State.setStream_devKey (s : State) (k : Nat) (x : Stream) : (s.setStream k x).devKey = s.devKey := rfl
@[simp] theorem State.setStream_fwA (s : State) (k : Nat) (x : Stream) : (s.setStream k x).fwA = s.fwA := rfl
@[simp] theorem State.setStream_fwB (s : State) (k : Nat) (x : Stream) : (s.setStream k x).fwB = s.fwB := rfl
@[simp] theorem State.setStream_stored (s : State) (k : Nat) (x : Stream) : (s.setStream k x).stored = s.stored := rfl
@[simp] theorem State.setStream_pairW (s : State) (k : Nat) (x : Stream) : (s.setStream k x).pairW = s.pairW := rfl
@[simp] theorem State.setStream_pairNext (s : State) (k : Nat) (x : Stream) : (s.setStream k x).pairNext = s.pairNext := rfl
@[simp] theorem State.setStream_epoch (s : State) (k : Nat) (x : Stream) : (s.setStream k x).epoch = s.epoch := rfl
@[simp] theorem State.setStream_energy (s : State) (k : Nat) (x : Stream) : (s.setStream k x).energy = s.energy := rfl
@[simp] theorem State.setStream_flash (s : State) (k : Nat) (x : Stream) : (s.setStream k x).flash = s.flash := rfl
@[simp] theorem State.setStream_rates (s : State) (k : Nat) (x : Stream) : (s.setStream k x).rates = s.rates := rfl
@[simp] theorem State.setStream_wearAge (s : State) (k : Nat) (x : Stream) : (s.setStream k x).wearAge = s.wearAge := rfl
@[simp] theorem State.setStream_rounds (s : State) (k : Nat) (x : Stream) : (s.setStream k x).rounds = s.rounds := rfl
@[simp] theorem State.setStream_msis (s : State) (k : Nat) (x : Stream) : (s.setStream k x).msis = s.msis := rfl
@[simp] theorem State.setStream_fresh (s : State) (k : Nat) (x : Stream) : (s.setStream k x).fresh = s.fresh := rfl
@[simp] theorem State.setStream_agenda (s : State) (k : Nat) (x : Stream) : (s.setStream k x).agenda = s.agenda := rfl
@[simp] theorem State.setStream_turns (s : State) (k : Nat) (x : Stream) : (s.setStream k x).turns = s.turns := rfl
@[simp] theorem State.setStream_cur (s : State) (k : Nat) (x : Stream) : (s.setStream k x).cur = s.cur := rfl

/-! ### setPart -/

@[simp] theorem State.setPart_power (s : State) (p : Nat) (x : Partition) : (s.setPart p x).power = s.power := rfl
@[simp] theorem State.setPart_lostLink (s : State) (p : Nat) (x : Partition) : (s.setPart p x).lostLink = s.lostLink := rfl
@[simp] theorem State.setPart_ms (s : State) (p : Nat) (x : Partition) : (s.setPart p x).ms = s.ms := rfl
@[simp] theorem State.setPart_teams (s : State) (p : Nat) (x : Partition) : (s.setPart p x).teams = s.teams := rfl
@[simp] theorem State.setPart_clusters (s : State) (p : Nat) (x : Partition) : (s.setPart p x).clusters = s.clusters := rfl
@[simp] theorem State.setPart_streams (s : State) (p : Nat) (x : Partition) : (s.setPart p x).streams = s.streams := rfl
@[simp] theorem State.setPart_jobs (s : State) (p : Nat) (x : Partition) : (s.setPart p x).jobs = s.jobs := rfl
@[simp] theorem State.setPart_nextJob (s : State) (p : Nat) (x : Partition) : (s.setPart p x).nextJob = s.nextJob := rfl
@[simp] theorem State.setPart_issueNo (s : State) (p : Nat) (x : Partition) : (s.setPart p x).issueNo = s.issueNo := rfl
@[simp] theorem State.setPart_nextCtx (s : State) (p : Nat) (x : Partition) : (s.setPart p x).nextCtx = s.nextCtx := rfl
@[simp] theorem State.setPart_saved (s : State) (p : Nat) (x : Partition) : (s.setPart p x).saved = s.saved := rfl
@[simp] theorem State.setPart_syscalls (s : State) (p : Nat) (x : Partition) : (s.setPart p x).syscalls = s.syscalls := rfl
@[simp] theorem State.setPart_trans (s : State) (p : Nat) (x : Partition) : (s.setPart p x).trans = s.trans := rfl
@[simp] theorem State.setPart_links (s : State) (p : Nat) (x : Partition) : (s.setPart p x).links = s.links := rfl
@[simp] theorem State.setPart_cxl (s : State) (p : Nat) (x : Partition) : (s.setPart p x).cxl = s.cxl := rfl
@[simp] theorem State.setPart_physMap (s : State) (p : Nat) (x : Partition) : (s.setPart p x).physMap = s.physMap := rfl
@[simp] theorem State.setPart_reply (s : State) (p : Nat) (x : Partition) : (s.setPart p x).reply = s.reply := rfl
@[simp] theorem State.setPart_svFuses (s : State) (p : Nat) (x : Partition) : (s.setPart p x).svFuses = s.svFuses := rfl
@[simp] theorem State.setPart_fwFuses (s : State) (p : Nat) (x : Partition) : (s.setPart p x).fwFuses = s.fwFuses := rfl
@[simp] theorem State.setPart_rootDigest (s : State) (p : Nat) (x : Partition) : (s.setPart p x).rootDigest = s.rootDigest := rfl
@[simp] theorem State.setPart_opKey (s : State) (p : Nat) (x : Partition) : (s.setPart p x).opKey = s.opKey := rfl
@[simp] theorem State.setPart_devKey (s : State) (p : Nat) (x : Partition) : (s.setPart p x).devKey = s.devKey := rfl
@[simp] theorem State.setPart_fwA (s : State) (p : Nat) (x : Partition) : (s.setPart p x).fwA = s.fwA := rfl
@[simp] theorem State.setPart_fwB (s : State) (p : Nat) (x : Partition) : (s.setPart p x).fwB = s.fwB := rfl
@[simp] theorem State.setPart_stored (s : State) (p : Nat) (x : Partition) : (s.setPart p x).stored = s.stored := rfl
@[simp] theorem State.setPart_pairW (s : State) (p : Nat) (x : Partition) : (s.setPart p x).pairW = s.pairW := rfl
@[simp] theorem State.setPart_pairNext (s : State) (p : Nat) (x : Partition) : (s.setPart p x).pairNext = s.pairNext := rfl
@[simp] theorem State.setPart_epoch (s : State) (p : Nat) (x : Partition) : (s.setPart p x).epoch = s.epoch := rfl
@[simp] theorem State.setPart_energy (s : State) (p : Nat) (x : Partition) : (s.setPart p x).energy = s.energy := rfl
@[simp] theorem State.setPart_flash (s : State) (p : Nat) (x : Partition) : (s.setPart p x).flash = s.flash := rfl
@[simp] theorem State.setPart_rates (s : State) (p : Nat) (x : Partition) : (s.setPart p x).rates = s.rates := rfl
@[simp] theorem State.setPart_wearAge (s : State) (p : Nat) (x : Partition) : (s.setPart p x).wearAge = s.wearAge := rfl
@[simp] theorem State.setPart_rounds (s : State) (p : Nat) (x : Partition) : (s.setPart p x).rounds = s.rounds := rfl
@[simp] theorem State.setPart_msis (s : State) (p : Nat) (x : Partition) : (s.setPart p x).msis = s.msis := rfl
@[simp] theorem State.setPart_fresh (s : State) (p : Nat) (x : Partition) : (s.setPart p x).fresh = s.fresh := rfl
@[simp] theorem State.setPart_agenda (s : State) (p : Nat) (x : Partition) : (s.setPart p x).agenda = s.agenda := rfl
@[simp] theorem State.setPart_turns (s : State) (p : Nat) (x : Partition) : (s.setPart p x).turns = s.turns := rfl
@[simp] theorem State.setPart_cur (s : State) (p : Nat) (x : Partition) : (s.setPart p x).cur = s.cur := rfl

/-! ### setCur -/

@[simp] theorem State.setCur_power (s : State) (st : CurSt) : (s.setCur st).power = s.power := rfl
@[simp] theorem State.setCur_lostLink (s : State) (st : CurSt) : (s.setCur st).lostLink = s.lostLink := rfl
@[simp] theorem State.setCur_ms (s : State) (st : CurSt) : (s.setCur st).ms = s.ms := rfl
@[simp] theorem State.setCur_teams (s : State) (st : CurSt) : (s.setCur st).teams = s.teams := rfl
@[simp] theorem State.setCur_clusters (s : State) (st : CurSt) : (s.setCur st).clusters = s.clusters := rfl
@[simp] theorem State.setCur_streams (s : State) (st : CurSt) : (s.setCur st).streams = s.streams := rfl
@[simp] theorem State.setCur_parts (s : State) (st : CurSt) : (s.setCur st).parts = s.parts := rfl
@[simp] theorem State.setCur_jobs (s : State) (st : CurSt) : (s.setCur st).jobs = s.jobs := rfl
@[simp] theorem State.setCur_nextJob (s : State) (st : CurSt) : (s.setCur st).nextJob = s.nextJob := rfl
@[simp] theorem State.setCur_issueNo (s : State) (st : CurSt) : (s.setCur st).issueNo = s.issueNo := rfl
@[simp] theorem State.setCur_nextCtx (s : State) (st : CurSt) : (s.setCur st).nextCtx = s.nextCtx := rfl
@[simp] theorem State.setCur_saved (s : State) (st : CurSt) : (s.setCur st).saved = s.saved := rfl
@[simp] theorem State.setCur_syscalls (s : State) (st : CurSt) : (s.setCur st).syscalls = s.syscalls := rfl
@[simp] theorem State.setCur_trans (s : State) (st : CurSt) : (s.setCur st).trans = s.trans := rfl
@[simp] theorem State.setCur_links (s : State) (st : CurSt) : (s.setCur st).links = s.links := rfl
@[simp] theorem State.setCur_cxl (s : State) (st : CurSt) : (s.setCur st).cxl = s.cxl := rfl
@[simp] theorem State.setCur_physMap (s : State) (st : CurSt) : (s.setCur st).physMap = s.physMap := rfl
@[simp] theorem State.setCur_reply (s : State) (st : CurSt) : (s.setCur st).reply = s.reply := rfl
@[simp] theorem State.setCur_svFuses (s : State) (st : CurSt) : (s.setCur st).svFuses = s.svFuses := rfl
@[simp] theorem State.setCur_fwFuses (s : State) (st : CurSt) : (s.setCur st).fwFuses = s.fwFuses := rfl
@[simp] theorem State.setCur_rootDigest (s : State) (st : CurSt) : (s.setCur st).rootDigest = s.rootDigest := rfl
@[simp] theorem State.setCur_opKey (s : State) (st : CurSt) : (s.setCur st).opKey = s.opKey := rfl
@[simp] theorem State.setCur_devKey (s : State) (st : CurSt) : (s.setCur st).devKey = s.devKey := rfl
@[simp] theorem State.setCur_fwA (s : State) (st : CurSt) : (s.setCur st).fwA = s.fwA := rfl
@[simp] theorem State.setCur_fwB (s : State) (st : CurSt) : (s.setCur st).fwB = s.fwB := rfl
@[simp] theorem State.setCur_stored (s : State) (st : CurSt) : (s.setCur st).stored = s.stored := rfl
@[simp] theorem State.setCur_pairW (s : State) (st : CurSt) : (s.setCur st).pairW = s.pairW := rfl
@[simp] theorem State.setCur_pairNext (s : State) (st : CurSt) : (s.setCur st).pairNext = s.pairNext := rfl
@[simp] theorem State.setCur_epoch (s : State) (st : CurSt) : (s.setCur st).epoch = s.epoch := rfl
@[simp] theorem State.setCur_energy (s : State) (st : CurSt) : (s.setCur st).energy = s.energy := rfl
@[simp] theorem State.setCur_flash (s : State) (st : CurSt) : (s.setCur st).flash = s.flash := rfl
@[simp] theorem State.setCur_rates (s : State) (st : CurSt) : (s.setCur st).rates = s.rates := rfl
@[simp] theorem State.setCur_wearAge (s : State) (st : CurSt) : (s.setCur st).wearAge = s.wearAge := rfl
@[simp] theorem State.setCur_rounds (s : State) (st : CurSt) : (s.setCur st).rounds = s.rounds := rfl
@[simp] theorem State.setCur_msis (s : State) (st : CurSt) : (s.setCur st).msis = s.msis := rfl
@[simp] theorem State.setCur_fresh (s : State) (st : CurSt) : (s.setCur st).fresh = s.fresh := rfl
@[simp] theorem State.setCur_agenda (s : State) (st : CurSt) : (s.setCur st).agenda = s.agenda := rfl
@[simp] theorem State.setCur_turns (s : State) (st : CurSt) : (s.setCur st).turns = s.turns := rfl

/-! ### jump -/

@[simp] theorem State.jump_power (s : State) (pc : Word) : (s.jump pc).power = s.power := rfl
@[simp] theorem State.jump_lostLink (s : State) (pc : Word) : (s.jump pc).lostLink = s.lostLink := rfl
@[simp] theorem State.jump_ms (s : State) (pc : Word) : (s.jump pc).ms = s.ms := rfl
@[simp] theorem State.jump_teams (s : State) (pc : Word) : (s.jump pc).teams = s.teams := rfl
@[simp] theorem State.jump_clusters (s : State) (pc : Word) : (s.jump pc).clusters = s.clusters := rfl
@[simp] theorem State.jump_streams (s : State) (pc : Word) : (s.jump pc).streams = s.streams := rfl
@[simp] theorem State.jump_parts (s : State) (pc : Word) : (s.jump pc).parts = s.parts := rfl
@[simp] theorem State.jump_jobs (s : State) (pc : Word) : (s.jump pc).jobs = s.jobs := rfl
@[simp] theorem State.jump_nextJob (s : State) (pc : Word) : (s.jump pc).nextJob = s.nextJob := rfl
@[simp] theorem State.jump_issueNo (s : State) (pc : Word) : (s.jump pc).issueNo = s.issueNo := rfl
@[simp] theorem State.jump_nextCtx (s : State) (pc : Word) : (s.jump pc).nextCtx = s.nextCtx := rfl
@[simp] theorem State.jump_saved (s : State) (pc : Word) : (s.jump pc).saved = s.saved := rfl
@[simp] theorem State.jump_syscalls (s : State) (pc : Word) : (s.jump pc).syscalls = s.syscalls := rfl
@[simp] theorem State.jump_trans (s : State) (pc : Word) : (s.jump pc).trans = s.trans := rfl
@[simp] theorem State.jump_links (s : State) (pc : Word) : (s.jump pc).links = s.links := rfl
@[simp] theorem State.jump_cxl (s : State) (pc : Word) : (s.jump pc).cxl = s.cxl := rfl
@[simp] theorem State.jump_physMap (s : State) (pc : Word) : (s.jump pc).physMap = s.physMap := rfl
@[simp] theorem State.jump_reply (s : State) (pc : Word) : (s.jump pc).reply = s.reply := rfl
@[simp] theorem State.jump_svFuses (s : State) (pc : Word) : (s.jump pc).svFuses = s.svFuses := rfl
@[simp] theorem State.jump_fwFuses (s : State) (pc : Word) : (s.jump pc).fwFuses = s.fwFuses := rfl
@[simp] theorem State.jump_rootDigest (s : State) (pc : Word) : (s.jump pc).rootDigest = s.rootDigest := rfl
@[simp] theorem State.jump_opKey (s : State) (pc : Word) : (s.jump pc).opKey = s.opKey := rfl
@[simp] theorem State.jump_devKey (s : State) (pc : Word) : (s.jump pc).devKey = s.devKey := rfl
@[simp] theorem State.jump_fwA (s : State) (pc : Word) : (s.jump pc).fwA = s.fwA := rfl
@[simp] theorem State.jump_fwB (s : State) (pc : Word) : (s.jump pc).fwB = s.fwB := rfl
@[simp] theorem State.jump_stored (s : State) (pc : Word) : (s.jump pc).stored = s.stored := rfl
@[simp] theorem State.jump_pairW (s : State) (pc : Word) : (s.jump pc).pairW = s.pairW := rfl
@[simp] theorem State.jump_pairNext (s : State) (pc : Word) : (s.jump pc).pairNext = s.pairNext := rfl
@[simp] theorem State.jump_epoch (s : State) (pc : Word) : (s.jump pc).epoch = s.epoch := rfl
@[simp] theorem State.jump_energy (s : State) (pc : Word) : (s.jump pc).energy = s.energy := rfl
@[simp] theorem State.jump_flash (s : State) (pc : Word) : (s.jump pc).flash = s.flash := rfl
@[simp] theorem State.jump_rates (s : State) (pc : Word) : (s.jump pc).rates = s.rates := rfl
@[simp] theorem State.jump_wearAge (s : State) (pc : Word) : (s.jump pc).wearAge = s.wearAge := rfl
@[simp] theorem State.jump_rounds (s : State) (pc : Word) : (s.jump pc).rounds = s.rounds := rfl
@[simp] theorem State.jump_msis (s : State) (pc : Word) : (s.jump pc).msis = s.msis := rfl
@[simp] theorem State.jump_fresh (s : State) (pc : Word) : (s.jump pc).fresh = s.fresh := rfl
@[simp] theorem State.jump_agenda (s : State) (pc : Word) : (s.jump pc).agenda = s.agenda := rfl
@[simp] theorem State.jump_turns (s : State) (pc : Word) : (s.jump pc).turns = s.turns := rfl

/-! ### Reading back -/

@[simp] theorem State.team_setTeam (s : State) (tk : Nat) (t : Team) : (s.setTeam tk t).team tk = t :=
  look_put_same _ _ _ _

theorem State.team_setTeam_other (s : State) (tk k : Nat) (t : Team) (h : k ≠ tk) : (s.setTeam tk t).team k = s.team k :=
  look_put_other _ _ _ _ _ h

@[simp] theorem State.stream_setStream (s : State) (k : Nat) (x : Stream) : (s.setStream k x).stream k = x :=
  look_put_same _ _ _ _

theorem State.stream_setStream_other (s : State) (k j : Nat) (x : Stream) (h : j ≠ k) :
    (s.setStream k x).stream j = s.stream j :=
  look_put_other _ _ _ _ _ h

@[simp] theorem State.part_setPart (s : State) (p : Nat) (x : Partition) : (s.setPart p x).part p = x :=
  look_put_same _ _ _ _

theorem State.part_setPart_other (s : State) (p j : Nat) (x : Partition) (h : j ≠ p) : (s.setPart p x).part j = s.part j :=
  look_put_other _ _ _ _ _ h

@[simp] theorem State.cluster_setCluster (s : State) (c : Nat) (x : Cluster) : (s.setCluster c x).cluster c = x :=
  look_put_same _ _ _ _

@[simp] theorem State.team_setStream (s : State) (k : Nat) (x : Stream) (tk : Nat) : (s.setStream k x).team tk = s.team tk := rfl
@[simp] theorem State.team_setPart (s : State) (k : Nat) (x : Partition) (tk : Nat) : (s.setPart k x).team tk = s.team tk := rfl
@[simp] theorem State.team_setCluster (s : State) (k : Nat) (x : Cluster) (tk : Nat) : (s.setCluster k x).team tk = s.team tk := rfl
@[simp] theorem State.stream_setTeam (s : State) (tk : Nat) (t : Team) (k : Nat) : (s.setTeam tk t).stream k = s.stream k := rfl
@[simp] theorem State.stream_setPart (s : State) (p : Nat) (x : Partition) (k : Nat) : (s.setPart p x).stream k = s.stream k := rfl
@[simp] theorem State.part_setTeam (s : State) (tk : Nat) (t : Team) (p : Nat) : (s.setTeam tk t).part p = s.part p := rfl
@[simp] theorem State.part_setStream (s : State) (k : Nat) (x : Stream) (p : Nat) : (s.setStream k x).part p = s.part p := rfl

/-! ### Register banks (R83, R123, R156) -/

/-- A bank's registers under a write: s0 reads zero and discards writes. -/
theorem regOf_setRegOf {b : List (Nat × Word)} (r r' : Reg) (v : Word) (h : rising b = true) :
    regOf (setRegOf b r v) r' = if r' = 0#5 then 0#64 else if r' = r then v else regOf b r' := by
  unfold regOf setRegOf
  by_cases h0 : r' = 0#5
  · simp [h0]
  · simp only [if_neg h0]
    by_cases hr : r = 0#5
    · subst hr; simp [h0]
    · simp only [if_neg hr]
      rw [look_store _ _ _ h]
      have : (r'.toNat = r.toNat) ↔ r' = r := ⟨fun e => BitVec.eq_of_toNat_eq e, fun e => e ▸ rfl⟩
      simp [this]

theorem rising_setRegOf {b : List (Nat × Word)} (r : Reg) (v : Word) (h : rising b = true) :
    rising (setRegOf b r v) = true := by
  unfold setRegOf; split
  · exact h
  · exact rising_store _ _ h

theorem canonical_setRegOf {b : List (Nat × Word)} (r : Reg) (v : Word) (h : canonical 0#64 b = true) :
    canonical 0#64 (setRegOf b r v) = true := by
  unfold setRegOf; split
  · exact h
  · exact canonical_store _ _ h

@[simp] theorem Team.setReg_zero (t : Team) (v : Word) : t.setReg 0#5 v = t := by
  cases t with | mk => rename Level => l; cases l <;> rfl

/-- Reading a register after a write, at the level the team runs at. -/
theorem Team.reg_setReg (t : Team) (r r' : Reg) (v : Word) (h : rising t.bank = true) :
    (t.setReg r v).reg r' = if r' = 0#5 then 0#64 else if r' = r then v else t.reg r' := by
  unfold Team.setReg Team.reg
  cases hl : t.level with
  | a =>
    have h' : rising t.regs = true := by simpa [Team.bank, hl] using h
    simpa [Team.bank, hl] using regOf_setRegOf (b := t.regs) r r' v h'
  | h =>
    have h' : rising t.hregs = true := by simpa [Team.bank, hl] using h
    simpa [Team.bank, hl] using regOf_setRegOf (b := t.hregs) r r' v h'

@[simp] theorem Team.reg_zero (t : Team) : t.reg 0#5 = 0#64 := rfl

end Sys2Proof.Machine
end

