-- ==== Sys2Proof/Laws/Results.lean ====
section
/-! SUPPORT. What writing a result does (R80 to R84, R123). -/

namespace Sys2Proof.Machine

theorem bankOk_rising {b : List (Nat × Word)} (h : bankOk b = true) : rising b = true := by
  simp only [bankOk, Bool.and_eq_true] at h
  exact canonical_rising h.1

theorem curTeam_setTeam (s : State) (t : Team) : (s.setTeam s.cur.tk t).curTeam = t := State.team_setTeam s s.cur.tk t

theorem onlyTeam_setTeam (s : State) (tk : Nat) (t : Team) : OnlyTeam tk s (s.setTeam tk t) where
  rest := rfl
  others := fun k h => State.team_setTeam_other s tk k t h

theorem onlyTeam_refl (tk : Nat) (s : State) : OnlyTeam tk s s := ⟨rfl, fun _ _ => rfl⟩

/-- What a later result due at the same bundle leaves of the ones in flight (R83). -/
theorem mem_cancelDue {d : Reg} {f : Flight} {fs : List Flight} (h0 : f.reg ≠ 0#5) (h : f.reg ≠ d ∨ 1 < f.left) :
    f ∈ cancelDue d fs ↔ f ∈ fs := by
  unfold cancelDue
  rw [List.mem_filterMap]
  constructor
  · rintro ⟨g, hg, e⟩
    split at e
    · split at e
      · cases e
      · cases e; exact absurd rfl h0
    · cases e; exact hg
  · intro hf
    refine ⟨f, hf, if_neg ?_⟩
    rintro ⟨a, b⟩
    rcases h with h | h
    · exact h a
    · omega

theorem cancelDue_none {d : Reg} {fs : List Flight} (hd : d ≠ 0#5) : ∀ f ∈ cancelDue d fs, f.reg = d → 1 < f.left := by
  intro f hf e
  unfold cancelDue at hf
  rw [List.mem_filterMap] at hf
  obtain ⟨g, _, h⟩ := hf
  split at h
  · split at h
    · cases h
    · cases h; exact absurd e.symm hd
  · rename_i hn
    cases h
    exact Nat.lt_of_not_le fun hl => hn ⟨e, hl⟩

theorem onlyRegs_setReg (x : Team) (fs : List Flight) (d : Reg) (v : Word) :
    OnlyRegs x (({ x with flights := fs } : Team).setReg d v) := by
  cases x
  rename Level => l
  cases l
  · exact ⟨rfl, fun _ => rfl, fun e => by cases e⟩
  · exact ⟨rfl, (fun e => by cases e), fun _ => rfl⟩

@[simp] theorem Team.flights_setReg (x : Team) (d : Reg) (v : Word) : (x.setReg d v).flights = x.flights := by
  unfold Team.setReg; cases x.level <;> rfl

/-- Everything `write` can do: the result of an S syllable. -/
theorem wrote_write {s : State} {lat : Nat} {d : Reg} {v : Word} (h : s.bankFine) : Wrote s lat d v (s.write lat d v) := by
  have hb : rising s.curTeam.bank = true := bankOk_rising h
  have hc : (s.write lat d v).curTeam = s.curTeam.result lat d v := curTeam_setTeam s _
  have fr : OnlyTeam s.cur.tk s (s.write lat d v) := onlyTeam_setTeam s _ _
  by_cases hd : d = 0#5
  · have hr : s.curTeam.result lat d v = s.curTeam := by simp [Team.result, hd]
    rw [hr] at hc
    refine ⟨fr, ?_, fun r _ => by rw [hc], fun _ => hc, fun hn => absurd hd hn, fun hn => absurd hd hn⟩
    rw [hc]; exact ⟨rfl, fun _ => rfl, fun _ => rfl⟩
  · by_cases hl : lat ≤ 1 ∨ s.curTeam.sched = false
    · have hr : s.curTeam.result lat d v =
          ({ s.curTeam with flights := cancelDue d s.curTeam.flights } : Team).setReg d v := by
        simp only [Team.result, if_neg hd, if_pos hl]
      have hb' : rising ({ s.curTeam with flights := cancelDue d s.curTeam.flights } : Team).bank = true := hb
      rw [hr] at hc
      refine ⟨fr, ?_, fun r hr' => ?_, fun e => absurd e hd, fun _ _ => ⟨?_, ?_, ?_⟩, fun _ h1 h2 => ?_⟩
      · rw [hc]; exact onlyRegs_setReg _ _ _ _
      · rw [hc, Team.reg_setReg _ _ _ _ hb']
        by_cases h0 : r = 0#5
        · subst h0; rfl
        · simp only [if_neg h0, if_neg hr']; rfl
      · rw [hc, Team.reg_setReg _ _ _ _ hb']; simp [hd]
      · rw [hc, Team.flights_setReg]; exact cancelDue_none hd
      · intro f h0 hf; rw [hc, Team.flights_setReg]; exact mem_cancelDue h0 hf
      · rcases hl with hl | hl
        · omega
        · rw [hl] at h2; cases h2
    · have hr : s.curTeam.result lat d v =
          { s.curTeam with flights := s.curTeam.flights ++ [{ reg := d, val := v, load := none, left := lat }] } := by
        simp only [Team.result, if_neg hd, if_neg hl]
      rw [hr] at hc
      refine ⟨fr, ?_, fun r _ => by rw [hc]; rfl, fun e => absurd e hd, fun _ h1 => absurd h1 hl, fun _ _ _ => ⟨by rw [hc]; rfl, by rw [hc]⟩⟩
      rw [hc]; exact ⟨rfl, fun _ => rfl, fun _ => rfl⟩

/-- A syllable whose meaning is a write of v gives v. -/
theorem gives_write {i : Instr} {s : State} {lat : Nat} {d : Reg} {v w : Word} (h : s.bankFine)
    (e : exec i s = .next (s.write lat d v)) (hv : v = w) : Gives i s s lat d w :=
  ⟨_, e, hv ▸ wrote_write h⟩

end Sys2Proof.Machine
end

