-- ==== Sys2Proof/Laws/Grants.lean ====
section
/-! SUPPORT. What taking a grant does (R145, R205, R208). -/

namespace Sys2Proof.Machine

/-- The capacity a grant of a positive request meets. -/
theorem capFor_fst {t : Team} {q : Word} (h : q ≠ 0#64) : (t.capFor q).1 = match t.script with
    | none => max 1 (if t.ctl.width = 64 then t.cap32 / 2 else t.cap32 * (32 / t.ctl.width))
    | some sc => max 1 (sc.caps.getD sc.pos 1) := by
  unfold Team.capFor
  cases t.script with
  | none => rfl
  | some sc => simp [h]

/-- A grant moves nothing of the team but its script. -/
theorem capFor_snd (t : Team) (q : Word) : (t.capFor q).2 = { t with script := t.script.map (fun sc =>
    { sc with pos := if q = 0#64 then sc.pos else min (sc.pos + 1) (sc.caps.length - 1) }) } := by
  unfold Team.capFor
  cases h : t.script with
  | none => cases t; simp_all
  | some sc =>
    by_cases hq : q = 0#64
    · cases t; simp_all
    · simp [hq]

/-- Everything `grant` can do, the team's control registers first becoming c with the same width. -/
theorem granted_grant {s : State} {c : Ctl} (q : Word) (hw : c.vtype = s.curTeam.ctl.vtype) : Granted s q c ((s.setCtl c).grant q) := by
  have hwid : c.width = s.curTeam.ctl.width := by simp [Ctl.width, hw]
  have hct : (s.setCtl c).curTeam = { s.curTeam with ctl := c } := curTeam_setTeam s _
  have hvl : (s.setCtl c).vlmaxOf (s.setCtl c).cur.tk = s.vlmaxOf s.cur.tk := by
    show vlmax (lanes _ ((s.setCtl c).curTeam.bind.prot)) (Ctl.width (s.setCtl c).curTeam.ctl) = _
    rw [hct]
    show vlmax (lanes _ s.curTeam.bind.prot) c.width = _
    rw [hwid]; rfl
  have hn : grantOf q ((s.setCtl c).vlmaxOf (s.setCtl c).cur.tk) (((s.setCtl c).curTeam.capFor q).1) c.hold.toNat =
      s.granted q c.hold := by
    rw [hvl, hct]
    unfold grantOf State.granted State.capacity
    by_cases hq : q = 0#64
    · subst hq; simp
    · rw [capFor_fst hq]
      show min q.toNat (min _ (max (match s.curTeam.script with
        | none => max 1 (if c.width = 64 then s.curTeam.cap32 / 2 else s.curTeam.cap32 * (32 / c.width))
        | some sc => max 1 (sc.caps.getD sc.pos 1)) _)) = _
      rw [hwid] <;> (cases s.curTeam.script <;> rfl)
  have hteam : ((s.setCtl c).grant q).curTeam =
      { s.curTeam with
        ctl := { c with gl := BitVec.ofNat 16 (s.granted q c.hold) }
        script := s.curTeam.script.map (fun sc =>
          { sc with pos := if q = 0#64 then sc.pos else min (sc.pos + 1) (sc.caps.length - 1) })
        vt := ((s.setCtl c).grant q).curTeam.vt, charge := 0, strip := s.curTeam.strip + 1 } := by
    have hs : ∀ x : Team, (s.setCtl c).grant q = (let s1 := (s.setCtl c).setTeam s.cur.tk x;
        if s.granted q c.hold < c.gl.toNat then { s1 with cur := { s1.cur with cuts := s1.cur.cuts ++ [VOp.trunc (s.granted q c.hold * c.width) (some (s.granted q c.hold))] } } else s1) →
        ((s.setCtl c).grant q).curTeam = x := by
      intro x hx
      rw [hx]
      dsimp only
      split <;> exact State.team_setTeam _ _ _
    have := hs _ (by
      unfold State.grant
      simp only [hct] at hn ⊢
      rw [hn]
      rfl)
    rw [this]
    simp only [capFor_snd]
  refine ⟨?_, ?_, ?_, ?_, ?_⟩
  · constructor
    · unfold State.grant; dsimp only; split <;> rfl
    · intro k hk
      have : ((s.setCtl c).grant q).team k = (s.setCtl c).team k := by
        unfold State.grant
        dsimp only
        split <;> exact State.team_setTeam_other _ _ _ _ hk
      rw [this]; exact State.team_setTeam_other s _ _ _ hk
  · rw [hteam]
  · rw [hteam]
  · rw [hteam]
  · have : (s.setCtl c).curTeam.ctl = c := by rw [hct]
    unfold State.grant
    dsimp only
    rw [this, hn, hwid]
    by_cases h : s.granted q c.hold < c.gl.toNat
    · rw [if_pos h, if_pos h]; rfl
    · rw [if_neg h, if_neg h]; simp; rfl

end Sys2Proof.Machine
end

