-- ==== Sys2Proof/Laws/Issue.lean ====
section
/-! SUPPORT. What entering a queue does, for each of the three classes (R20 to R22). -/

namespace Sys2Proof.Machine

/-- Everything `pushV` can do. -/
theorem takesV_pushV (s : State) (op : VOp) (x y z : Reg) :
    TakesV s op x y z (frameLeft s.curTeam.q.frame) (s.pushV op x y z) := by
  refine ⟨onlyTeam_setTeam s _ _, ?_⟩
  unfold State.pushV
  rw [curTeam_setTeam]
  cases h : s.curTeam.q.frame <;> rfl

/-- Everything `pushM` can do. -/
theorem pushM_spec (s : State) (op : MOp) (x y z : Reg) (scaled : Bool) :
    OnlyTeam s.cur.tk s (s.pushM op x y z scaled) ∧
    let e := captures s (.m op) x y z
    (s.pushM op x y z scaled).curTeam = { s.curTeam with
      q := { s.curTeam.q with mq := s.curTeam.q.mq ++ [if scaled then { e with sx := scaleOf s e.y, sy := scaleOf s e.z } else e] }
      nextNo := s.curTeam.nextNo + 1, mvt := (s.pushM op x y z scaled).curTeam.mvt } := by
  refine ⟨onlyTeam_setTeam s _ _, ?_⟩
  unfold State.pushM
  rw [curTeam_setTeam]
  cases scaled <;> rfl

/-- Everything `pushC` can do. -/
theorem pushC_spec (s : State) (op : COp) (x y z : Reg) :
    OnlyTeam s.cur.tk s (s.pushC op x y z) ∧
    let n := max s.curTeam.ceNo (s.team (otherSlot s.cur.tk)).ceNo + 1
    let e := { captures s (.c op) x y z with ceNo := n }
    (s.pushC op x y z).curTeam = { s.curTeam with
      q := if op.tag.toNat < 8 then { s.curTeam.q with cq0 := s.curTeam.q.cq0 ++ [e] }
           else { s.curTeam.q with cq1 := s.curTeam.q.cq1 ++ [e] }
      nextNo := s.curTeam.nextNo + 1, ceNo := n, cvt0 := (s.pushC op x y z).curTeam.cvt0, cvt1 := (s.pushC op x y z).curTeam.cvt1 } := by
  refine ⟨onlyTeam_setTeam s _ _, ?_⟩
  unfold State.pushC
  rw [curTeam_setTeam]
  rfl

/-- An instruction whose meaning is `pushV` enters the VIQ. -/
theorem entersV_of {i : Instr} {op : VOp} {x y z : Reg} (h : ∀ s, exec i s = .next (s.pushV op x y z)) : EntersV i op x y z :=
  fun s => ⟨_, h s, takesV_pushV s op x y z⟩

/-- One whose meaning is `pushM` enters the matrix queue. -/
theorem entersM_of {i : Instr} {op : MOp} {x y z : Reg} {c : Bool} (h : ∀ s, exec i s = .next (s.pushM op x y z c)) :
    EntersM i op x y z c :=
  fun s => ⟨_, h s, pushM_spec s op x y z c⟩

/-- One whose meaning is `pushC` enters its copy queue. -/
theorem entersC_of {i : Instr} {op : COp} {x y z : Reg} (h : ∀ s, exec i s = .next (s.pushC op x y z)) : EntersC i op x y z :=
  fun s => ⟨_, h s, pushC_spec s op x y z⟩

end Sys2Proof.Machine
end

