-- ==== Sys2Proof/Laws/Memory.lean ====
section
/-! SUPPORT. What the operations over storage do: each keeps the canonical form of memory, local memory, full/empty bits and code,
and a write changes no byte but its own. -/

namespace Sys2Proof.Machine

theorem MemSys.ok_iff {m : MemSys} : m.ok = true ↔
    canonical 0#8 m.mem = true ∧ canonical 0#8 m.lm = true ∧ canonical false m.fe = true ∧ canonical 0#8 m.code = true := by
  simp [MemSys.ok, and_assoc]

theorem MemSys.ok_reset : MemSys.reset.ok = true := rfl

/-- The canonical form rests on four fields alone. -/
theorem MemSys.ok_congr {a b : MemSys} (h : a.ok = true) (h1 : b.mem = a.mem) (h2 : b.lm = a.lm) (h3 : b.fe = a.fe)
    (h4 : b.code = a.code) : b.ok = true := by
  rw [MemSys.ok_iff] at *; rw [h1, h2, h3, h4]; exact h

/-- A step that changes memory alone keeps the form if the new memory has it. -/
theorem MemSys.ok_mem {a b : MemSys} (h : a.ok = true) (h1 : canonical 0#8 b.mem = true) (h2 : b.lm = a.lm) (h3 : b.fe = a.fe)
    (h4 : b.code = a.code) : b.ok = true := by
  rw [MemSys.ok_iff] at *; rw [h2, h3, h4]; exact ⟨h1, h.2⟩

/-! ### Homes -/

theorem MemSys.ok_homeWrite {m : MemSys} (pa n x : Nat) (who : Party) (h : m.ok = true) : (m.homeWrite pa n x who).ok = true :=
  MemSys.ok_mem h (canonical_storeLE pa n x (MemSys.ok_iff.1 h).1) rfl rfl rfl

theorem MemSys.byteAt_homeWrite_other {m : MemSys} (pa n x : Nat) (who : Party) (h : Memory.wf m.mem) {p : Nat}
    (hp : p < pa ∨ pa + n ≤ p) : (m.homeWrite pa n x who).byteAt p = m.byteAt p :=
  look_storeLE_other pa n x p (canonical_rising h) hp

theorem MemSys.homeRead_homeWrite {m : MemSys} (pa n x : Nat) (who : Party) (h : Memory.wf m.mem) :
    (m.homeWrite pa n x who).homeRead pa n = x % 2 ^ (8 * n) :=
  readLE_storeLE pa n x (canonical_rising h)

theorem MemSys.homeRead_homeWrite_other {m : MemSys} (pa n x : Nat) (who : Party) (h : Memory.wf m.mem) (q k : Nat)
    (hq : q + k ≤ pa ∨ pa + n ≤ q) : (m.homeWrite pa n x who).homeRead q k = m.homeRead q k := by
  refine readLE_congr _ _ _ _ fun j hj => MemSys.byteAt_homeWrite_other pa n x who h ?_
  omega

/-! ### Local memory -/

theorem MemSys.ok_lmWrite {m : MemSys} (core off n x : Nat) (h : m.ok = true) : (m.lmWrite core off n x).ok = true := by
  rw [MemSys.ok_iff] at *; exact ⟨h.1, canonical_storeLE _ _ _ h.2.1, h.2.2⟩

theorem MemSys.ok_setFull {m : MemSys} (core off : Nat) (b : Bool) (h : m.ok = true) : (m.setFull core off b).ok = true := by
  rw [MemSys.ok_iff] at *; exact ⟨h.1, h.2.1, canonical_store _ _ h.2.2.1, h.2.2.2⟩

theorem MemSys.lmRead_lmWrite {m : MemSys} (core off n x : Nat) (h : m.ok = true) :
    (m.lmWrite core off n x).lmRead core off n = x % 2 ^ (8 * n) := by
  have := readLE_storeLE (m := m.lm) (lmKey core off) n x (canonical_rising (MemSys.ok_iff.1 h).2.1)
  rw [← this]
  have key : ∀ (k a b : Nat) (f g : Nat → Byte), (∀ j, j < k → f (a + j) = g (b + j)) → readLE f a k = readLE g b k := by
    intro k
    induction k with
    | zero => intros; rfl
    | succ k ih =>
      intro a b f g hfg
      simp only [readLE]
      rw [show f a = g b from hfg 0 (Nat.succ_pos k), ih (a + 1) (b + 1) f g ?_]
      intro j hj
      have := hfg (j + 1) (by omega)
      rwa [show a + 1 + j = a + (j + 1) by omega, show b + 1 + j = b + (j + 1) by omega]
  refine key _ _ _ _ _ fun j _ => ?_
  show look 0#8 _ _ = look 0#8 _ _
  simp only [lmKey, MemSys.lmWrite]
  rw [Nat.add_assoc]

theorem canonical_dropRange' {α : Type} [DecidableEq α] {d : α} {m : List (Nat × α)} (lo hi : Nat) (h : canonical d m = true) :
    canonical d (dropRange m lo hi) = true := canonical_dropRange lo hi h

/-- A fold of stores keeps the canonical form. -/
theorem canonical_foldl_store {α β : Type} [DecidableEq α] {d : α} (key : β → Nat) (val : β → α) (l : List β) {m : List (Nat × α)}
    (h : canonical d m = true) : canonical d (l.foldl (fun m b => store d m (key b) (val b)) m) = true := by
  induction l generalizing m with
  | nil => exact h
  | cons b r ih => exact ih (canonical_store _ _ h)

theorem MemSys.ok_startLm {m : MemSys} (core base size : Nat) (img : List Byte) (h : m.ok = true) :
    (m.startLm core base size img).ok = true := by
  rw [MemSys.ok_iff] at *
  exact ⟨h.1, canonical_foldl_store (fun b : Byte × Nat => lmKey core base + b.2) (fun b => b.1) _ (canonical_dropRange _ _ h.2.1),
    canonical_foldl_store (fun g : Nat => lmKey core base / 16 + g) (fun _ => true) _ (canonical_dropRange _ _ h.2.2.1), h.2.2.2⟩

/-- Saved keys pasted back leave the canonical form, whatever they are. -/
theorem canonical_pasteRange {α : Type} [DecidableEq α] {d : α} {m : List (Nat × α)} (lo hi : Nat) (x : List (Nat × α))
    (h : canonical d m = true) : canonical d (pasteRange d m lo hi x) = true :=
  canonical_foldl_store (fun e : Nat × α => lo + e.1) (fun e => e.2) x (canonical_dropRange lo hi h)

/-! ### The L1 -/

theorem canonical_writeBytes (data : BitVec 512) (dirty : BitVec 64) (base k : Nat) {mem : List Host.Cell} (h : Memory.wf mem) :
    Memory.wf (writeBytes data dirty base k mem) := by
  induction k with
  | zero => exact h
  | succ k ih =>
    simp only [writeBytes]
    split
    · exact canonical_store _ _ ih
    · exact ih

/-- What writing dirty bytes leaves at every byte. -/
theorem look_writeBytes (data : BitVec 512) (dirty : BitVec 64) (base k : Nat) {mem : List Host.Cell} (h : Memory.wf mem) (p : Nat) :
    look 0#8 (writeBytes data dirty base k mem) p =
      if base ≤ p ∧ p < base + k ∧ dirty.getLsbD (p - base) = true then data.extractLsb' (8 * (p - base)) 8 else look 0#8 mem p := by
  induction k with
  | zero => simp only [writeBytes, Nat.add_zero]; rw [if_neg]; omega
  | succ k ih =>
    have hw := canonical_writeBytes data dirty base k h
    simp only [writeBytes]
    by_cases hd : dirty.getLsbD k = true
    · rw [if_pos hd, look_store _ _ _ (canonical_rising hw), ih]
      by_cases hp : p = base + k
      · subst hp
        rw [if_pos rfl, if_pos ⟨by omega, by omega, by simpa using hd⟩]; simp
      · rw [if_neg hp]
        by_cases hc : base ≤ p ∧ p < base + k ∧ dirty.getLsbD (p - base) = true
        · rw [if_pos hc, if_pos ⟨hc.1, by omega, hc.2.2⟩]
        · rw [if_neg hc, if_neg]; rintro ⟨a, b, c⟩; exact hc ⟨a, by omega, c⟩
    · rw [if_neg hd, ih]
      by_cases hc : base ≤ p ∧ p < base + k ∧ dirty.getLsbD (p - base) = true
      · rw [if_pos hc, if_pos ⟨hc.1, by omega, hc.2.2⟩]
      · rw [if_neg hc, if_neg]
        rintro ⟨a, b, c⟩
        by_cases hk : p = base + k
        · subst hk; exact hd (by simpa using c)
        · exact hc ⟨a, by omega, c⟩

theorem MemSys.ok_writeBack {m : MemSys} (core : Nat) (l : Line) (h : m.ok = true) : (m.writeBack core l).ok = true := by
  unfold MemSys.writeBack
  split
  · exact h
  · exact MemSys.ok_mem h (canonical_writeBytes _ _ _ _ (MemSys.ok_iff.1 h).1) rfl rfl rfl

/-- A write-back touches the line's dirty bytes alone. -/
theorem MemSys.byteAt_writeBack {m : MemSys} (core : Nat) (l : Line) (h : Memory.wf m.mem) (p : Nat) :
    (m.writeBack core l).byteAt p =
      if l.pa * 64 ≤ p ∧ p < l.pa * 64 + 64 ∧ l.dirty.getLsbD (p - l.pa * 64) = true then l.data.extractLsb' (8 * (p - l.pa * 64)) 8
      else m.byteAt p := by
  unfold MemSys.writeBack
  split
  · rename_i hd
    rw [if_neg]
    rintro ⟨_, _, c⟩
    rw [hd] at c
    simp at c
  · exact look_writeBytes _ _ _ _ h p

@[simp] theorem MemSys.setCore_mem (m : MemSys) (c : Nat) (x : Core) : (m.setCore c x).mem = m.mem := rfl
@[simp] theorem MemSys.setCore_lm (m : MemSys) (c : Nat) (x : Core) : (m.setCore c x).lm = m.lm := rfl
@[simp] theorem MemSys.setCore_fe (m : MemSys) (c : Nat) (x : Core) : (m.setCore c x).fe = m.fe := rfl
@[simp] theorem MemSys.setCore_code (m : MemSys) (c : Nat) (x : Core) : (m.setCore c x).code = m.code := rfl
@[simp] theorem MemSys.setCore_tlb (m : MemSys) (c : Nat) (x : Core) : (m.setCore c x).tlb = m.tlb := rfl
@[simp] theorem MemSys.setCore_populated (m : MemSys) (c : Nat) (x : Core) : (m.setCore c x).populated = m.populated := rfl
@[simp] theorem MemSys.setCore_links (m : MemSys) (c : Nat) (x : Core) : (m.setCore c x).links = m.links := rfl
@[simp] theorem MemSys.setCore_knots (m : MemSys) (c : Nat) (x : Core) : (m.setCore c x).knots = m.knots := rfl
@[simp] theorem MemSys.setCore_memPoison (m : MemSys) (c : Nat) (x : Core) : (m.setCore c x).memPoison = m.memPoison := rfl

@[simp] theorem MemSys.core_setCore (m : MemSys) (c : Nat) (x : Core) : (m.setCore c x).core c = x := by
  simp only [MemSys.core, MemSys.setCore, look_eq, find?_put_same, Option.getD_some]

theorem MemSys.core_setCore_other (m : MemSys) (c k : Nat) (x : Core) (h : k ≠ c) : (m.setCore c x).core k = m.core k :=
  look_put_other _ _ _ _ _ h

theorem MemSys.ok_setCore {m : MemSys} (c : Nat) (x : Core) (h : m.ok = true) : (m.setCore c x).ok = true :=
  MemSys.ok_congr h rfl rfl rfl rfl

theorem ok_foldl_writeBack (core : Nat) (p : Line → Bool) (ls : List Line) {m : MemSys} (h : m.ok = true) :
    (ls.foldl (fun (m : MemSys) l => if p l then m.writeBack core l else m) m).ok = true := by
  induction ls generalizing m with
  | nil => exact h
  | cons l r ih =>
    refine ih ?_
    show (if p l then m.writeBack core l else m).ok = true
    split
    · exact MemSys.ok_writeBack core l h
    · exact h

theorem MemSys.ok_cleanLines {m : MemSys} (core : Nat) (p : Line → Bool) (h : m.ok = true) : (m.cleanLines core p).ok = true :=
  MemSys.ok_setCore _ _ (ok_foldl_writeBack core p _ h)

theorem MemSys.ok_dropLines {m : MemSys} (core : Nat) (p : Line → Bool) (h : m.ok = true) : (m.dropLines core p).ok = true :=
  MemSys.ok_setCore _ _ h

theorem MemSys.ok_flushLines {m : MemSys} (core : Nat) (p : Line → Bool) (h : m.ok = true) : (m.flushLines core p).ok = true :=
  MemSys.ok_dropLines core p (MemSys.ok_cleanLines core p h)

theorem MemSys.ok_evictLine {m : MemSys} (core pa : Nat) (h : m.ok = true) : (m.evictLine core pa).ok = true :=
  MemSys.ok_flushLines core _ h

theorem MemSys.ok_makeRoom {m : MemSys} (core : Nat) (h : m.ok = true) : (m.makeRoom core).ok = true := by
  unfold MemSys.makeRoom
  split
  · exact h
  · split
    · exact h
    · exact MemSys.ok_setCore _ _ (MemSys.ok_writeBack core _ h)

theorem MemSys.ok_fillLine {m : MemSys} (core pa asn va : Nat) (h : m.ok = true) : (m.fillLine core pa asn va).1.ok = true := by
  unfold MemSys.fillLine
  split
  · exact MemSys.ok_setCore _ _ h
  · exact MemSys.ok_setCore _ _ (MemSys.ok_makeRoom core h)

theorem MemSys.ok_l1Write {m : MemSys} (core slot pa asn va n x : Nat) (h : m.ok = true) :
    (m.l1Write core slot pa asn va n x).ok = true :=
  MemSys.ok_setCore _ _ (MemSys.ok_fillLine core pa asn va h)

/-! ### Translation -/

theorem MemSys.ok_tlbAdd {m : MemSys} (e : TlbEnt) (h : m.ok = true) : (m.tlbAdd e).ok = true := MemSys.ok_congr h rfl rfl rfl rfl

theorem MemSys.ok_cacheLeaf {m : MemSys} (u : TlbPlace) (asn va : Nat) (w : Nat × Nat × Nat) (h : m.ok = true) :
    (m.cacheLeaf u asn va w).1.ok = true := by
  have h1 : (if fld w.2.1 4 1 = 1 then m else m.homeWrite w.1 8 (if fld w.2.1 4 1 = 1 then w.2.1 else w.2.1 + 16) none).ok = true := by
    split
    · exact h
    · exact MemSys.ok_homeWrite _ _ _ _ h
  unfold MemSys.cacheLeaf
  refine MemSys.ok_tlbAdd _ ?_
  cases u.backing with
  | none => exact h1
  | some b => exact MemSys.ok_tlbAdd _ h1

theorem MemSys.ok_lookup {m : MemSys} (u : TlbPlace) (asn root va : Nat) (h : m.ok = true) : (m.lookup u asn root va).1.ok = true := by
  unfold MemSys.lookup
  split
  · exact h
  · split
    · exact MemSys.ok_tlbAdd _ h
    · split
      · exact h
      · exact h
      · exact MemSys.ok_cacheLeaf _ _ _ _ h

theorem MemSys.ok_translate {m : MemSys} (u : TlbPlace) (asn root : Nat) (atH : Bool) (k : Acc) (va : Word) (h : m.ok = true) :
    (m.translate u asn root atH k va).1.ok = true := by
  have hl := MemSys.ok_lookup u asn root va.toNat h
  unfold MemSys.translate
  split
  · exact h
  · split <;> (rename_i e; rw [e] at hl; exact hl)

theorem MemSys.ok_markWrite {m : MemSys} (x : Xlat) (va : Nat) (h : m.ok = true) : (m.markWrite x va).ok = true := by
  unfold MemSys.markWrite
  extract_lets e g leaf m1 sp ck m2 e'
  have h1 : m1.ok = true := by
    show (if e.dc then m else _).ok = true
    split
    · exact h
    · exact MemSys.ok_homeWrite _ _ _ _ h
  have key : ∀ o : Option Space, (match o with
      | none => m1
      | some s =>
        if e.marked.contains g && !ck then m1
        else
          let a := s.dmap + g / 8
          let b := m1.homeRead a 1
          m1.homeWrite a 1 (if fld b (g % 8) 1 = 1 then b else b + 2 ^ (g % 8)) none).ok = true := by
    intro o
    cases o with
    | none => exact h1
    | some s =>
      dsimp only
      by_cases hc : (e.marked.contains g && !ck) = true
      · rw [if_pos hc]; exact h1
      · rw [if_neg hc]; exact MemSys.ok_homeWrite _ _ _ _ h1
  have h2 : m2.ok = true := key sp
  exact MemSys.ok_congr h2 rfl rfl rfl rfl

theorem MemSys.ok_invalidate {m : MemSys} (asn lo hi : Nat) (h : m.ok = true) : (m.invalidate asn lo hi).ok = true :=
  MemSys.ok_congr h rfl rfl rfl rfl

theorem MemSys.ok_setLinks {m : MemSys} (tk : Nat) (ls : List Nat) (h : m.ok = true) : (m.setLinks tk ls).ok = true :=
  MemSys.ok_congr h rfl rfl rfl rfl

theorem MemSys.ok_addLink {m : MemSys} (tk line : Nat) (h : m.ok = true) : (m.addLink tk line).ok = true := by
  simp only [MemSys.addLink]
  split
  · exact h
  · exact MemSys.ok_setLinks _ _ h

/-! ### Links and acknowledgments -/

theorem MemSys.ok_breakRange {m : MemSys} (pa n : Nat) (h : m.ok = true) : (m.breakRange pa n).ok = true :=
  MemSys.ok_congr h rfl rfl rfl rfl

/-- What a slot still has linked once another party has written n bytes (R256). -/
theorem MemSys.mem_linkSet_breakRange (m : MemSys) (pa n tk l : Nat) :
    l ∈ (m.breakRange pa n).linkSet tk ↔ l ∈ m.linkSet tk ∧ ¬(pa / 64 ≤ l ∧ l < (pa + n + 63) / 64) := by
  have h : find? (m.breakRange pa n).links tk = _ :=
    find?_map (fun _ (ls : List Nat) => ls.filter (fun l => !(decide (pa / 64 ≤ l) && decide (l < (pa + n + 63) / 64)))) m.links tk
  simp only [MemSys.linkSet, look, h]
  cases find? m.links tk with
  | none => simp
  | some ls =>
    simp only [Option.map_some, List.mem_filter, Bool.not_eq_true', Bool.and_eq_false_iff, decide_eq_false_iff_not]
    exact and_congr_right fun _ => by omega

theorem MemSys.ok_dropUnacked {m : MemSys} (p : Unack → Bool) (h : m.ok = true) : (m.dropUnacked p).ok = true :=
  MemSys.ok_congr h rfl rfl rfl rfl

theorem MemSys.mem_dropUnacked (m : MemSys) (p : Unack → Bool) (u : Unack) : u ∈ (m.dropUnacked p).unacked ↔ u ∈ m.unacked ∧ p u = false := by
  simp [MemSys.dropUnacked]

theorem MemSys.ok_settleTeam {m : MemSys} (tk k : Nat) (h : m.ok = true) : (m.settleTeam tk k).ok = true :=
  MemSys.ok_congr (MemSys.ok_cleanLines _ _ h) rfl rfl rfl rfl

/-! ### What the resident OS places -/

theorem MemSys.ok_placeBytes (root : Nat) (code : Bool) (a : Nat) (bs : List Byte) {m : MemSys} (h : m.ok = true) :
    (placeBytes root code a bs m).ok = true := by
  induction bs generalizing a m with
  | nil => exact h
  | cons b r ih =>
    refine ih (a + 1) ?_
    rw [MemSys.ok_iff] at *
    refine ⟨canonical_store _ _ h.1, h.2.1, h.2.2.1, ?_⟩
    show canonical 0#8 (if code then _ else _) = true
    split
    · exact canonical_store _ _ h.2.2.2
    · exact h.2.2.2

theorem MemSys.ok_initLinks (root base stub : Nat) (o : CodeObj) (n : Nat) {m : MemSys} (h : m.ok = true) :
    (initLinks root base stub o n m).ok = true := by
  induction n with
  | zero => exact h
  | succ n ih =>
    simp only [initLinks]
    exact MemSys.ok_mem ih (canonical_storeLE _ _ _ (MemSys.ok_iff.1 ih).1) rfl rfl rfl

end Sys2Proof.Machine
end

