-- ==== Sys2Proof/Laws/PerInstr.lean ====
section
/-! SUPPORT. A statement about every instruction as syntax, one lemma per constructor. -/

namespace Sys2Proof.Laws

namespace OneKind

/-- An instruction has words of one kind alone: a syllable, a T-op's words, or a near-memory command's bytes; an event has none. -/
def Statement (i : Instr) : Prop :=
  ((encodeFields i).isSome = true → encodeTop i = none ∧ encodeNm i = none) ∧ ((encodeTop i).isSome = true → encodeNm i = none)

theorem add (d a b : Reg) : Statement (.add d a b) := ⟨fun _ => ⟨rfl, rfl⟩, fun e => nomatch e⟩
theorem sub (d a b : Reg) : Statement (.sub d a b) := ⟨fun _ => ⟨rfl, rfl⟩, fun e => nomatch e⟩
theorem and (d a b : Reg) : Statement (.and d a b) := ⟨fun _ => ⟨rfl, rfl⟩, fun e => nomatch e⟩
theorem or (d a b : Reg) : Statement (.or d a b) := ⟨fun _ => ⟨rfl, rfl⟩, fun e => nomatch e⟩
theorem xor (d a b : Reg) : Statement (.xor d a b) := ⟨fun _ => ⟨rfl, rfl⟩, fun e => nomatch e⟩
theorem sll (d a b : Reg) : Statement (.sll d a b) := ⟨fun _ => ⟨rfl, rfl⟩, fun e => nomatch e⟩
theorem srl (d a b : Reg) : Statement (.srl d a b) := ⟨fun _ => ⟨rfl, rfl⟩, fun e => nomatch e⟩
theorem sra (d a b : Reg) : Statement (.sra d a b) := ⟨fun _ => ⟨rfl, rfl⟩, fun e => nomatch e⟩
theorem slt (d a b : Reg) : Statement (.slt d a b) := ⟨fun _ => ⟨rfl, rfl⟩, fun e => nomatch e⟩
theorem sltu (d a b : Reg) : Statement (.sltu d a b) := ⟨fun _ => ⟨rfl, rfl⟩, fun e => nomatch e⟩
theorem min (d a b : Reg) : Statement (.min d a b) := ⟨fun _ => ⟨rfl, rfl⟩, fun e => nomatch e⟩
theorem max (d a b : Reg) : Statement (.max d a b) := ⟨fun _ => ⟨rfl, rfl⟩, fun e => nomatch e⟩
theorem minu (d a b : Reg) : Statement (.minu d a b) := ⟨fun _ => ⟨rfl, rfl⟩, fun e => nomatch e⟩
theorem maxu (d a b : Reg) : Statement (.maxu d a b) := ⟨fun _ => ⟨rfl, rfl⟩, fun e => nomatch e⟩
theorem clz (d a : Reg) : Statement (.clz d a) := ⟨fun _ => ⟨rfl, rfl⟩, fun e => nomatch e⟩
theorem ctz (d a : Reg) : Statement (.ctz d a) := ⟨fun _ => ⟨rfl, rfl⟩, fun e => nomatch e⟩
theorem popc (d a : Reg) : Statement (.popc d a) := ⟨fun _ => ⟨rfl, rfl⟩, fun e => nomatch e⟩
theorem sextB (d a : Reg) : Statement (.sextB d a) := ⟨fun _ => ⟨rfl, rfl⟩, fun e => nomatch e⟩
theorem sextH (d a : Reg) : Statement (.sextH d a) := ⟨fun _ => ⟨rfl, rfl⟩, fun e => nomatch e⟩
theorem sextW (d a : Reg) : Statement (.sextW d a) := ⟨fun _ => ⟨rfl, rfl⟩, fun e => nomatch e⟩
theorem zextB (d a : Reg) : Statement (.zextB d a) := ⟨fun _ => ⟨rfl, rfl⟩, fun e => nomatch e⟩
theorem zextH (d a : Reg) : Statement (.zextH d a) := ⟨fun _ => ⟨rfl, rfl⟩, fun e => nomatch e⟩
theorem zextW (d a : Reg) : Statement (.zextW d a) := ⟨fun _ => ⟨rfl, rfl⟩, fun e => nomatch e⟩
theorem andn (d a b : Reg) : Statement (.andn d a b) := ⟨fun _ => ⟨rfl, rfl⟩, fun e => nomatch e⟩
theorem orn (d a b : Reg) : Statement (.orn d a b) := ⟨fun _ => ⟨rfl, rfl⟩, fun e => nomatch e⟩
theorem rol (d a b : Reg) : Statement (.rol d a b) := ⟨fun _ => ⟨rfl, rfl⟩, fun e => nomatch e⟩
theorem ror (d a b : Reg) : Statement (.ror d a b) := ⟨fun _ => ⟨rfl, rfl⟩, fun e => nomatch e⟩
theorem mul (d a b : Reg) : Statement (.mul d a b) := ⟨fun _ => ⟨rfl, rfl⟩, fun e => nomatch e⟩
theorem mulh (d a b : Reg) : Statement (.mulh d a b) := ⟨fun _ => ⟨rfl, rfl⟩, fun e => nomatch e⟩
theorem mulhu (d a b : Reg) : Statement (.mulhu d a b) := ⟨fun _ => ⟨rfl, rfl⟩, fun e => nomatch e⟩
theorem mulhsu (d a b : Reg) : Statement (.mulhsu d a b) := ⟨fun _ => ⟨rfl, rfl⟩, fun e => nomatch e⟩
theorem div (d a b : Reg) : Statement (.div d a b) := ⟨fun _ => ⟨rfl, rfl⟩, fun e => nomatch e⟩
theorem divu (d a b : Reg) : Statement (.divu d a b) := ⟨fun _ => ⟨rfl, rfl⟩, fun e => nomatch e⟩
theorem rem (d a b : Reg) : Statement (.rem d a b) := ⟨fun _ => ⟨rfl, rfl⟩, fun e => nomatch e⟩
theorem remu (d a b : Reg) : Statement (.remu d a b) := ⟨fun _ => ⟨rfl, rfl⟩, fun e => nomatch e⟩
theorem addi (d a : Reg) (i : BitVec 13) : Statement (.addi d a i) := ⟨fun _ => ⟨rfl, rfl⟩, fun e => nomatch e⟩
theorem andi (d a : Reg) (i : BitVec 13) : Statement (.andi d a i) := ⟨fun _ => ⟨rfl, rfl⟩, fun e => nomatch e⟩
theorem ori (d a : Reg) (i : BitVec 13) : Statement (.ori d a i) := ⟨fun _ => ⟨rfl, rfl⟩, fun e => nomatch e⟩
theorem xori (d a : Reg) (i : BitVec 13) : Statement (.xori d a i) := ⟨fun _ => ⟨rfl, rfl⟩, fun e => nomatch e⟩
theorem slti (d a : Reg) (i : BitVec 13) : Statement (.slti d a i) := ⟨fun _ => ⟨rfl, rfl⟩, fun e => nomatch e⟩
theorem sltiu (d a : Reg) (i : BitVec 13) : Statement (.sltiu d a i) := ⟨fun _ => ⟨rfl, rfl⟩, fun e => nomatch e⟩
theorem slli (d a : Reg) (n : BitVec 6) : Statement (.slli d a n) := ⟨fun _ => ⟨rfl, rfl⟩, fun e => nomatch e⟩
theorem srli (d a : Reg) (n : BitVec 6) : Statement (.srli d a n) := ⟨fun _ => ⟨rfl, rfl⟩, fun e => nomatch e⟩
theorem srai (d a : Reg) (n : BitVec 6) : Statement (.srai d a n) := ⟨fun _ => ⟨rfl, rfl⟩, fun e => nomatch e⟩
theorem lhi (d : Reg) (i : BitVec 18) : Statement (.lhi d i) := ⟨fun _ => ⟨rfl, rfl⟩, fun e => nomatch e⟩
theorem lpc (d : Reg) (o : BitVec 18) : Statement (.lpc d o) := ⟨fun _ => ⟨rfl, rfl⟩, fun e => nomatch e⟩
theorem beq (a b : Reg) (o : BitVec 13) : Statement (.beq a b o) := ⟨fun _ => ⟨rfl, rfl⟩, fun e => nomatch e⟩
theorem bne (a b : Reg) (o : BitVec 13) : Statement (.bne a b o) := ⟨fun _ => ⟨rfl, rfl⟩, fun e => nomatch e⟩
theorem blt (a b : Reg) (o : BitVec 13) : Statement (.blt a b o) := ⟨fun _ => ⟨rfl, rfl⟩, fun e => nomatch e⟩
theorem bge (a b : Reg) (o : BitVec 13) : Statement (.bge a b o) := ⟨fun _ => ⟨rfl, rfl⟩, fun e => nomatch e⟩
theorem bltu (a b : Reg) (o : BitVec 13) : Statement (.bltu a b o) := ⟨fun _ => ⟨rfl, rfl⟩, fun e => nomatch e⟩
theorem bgeu (a b : Reg) (o : BitVec 13) : Statement (.bgeu a b o) := ⟨fun _ => ⟨rfl, rfl⟩, fun e => nomatch e⟩
theorem jal (d : Reg) (o : BitVec 18) : Statement (.jal d o) := ⟨fun _ => ⟨rfl, rfl⟩, fun e => nomatch e⟩
theorem jalr (d a : Reg) (i : BitVec 13) : Statement (.jalr d a i) := ⟨fun _ => ⟨rfl, rfl⟩, fun e => nomatch e⟩
theorem ld (d a : Reg) (c : BitVec 3) (z : BitVec 2) (x : Bool) (o : BitVec 7) : Statement (.ld d a c z x o) := ⟨fun _ => ⟨rfl, rfl⟩, fun e => nomatch e⟩
theorem st (d a : Reg) (c : BitVec 3) (z : BitVec 2) (o : BitVec 7) : Statement (.st d a c z o) := ⟨fun _ => ⟨rfl, rfl⟩, fun e => nomatch e⟩
theorem ldAcq (d a : Reg) (e z : BitVec 2) (x : Bool) (o : BitVec 7) : Statement (.ldAcq d a e z x o) := ⟨fun _ => ⟨rfl, rfl⟩, fun e => nomatch e⟩
theorem stRel (d a : Reg) (e z : BitVec 2) (o : BitVec 7) : Statement (.stRel d a e z o) := ⟨fun _ => ⟨rfl, rfl⟩, fun e => nomatch e⟩
theorem amoAdd (d a b : Reg) (z c : Bool) : Statement (.amoAdd d a b z c) := ⟨fun _ => ⟨rfl, rfl⟩, fun e => nomatch e⟩
theorem amoAnd (d a b : Reg) (z c : Bool) : Statement (.amoAnd d a b z c) := ⟨fun _ => ⟨rfl, rfl⟩, fun e => nomatch e⟩
theorem amoOr (d a b : Reg) (z c : Bool) : Statement (.amoOr d a b z c) := ⟨fun _ => ⟨rfl, rfl⟩, fun e => nomatch e⟩
theorem amoXor (d a b : Reg) (z c : Bool) : Statement (.amoXor d a b z c) := ⟨fun _ => ⟨rfl, rfl⟩, fun e => nomatch e⟩
theorem amoMin (d a b : Reg) (z c : Bool) : Statement (.amoMin d a b z c) := ⟨fun _ => ⟨rfl, rfl⟩, fun e => nomatch e⟩
theorem amoMax (d a b : Reg) (z c : Bool) : Statement (.amoMax d a b z c) := ⟨fun _ => ⟨rfl, rfl⟩, fun e => nomatch e⟩
theorem amoMinu (d a b : Reg) (z c : Bool) : Statement (.amoMinu d a b z c) := ⟨fun _ => ⟨rfl, rfl⟩, fun e => nomatch e⟩
theorem amoMaxu (d a b : Reg) (z c : Bool) : Statement (.amoMaxu d a b z c) := ⟨fun _ => ⟨rfl, rfl⟩, fun e => nomatch e⟩
theorem amoSwap (d a b : Reg) (z c : Bool) : Statement (.amoSwap d a b z c) := ⟨fun _ => ⟨rfl, rfl⟩, fun e => nomatch e⟩
theorem amoCas (d a b : Reg) (z c : Bool) : Statement (.amoCas d a b z c) := ⟨fun _ => ⟨rfl, rfl⟩, fun e => nomatch e⟩
theorem fence (e : BitVec 2) : Statement (.fence e) := ⟨fun _ => ⟨rfl, rfl⟩, fun e => nomatch e⟩
theorem kbind (d a b : Reg) : Statement (.kbind d a b) := ⟨fun _ => ⟨rfl, rfl⟩, fun e => nomatch e⟩
theorem kacq (a b : Reg) (e : BitVec 2) : Statement (.kacq a b e) := ⟨fun _ => ⟨rfl, rfl⟩, fun e => nomatch e⟩
theorem krel (a b : Reg) (e : BitVec 2) : Statement (.krel a b e) := ⟨fun _ => ⟨rfl, rfl⟩, fun e => nomatch e⟩
theorem ktry (d a b : Reg) (e : BitVec 2) : Statement (.ktry d a b e) := ⟨fun _ => ⟨rfl, rfl⟩, fun e => nomatch e⟩
theorem gbarWait (u : BitVec 5) : Statement (.gbarWait u) := ⟨fun _ => ⟨rfl, rfl⟩, fun e => nomatch e⟩
theorem setgl (d a : Reg) : Statement (.setgl d a) := ⟨fun _ => ⟨rfl, rfl⟩, fun e => nomatch e⟩
theorem setglH (d a b : Reg) : Statement (.setglH d a b) := ⟨fun _ => ⟨rfl, rfl⟩, fun e => nomatch e⟩
theorem stb (a : Reg) : Statement (.stb a) := ⟨fun _ => ⟨rfl, rfl⟩, fun e => nomatch e⟩
theorem stbW (a b : Reg) : Statement (.stbW a b) := ⟨fun _ => ⟨rfl, rfl⟩, fun e => nomatch e⟩
theorem ste (o : BitVec 18) : Statement (.ste o) := ⟨fun _ => ⟨rfl, rfl⟩, fun e => nomatch e⟩
theorem addgl (d a : Reg) (h : BitVec 6) : Statement (.addgl d a h) := ⟨fun _ => ⟨rfl, rfl⟩, fun e => nomatch e⟩
theorem crr (d : Reg) (n : BitVec 12) : Statement (.crr d n) := ⟨fun _ => ⟨rfl, rfl⟩, fun e => nomatch e⟩
theorem crw (a : Reg) (n : BitVec 12) : Statement (.crw a n) := ⟨fun _ => ⟨rfl, rfl⟩, fun e => nomatch e⟩
theorem crs (d a : Reg) (n : BitVec 12) : Statement (.crs d a n) := ⟨fun _ => ⟨rfl, rfl⟩, fun e => nomatch e⟩
theorem crc (d a : Reg) (n : BitVec 12) : Statement (.crc d a n) := ⟨fun _ => ⟨rfl, rfl⟩, fun e => nomatch e⟩
theorem trapSys (c : BitVec 12) : Statement (.trapSys c) := ⟨fun _ => ⟨rfl, rfl⟩, fun e => nomatch e⟩
theorem trapBrk (c : BitVec 12) : Statement (.trapBrk c) := ⟨fun _ => ⟨rfl, rfl⟩, fun e => nomatch e⟩
theorem vadd (o : VSc) : Statement (.vadd o) := ⟨fun _ => ⟨rfl, rfl⟩, fun e => nomatch e⟩
theorem vsub (o : VSc) : Statement (.vsub o) := ⟨fun _ => ⟨rfl, rfl⟩, fun e => nomatch e⟩
theorem vmul (o : VSc) : Statement (.vmul o) := ⟨fun _ => ⟨rfl, rfl⟩, fun e => nomatch e⟩
theorem vmulh (o : VSc) : Statement (.vmulh o) := ⟨fun _ => ⟨rfl, rfl⟩, fun e => nomatch e⟩
theorem vmulhU (o : VSc) : Statement (.vmulhU o) := ⟨fun _ => ⟨rfl, rfl⟩, fun e => nomatch e⟩
theorem vmin (o : VSc) : Statement (.vmin o) := ⟨fun _ => ⟨rfl, rfl⟩, fun e => nomatch e⟩
theorem vminU (o : VSc) : Statement (.vminU o) := ⟨fun _ => ⟨rfl, rfl⟩, fun e => nomatch e⟩
theorem vmax (o : VSc) : Statement (.vmax o) := ⟨fun _ => ⟨rfl, rfl⟩, fun e => nomatch e⟩
theorem vmaxU (o : VSc) : Statement (.vmaxU o) := ⟨fun _ => ⟨rfl, rfl⟩, fun e => nomatch e⟩
theorem vand (o : VSc) : Statement (.vand o) := ⟨fun _ => ⟨rfl, rfl⟩, fun e => nomatch e⟩
theorem vor (o : VSc) : Statement (.vor o) := ⟨fun _ => ⟨rfl, rfl⟩, fun e => nomatch e⟩
theorem vxor (o : VSc) : Statement (.vxor o) := ⟨fun _ => ⟨rfl, rfl⟩, fun e => nomatch e⟩
theorem vsll (o : VSc) : Statement (.vsll o) := ⟨fun _ => ⟨rfl, rfl⟩, fun e => nomatch e⟩
theorem vsrl (o : VSc) : Statement (.vsrl o) := ⟨fun _ => ⟨rfl, rfl⟩, fun e => nomatch e⟩
theorem vsra (o : VSc) : Statement (.vsra o) := ⟨fun _ => ⟨rfl, rfl⟩, fun e => nomatch e⟩
theorem vsadd (o : VSc) : Statement (.vsadd o) := ⟨fun _ => ⟨rfl, rfl⟩, fun e => nomatch e⟩
theorem vsaddU (o : VSc) : Statement (.vsaddU o) := ⟨fun _ => ⟨rfl, rfl⟩, fun e => nomatch e⟩
theorem vssub (o : VSc) : Statement (.vssub o) := ⟨fun _ => ⟨rfl, rfl⟩, fun e => nomatch e⟩
theorem vssubU (o : VSc) : Statement (.vssubU o) := ⟨fun _ => ⟨rfl, rfl⟩, fun e => nomatch e⟩
theorem vcmpuLtu (o : VSc) : Statement (.vcmpuLtu o) := ⟨fun _ => ⟨rfl, rfl⟩, fun e => nomatch e⟩
theorem vcmpuGeu (o : VSc) : Statement (.vcmpuGeu o) := ⟨fun _ => ⟨rfl, rfl⟩, fun e => nomatch e⟩
theorem vmerge (o : VSc) : Statement (.vmerge o) := ⟨fun _ => ⟨rfl, rfl⟩, fun e => nomatch e⟩
theorem vfadd (o : VSc) : Statement (.vfadd o) := ⟨fun _ => ⟨rfl, rfl⟩, fun e => nomatch e⟩
theorem vfsub (o : VSc) : Statement (.vfsub o) := ⟨fun _ => ⟨rfl, rfl⟩, fun e => nomatch e⟩
theorem vfmul (o : VSc) : Statement (.vfmul o) := ⟨fun _ => ⟨rfl, rfl⟩, fun e => nomatch e⟩
theorem vfma (o : VV) : Statement (.vfma o) := ⟨fun _ => ⟨rfl, rfl⟩, fun e => nomatch e⟩
theorem vfmaFms (o : VV) : Statement (.vfmaFms o) := ⟨fun _ => ⟨rfl, rfl⟩, fun e => nomatch e⟩
theorem vfmaFnma (o : VV) : Statement (.vfmaFnma o) := ⟨fun _ => ⟨rfl, rfl⟩, fun e => nomatch e⟩
theorem vfmaFnms (o : VV) : Statement (.vfmaFnms o) := ⟨fun _ => ⟨rfl, rfl⟩, fun e => nomatch e⟩
theorem vfdiv (o : VSc) : Statement (.vfdiv o) := ⟨fun _ => ⟨rfl, rfl⟩, fun e => nomatch e⟩
theorem vfsqrt (o : V1) : Statement (.vfsqrt o) := ⟨fun _ => ⟨rfl, rfl⟩, fun e => nomatch e⟩
theorem vfrcp (o : V1) : Statement (.vfrcp o) := ⟨fun _ => ⟨rfl, rfl⟩, fun e => nomatch e⟩
theorem vfrsq (o : V1) : Statement (.vfrsq o) := ⟨fun _ => ⟨rfl, rfl⟩, fun e => nomatch e⟩
theorem vfmin (o : VSc) : Statement (.vfmin o) := ⟨fun _ => ⟨rfl, rfl⟩, fun e => nomatch e⟩
theorem vfmax (o : VSc) : Statement (.vfmax o) := ⟨fun _ => ⟨rfl, rfl⟩, fun e => nomatch e⟩
theorem vfexp2 (o : V1) : Statement (.vfexp2 o) := ⟨fun _ => ⟨rfl, rfl⟩, fun e => nomatch e⟩
theorem vflog2 (o : V1) : Statement (.vflog2 o) := ⟨fun _ => ⟨rfl, rfl⟩, fun e => nomatch e⟩
theorem vfcvt (o : VS) : Statement (.vfcvt o) := ⟨fun _ => ⟨rfl, rfl⟩, fun e => nomatch e⟩
theorem vfclass (o : V1) : Statement (.vfclass o) := ⟨fun _ => ⟨rfl, rfl⟩, fun e => nomatch e⟩
theorem vcmpEq (o : VV) : Statement (.vcmpEq o) := ⟨fun _ => ⟨rfl, rfl⟩, fun e => nomatch e⟩
theorem vcmpNe (o : VV) : Statement (.vcmpNe o) := ⟨fun _ => ⟨rfl, rfl⟩, fun e => nomatch e⟩
theorem vcmpLt (o : VV) : Statement (.vcmpLt o) := ⟨fun _ => ⟨rfl, rfl⟩, fun e => nomatch e⟩
theorem vcmpGe (o : VV) : Statement (.vcmpGe o) := ⟨fun _ => ⟨rfl, rfl⟩, fun e => nomatch e⟩
theorem vfcmpEq (o : VV) : Statement (.vfcmpEq o) := ⟨fun _ => ⟨rfl, rfl⟩, fun e => nomatch e⟩
theorem vfcmpLt (o : VV) : Statement (.vfcmpLt o) := ⟨fun _ => ⟨rfl, rfl⟩, fun e => nomatch e⟩
theorem vfcmpLe (o : VV) : Statement (.vfcmpLe o) := ⟨fun _ => ⟨rfl, rfl⟩, fun e => nomatch e⟩
theorem vfcmpUnord (o : VV) : Statement (.vfcmpUnord o) := ⟨fun _ => ⟨rfl, rfl⟩, fun e => nomatch e⟩
theorem kand (o : VK) : Statement (.kand o) := ⟨fun _ => ⟨rfl, rfl⟩, fun e => nomatch e⟩
theorem kor (o : VK) : Statement (.kor o) := ⟨fun _ => ⟨rfl, rfl⟩, fun e => nomatch e⟩
theorem kxor (o : VK) : Statement (.kxor o) := ⟨fun _ => ⟨rfl, rfl⟩, fun e => nomatch e⟩
theorem kinv (d a : Reg) (m : BitVec 4) : Statement (.kinv d a m) := ⟨fun _ => ⟨rfl, rfl⟩, fun e => nomatch e⟩
theorem kcount (d a : Reg) : Statement (.kcount d a) := ⟨fun _ => ⟨rfl, rfl⟩, fun e => nomatch e⟩
theorem kany (d a : Reg) : Statement (.kany d a) := ⟨fun _ => ⟨rfl, rfl⟩, fun e => nomatch e⟩
theorem kfirst (d a : Reg) : Statement (.kfirst d a) := ⟨fun _ => ⟨rfl, rfl⟩, fun e => nomatch e⟩
theorem ppinit (d : Reg) : Statement (.ppinit d) := ⟨fun _ => ⟨rfl, rfl⟩, fun e => nomatch e⟩
theorem ppinitNorm (d : Reg) : Statement (.ppinitNorm d) := ⟨fun _ => ⟨rfl, rfl⟩, fun e => nomatch e⟩
theorem ppmul (o : VV) : Statement (.ppmul o) := ⟨fun _ => ⟨rfl, rfl⟩, fun e => nomatch e⟩
theorem ppmulPb (o : V1) : Statement (.ppmulPb o) := ⟨fun _ => ⟨rfl, rfl⟩, fun e => nomatch e⟩
theorem ppdiv (d a b : Reg) : Statement (.ppdiv d a b) := ⟨fun _ => ⟨rfl, rfl⟩, fun e => nomatch e⟩
theorem ppmvToVector (d a : Reg) (m : BitVec 4) : Statement (.ppmvToVector d a m) := ⟨fun _ => ⟨rfl, rfl⟩, fun e => nomatch e⟩
theorem ppmvToPoly (o : V1) : Statement (.ppmvToPoly o) := ⟨fun _ => ⟨rfl, rfl⟩, fun e => nomatch e⟩
theorem vslideUp (o : VS) : Statement (.vslideUp o) := ⟨fun _ => ⟨rfl, rfl⟩, fun e => nomatch e⟩
theorem vslideDown (o : VS) : Statement (.vslideDown o) := ⟨fun _ => ⟨rfl, rfl⟩, fun e => nomatch e⟩
theorem vgathR (o : VV) : Statement (.vgathR o) := ⟨fun _ => ⟨rfl, rfl⟩, fun e => nomatch e⟩
theorem vscatR (o : VV) : Statement (.vscatR o) := ⟨fun _ => ⟨rfl, rfl⟩, fun e => nomatch e⟩
theorem vcompress (o : V1) : Statement (.vcompress o) := ⟨fun _ => ⟨rfl, rfl⟩, fun e => nomatch e⟩
theorem vexpand (o : V1) : Statement (.vexpand o) := ⟨fun _ => ⟨rfl, rfl⟩, fun e => nomatch e⟩
theorem vbcast (d b : Reg) (m : BitVec 4) : Statement (.vbcast d b m) := ⟨fun _ => ⟨rfl, rfl⟩, fun e => nomatch e⟩
theorem vext (d a b : Reg) (x : Bool) : Statement (.vext d a b x) := ⟨fun _ => ⟨rfl, rfl⟩, fun e => nomatch e⟩
theorem vins (o : VK) : Statement (.vins o) := ⟨fun _ => ⟨rfl, rfl⟩, fun e => nomatch e⟩
theorem vid (d : Reg) (m : BitVec 4) : Statement (.vid d m) := ⟨fun _ => ⟨rfl, rfl⟩, fun e => nomatch e⟩
theorem vmv (o : V1) : Statement (.vmv o) := ⟨fun _ => ⟨rfl, rfl⟩, fun e => nomatch e⟩
theorem vredSum (o : V1) : Statement (.vredSum o) := ⟨fun _ => ⟨rfl, rfl⟩, fun e => nomatch e⟩
theorem vredFsum (o : V1) : Statement (.vredFsum o) := ⟨fun _ => ⟨rfl, rfl⟩, fun e => nomatch e⟩
theorem vredMax (o : V1) : Statement (.vredMax o) := ⟨fun _ => ⟨rfl, rfl⟩, fun e => nomatch e⟩
theorem vredMin (o : V1) : Statement (.vredMin o) := ⟨fun _ => ⟨rfl, rfl⟩, fun e => nomatch e⟩
theorem vfoldSum (o : V1) : Statement (.vfoldSum o) := ⟨fun _ => ⟨rfl, rfl⟩, fun e => nomatch e⟩
theorem vfoldFsum (o : V1) : Statement (.vfoldFsum o) := ⟨fun _ => ⟨rfl, rfl⟩, fun e => nomatch e⟩
theorem vfoldMax (o : V1) : Statement (.vfoldMax o) := ⟨fun _ => ⟨rfl, rfl⟩, fun e => nomatch e⟩
theorem vfoldMin (o : V1) : Statement (.vfoldMin o) := ⟨fun _ => ⟨rfl, rfl⟩, fun e => nomatch e⟩
theorem vscanSum (o : V1) : Statement (.vscanSum o) := ⟨fun _ => ⟨rfl, rfl⟩, fun e => nomatch e⟩
theorem vscanFsum (o : V1) : Statement (.vscanFsum o) := ⟨fun _ => ⟨rfl, rfl⟩, fun e => nomatch e⟩
theorem vscanMax (o : V1) : Statement (.vscanMax o) := ⟨fun _ => ⟨rfl, rfl⟩, fun e => nomatch e⟩
theorem vscanMin (o : V1) : Statement (.vscanMin o) := ⟨fun _ => ⟨rfl, rfl⟩, fun e => nomatch e⟩
theorem vamoAdd (o : VAm) : Statement (.vamoAdd o) := ⟨fun _ => ⟨rfl, rfl⟩, fun e => nomatch e⟩
theorem vamoMin (o : VAm) : Statement (.vamoMin o) := ⟨fun _ => ⟨rfl, rfl⟩, fun e => nomatch e⟩
theorem vamoMax (o : VAm) : Statement (.vamoMax o) := ⟨fun _ => ⟨rfl, rfl⟩, fun e => nomatch e⟩
theorem vamoSwap (o : VAm) : Statement (.vamoSwap o) := ⟨fun _ => ⟨rfl, rfl⟩, fun e => nomatch e⟩
theorem vtocb (d a : Reg) (x : Bool) : Statement (.vtocb d a x) := ⟨fun _ => ⟨rfl, rfl⟩, fun e => nomatch e⟩
theorem vrep (c : BitVec 4) (a : Reg) (t : BitVec 5) : Statement (.vrep c a t) := ⟨fun _ => ⟨rfl, rfl⟩, fun e => nomatch e⟩
theorem vld (o : VLd) : Statement (.vld o) := ⟨fun _ => ⟨rfl, rfl⟩, fun e => nomatch e⟩
theorem vst (o : VSt) : Statement (.vst o) := ⟨fun _ => ⟨rfl, rfl⟩, fun e => nomatch e⟩
theorem vldx (o : VLd) : Statement (.vldx o) := ⟨fun _ => ⟨rfl, rfl⟩, fun e => nomatch e⟩
theorem vstx (o : VSt) : Statement (.vstx o) := ⟨fun _ => ⟨rfl, rfl⟩, fun e => nomatch e⟩
theorem tensorLoad (o : VLd) : Statement (.tensorLoad o) := ⟨fun _ => ⟨rfl, rfl⟩, fun e => nomatch e⟩
theorem tensorStore (o : VSt) : Statement (.tensorStore o) := ⟨fun _ => ⟨rfl, rfl⟩, fun e => nomatch e⟩
theorem vgl (d a b : Reg) (o v : Bool) (m : BitVec 3) : Statement (.vgl d a b o v m) := ⟨fun _ => ⟨rfl, rfl⟩, fun e => nomatch e⟩
theorem vsc (d a b : Reg) (y : Bool) (m : BitVec 3) : Statement (.vsc d a b y m) := ⟨fun _ => ⟨rfl, rfl⟩, fun e => nomatch e⟩
theorem mma (o : MF) : Statement (.mma o) := ⟨fun _ => ⟨rfl, rfl⟩, fun e => nomatch e⟩
theorem mmaG (o : MF) : Statement (.mmaG o) := ⟨fun _ => ⟨rfl, rfl⟩, fun e => nomatch e⟩
theorem mzero (t : Reg) : Statement (.mzero t) := ⟨fun _ => ⟨rfl, rfl⟩, fun e => nomatch e⟩
theorem mld (t a : Reg) : Statement (.mld t a) := ⟨fun _ => ⟨rfl, rfl⟩, fun e => nomatch e⟩
theorem mst (t a : Reg) : Statement (.mst t a) := ⟨fun _ => ⟨rfl, rfl⟩, fun e => nomatch e⟩
theorem mdrainF32 (t d : Reg) (c : Bool) : Statement (.mdrainF32 t d c) := ⟨fun _ => ⟨rfl, rfl⟩, fun e => nomatch e⟩
theorem mdrainBf16 (t d : Reg) (c : Bool) : Statement (.mdrainBf16 t d c) := ⟨fun _ => ⟨rfl, rfl⟩, fun e => nomatch e⟩
theorem mdrainI8 (t d q : Reg) (c : Bool) : Statement (.mdrainI8 t d q c) := ⟨fun _ => ⟨rfl, rfl⟩, fun e => nomatch e⟩
theorem maddRow (t a : Reg) (f s : Bool) : Statement (.maddRow t a f s) := ⟨fun _ => ⟨rfl, rfl⟩, fun e => nomatch e⟩
theorem maddCol (t a : Reg) (f s : Bool) : Statement (.maddCol t a f s) := ⟨fun _ => ⟨rfl, rfl⟩, fun e => nomatch e⟩
theorem msum (t a b : Reg) (f u s : Bool) : Statement (.msum t a b f u s) := ⟨fun _ => ⟨rfl, rfl⟩, fun e => nomatch e⟩
theorem cpy (o : CF) : Statement (.cpy o) := ⟨fun _ => ⟨rfl, rfl⟩, fun e => nomatch e⟩
theorem cpyt (o : CF) : Statement (.cpyt o) := ⟨fun _ => ⟨rfl, rfl⟩, fun e => nomatch e⟩
theorem cfill (o : CF) : Statement (.cfill o) := ⟨fun _ => ⟨rfl, rfl⟩, fun e => nomatch e⟩
theorem cgath (o : CF) : Statement (.cgath o) := ⟨fun _ => ⟨rfl, rfl⟩, fun e => nomatch e⟩
theorem cnm (d a : Reg) (y e : BitVec 2) (g : BitVec 4) : Statement (.cnm d a y e g) := ⟨fun _ => ⟨rfl, rfl⟩, fun e => nomatch e⟩
theorem cnmAll (d a : Reg) (y e : BitVec 2) (g : BitVec 4) : Statement (.cnmAll d a y e g) := ⟨fun _ => ⟨rfl, rfl⟩, fun e => nomatch e⟩
theorem cwait (g : BitVec 4) : Statement (.cwait g) := ⟨fun _ => ⟨rfl, rfl⟩, fun e => nomatch e⟩
theorem cpf (a l : Reg) (e : BitVec 2) (g : BitVec 4) : Statement (.cpf a l e g) := ⟨fun _ => ⟨rfl, rfl⟩, fun e => nomatch e⟩
theorem cfence (g : BitVec 4) : Statement (.cfence g) := ⟨fun _ => ⟨rfl, rfl⟩, fun e => nomatch e⟩
theorem tli (d : TReg) (i : BitVec 44) : Statement (.tli d i) := ⟨(nomatch ·), fun _ => rfl⟩
theorem tadd (d a b : TReg) : Statement (.tadd d a b) := ⟨(nomatch ·), fun _ => rfl⟩
theorem taddi (d a : TReg) (i : BitVec 44) : Statement (.taddi d a i) := ⟨(nomatch ·), fun _ => rfl⟩
theorem tsub (d a b : TReg) : Statement (.tsub d a b) := ⟨(nomatch ·), fun _ => rfl⟩
theorem tmul (d a b : TReg) : Statement (.tmul d a b) := ⟨(nomatch ·), fun _ => rfl⟩
theorem tand (d a b : TReg) : Statement (.tand d a b) := ⟨(nomatch ·), fun _ => rfl⟩
theorem tor (d a b : TReg) : Statement (.tor d a b) := ⟨(nomatch ·), fun _ => rfl⟩
theorem tshl (d a b : TReg) : Statement (.tshl d a b) := ⟨(nomatch ·), fun _ => rfl⟩
theorem tshr (d a b : TReg) : Statement (.tshr d a b) := ⟨(nomatch ·), fun _ => rfl⟩
theorem tld (d a : TReg) (o : BitVec 44) : Statement (.tld d a o) := ⟨(nomatch ·), fun _ => rfl⟩
theorem tst (a b : TReg) (o : BitVec 44) : Statement (.tst a b o) := ⟨(nomatch ·), fun _ => rfl⟩
theorem tbeq (a b : TReg) (o : BitVec 44) : Statement (.tbeq a b o) := ⟨(nomatch ·), fun _ => rfl⟩
theorem tbne (a b : TReg) (o : BitVec 44) : Statement (.tbne a b o) := ⟨(nomatch ·), fun _ => rfl⟩
theorem tblt (a b : TReg) (o : BitVec 44) : Statement (.tblt a b o) := ⟨(nomatch ·), fun _ => rfl⟩
theorem tbge (a b : TReg) (o : BitVec 44) : Statement (.tbge a b o) := ⟨(nomatch ·), fun _ => rfl⟩
theorem tj (o : BitVec 44) : Statement (.tj o) := ⟨(nomatch ·), fun _ => rfl⟩
theorem tjal (d : TReg) (o : BitVec 44) : Statement (.tjal d o) := ⟨(nomatch ·), fun _ => rfl⟩
theorem tjr (a : TReg) : Statement (.tjr a) := ⟨(nomatch ·), fun _ => rfl⟩
theorem tbuf (lb : BitVec 8) (s : BitVec 6) (f : BitVec 5) (pl : BitVec 2) : Statement (.tbuf lb s f pl) := ⟨(nomatch ·), fun _ => rfl⟩
theorem tbind (lb : BitVec 8) (a : TReg) : Statement (.tbind lb a) := ⟨(nomatch ·), fun _ => rfl⟩
theorem tfree (lb : BitVec 8) : Statement (.tfree lb) := ⟨(nomatch ·), fun _ => rfl⟩
theorem tlaunch (h : LaunchHdr) (ops : List LaunchOp) : Statement (.tlaunch h ops) := ⟨(nomatch ·), fun _ => rfl⟩
theorem tcopy (dst src : BitVec 8) : Statement (.tcopy dst src) := ⟨(nomatch ·), fun _ => rfl⟩
theorem tnm (a : TReg) : Statement (.tnm a) := ⟨(nomatch ·), fun _ => rfl⟩
theorem tnmAll (a : TReg) : Statement (.tnmAll a) := ⟨(nomatch ·), fun _ => rfl⟩
theorem tread (d : TReg) (lb : BitVec 8) (off : BitVec 36) : Statement (.tread d lb off) := ⟨(nomatch ·), fun _ => rfl⟩
theorem tsig (a b : TReg) : Statement (.tsig a b) := ⟨(nomatch ·), fun _ => rfl⟩
theorem twait (a b : TReg) : Statement (.twait a b) := ⟨(nomatch ·), fun _ => rfl⟩
theorem tsys (c : BitVec 16) : Statement (.tsys c) := ⟨(nomatch ·), fun _ => rfl⟩
theorem nmFill (c : NmCmd) : Statement (.nmFill c) := ⟨(nomatch ·), (nomatch ·)⟩
theorem nmCopy (c : NmCmd) : Statement (.nmCopy c) := ⟨(nomatch ·), (nomatch ·)⟩
theorem nmScale (c : NmCmd) : Statement (.nmScale c) := ⟨(nomatch ·), (nomatch ·)⟩
theorem nmAxpy (c : NmCmd) : Statement (.nmAxpy c) := ⟨(nomatch ·), (nomatch ·)⟩
theorem nmSgdwd (c : NmCmd) : Statement (.nmSgdwd c) := ⟨(nomatch ·), (nomatch ·)⟩
theorem nmMomentum (c : NmCmd) : Statement (.nmMomentum c) := ⟨(nomatch ·), (nomatch ·)⟩
theorem nmAdamw (c : NmCmd) : Statement (.nmAdamw c) := ⟨(nomatch ·), (nomatch ·)⟩
theorem nmSumsq (c : NmCmd) : Statement (.nmSumsq c) := ⟨(nomatch ·), (nomatch ·)⟩
theorem nmCast (c : NmCmd) : Statement (.nmCast c) := ⟨(nomatch ·), (nomatch ·)⟩
theorem gbarArr : Statement .gbarArr := ⟨fun _ => ⟨rfl, rfl⟩, fun e => nomatch e⟩
theorem tret : Statement .tret := ⟨fun _ => ⟨rfl, rfl⟩, fun e => nomatch e⟩
theorem texit : Statement .texit := ⟨fun _ => ⟨rfl, rfl⟩, fun e => nomatch e⟩
theorem wfe : Statement .wfe := ⟨fun _ => ⟨rfl, rfl⟩, fun e => nomatch e⟩
theorem nop : Statement .nop := ⟨fun _ => ⟨rfl, rfl⟩, fun e => nomatch e⟩
theorem mwait : Statement .mwait := ⟨fun _ => ⟨rfl, rfl⟩, fun e => nomatch e⟩
theorem tfence : Statement .tfence := ⟨(nomatch ·), fun _ => rfl⟩
theorem thalt : Statement .thalt := ⟨(nomatch ·), fun _ => rfl⟩
theorem cnmComplete (j : Nat) : Statement (.cnmComplete j) := ⟨(nomatch ·), (nomatch ·)⟩
theorem nmuRun (j stack : Nat) : Statement (.nmuRun j stack) := ⟨(nomatch ·), (nomatch ·)⟩
theorem acquirePhase (e : EngineRef) : Statement (.acquirePhase e) := ⟨(nomatch ·), (nomatch ·)⟩
theorem copyUnit (e : EngineRef) : Statement (.copyUnit e) := ⟨(nomatch ·), (nomatch ·)⟩
theorem viqIssue (tk n : Nat) : Statement (.viqIssue tk n) := ⟨(nomatch ·), (nomatch ·)⟩
theorem matrixStep (tk : Nat) : Statement (.matrixStep tk) := ⟨(nomatch ·), (nomatch ·)⟩
theorem ueReplay (tk el : Nat) (mirror : Bool) : Statement (.ueReplay tk el mirror) := ⟨(nomatch ·), (nomatch ·)⟩
theorem scalarResultReady (tk i : Nat) : Statement (.scalarResultReady tk i) := ⟨(nomatch ·), (nomatch ·)⟩
theorem heldBundleRelease (tk : Nat) : Statement (.heldBundleRelease tk) := ⟨(nomatch ·), (nomatch ·)⟩
theorem knotReleasePerformed (tk : Nat) : Statement (.knotReleasePerformed tk) := ⟨(nomatch ·), (nomatch ·)⟩
theorem wfeTimeout (tk : Nat) : Statement (.wfeTimeout tk) := ⟨(nomatch ·), (nomatch ·)⟩
theorem landingSlotLand (tk : Nat) : Statement (.landingSlotLand tk) := ⟨(nomatch ·), (nomatch ·)⟩
theorem escalateTrap (tk : Nat) : Statement (.escalateTrap tk) := ⟨(nomatch ·), (nomatch ·)⟩
theorem instructionFill (cluster line : Nat) : Statement (.instructionFill cluster line) := ⟨(nomatch ·), (nomatch ·)⟩
theorem l1Eviction (core line : Nat) : Statement (.l1Eviction core line) := ⟨(nomatch ·), (nomatch ·)⟩
theorem preemptionRequest (req : PreemptReq) : Statement (.preemptionRequest req) := ⟨(nomatch ·), (nomatch ·)⟩
theorem contextSave (tk : Nat) : Statement (.contextSave tk) := ⟨(nomatch ·), (nomatch ·)⟩
theorem gangResume (k id gidx : Nat) (places : List Placement) : Statement (.gangResume k id gidx places) := ⟨(nomatch ·), (nomatch ·)⟩
theorem gangBind (k id gidx : Nat) (places : List Placement) : Statement (.gangBind k id gidx places) := ⟨(nomatch ·), (nomatch ·)⟩
theorem gangArm (cluster : Nat) (mask : BitVec 16) : Statement (.gangArm cluster mask) := ⟨(nomatch ·), (nomatch ·)⟩
theorem teamStart (k id gidx : Nat) : Statement (.teamStart k id gidx) := ⟨(nomatch ·), (nomatch ·)⟩
theorem startPhaseTableWrite (cluster v : Nat) : Statement (.startPhaseTableWrite cluster v) := ⟨(nomatch ·), (nomatch ·)⟩
theorem taskIssue (k id : Nat) : Statement (.taskIssue k id) := ⟨(nomatch ·), (nomatch ·)⟩
theorem taskComplete (k id : Nat) : Statement (.taskComplete k id) := ⟨(nomatch ·), (nomatch ·)⟩
theorem entryRetire (k : Nat) : Statement (.entryRetire k) := ⟨(nomatch ·), (nomatch ·)⟩
theorem twaitComplete (k id : Nat) : Statement (.twaitComplete k id) := ⟨(nomatch ·), (nomatch ·)⟩
theorem taskFaultTaken (k : Nat) : Statement (.taskFaultTaken k) := ⟨(nomatch ·), (nomatch ·)⟩
theorem streamRestart (k : Nat) (restart : Bool) (back : Option Backing) : Statement (.streamRestart k restart back) := ⟨(nomatch ·), (nomatch ·)⟩
theorem streamEnd (k : Nat) : Statement (.streamEnd k) := ⟨(nomatch ·), (nomatch ·)⟩
theorem kick (k : Nat) (v : Word) : Statement (.kick k v) := ⟨(nomatch ·), (nomatch ·)⟩
theorem seqtagRetry (k : Nat) : Statement (.seqtagRetry k) := ⟨(nomatch ·), (nomatch ·)⟩
theorem qctlEn (k : Nat) (en : Bool) : Statement (.qctlEn k en) := ⟨(nomatch ·), (nomatch ·)⟩
theorem abort (k : Nat) : Statement (.abort k) := ⟨(nomatch ·), (nomatch ·)⟩
theorem leaseRequest (k : Nat) (v : Word) : Statement (.leaseRequest k v) := ⟨(nomatch ·), (nomatch ·)⟩
theorem registerWrite (k off : Nat) (v : Word) : Statement (.registerWrite k off v) := ⟨(nomatch ·), (nomatch ·)⟩
theorem loadApplication (k : Nat) (image : Option AppImage) (plan : Option MapPlan) : Statement (.loadApplication k image plan) := ⟨(nomatch ·), (nomatch ·)⟩
theorem resolve (c : Caller) : Statement (.resolve c) := ⟨(nomatch ·), (nomatch ·)⟩
theorem launch (c : Caller) : Statement (.launch c) := ⟨(nomatch ·), (nomatch ·)⟩
theorem capscript (c : Caller) : Statement (.capscript c) := ⟨(nomatch ·), (nomatch ·)⟩
theorem tlbInvalidate (asn lo hi : Nat) : Statement (.tlbInvalidate asn lo hi) := ⟨(nomatch ·), (nomatch ·)⟩
theorem translateObject (part base : Nat) (t : Translation) : Statement (.translateObject part base t) := ⟨(nomatch ·), (nomatch ·)⟩
theorem translationSwap (part base : Nat) (toTrans : Bool) : Statement (.translationSwap part base toTrans) := ⟨(nomatch ·), (nomatch ·)⟩
theorem partitionChange (req : Request (List PartReq)) : Statement (.partitionChange req) := ⟨(nomatch ·), (nomatch ·)⟩
theorem fuseAdvance (n : Request Nat) : Statement (.fuseAdvance n) := ⟨(nomatch ·), (nomatch ·)⟩
theorem keyEnroll (part : Nat) (key : Request PubKey) : Statement (.keyEnroll part key) := ⟨(nomatch ·), (nomatch ·)⟩
theorem checkpointRound (asn target : Nat) : Statement (.checkpointRound asn target) := ⟨(nomatch ·), (nomatch ·)⟩
theorem deviceRemoval (port : Nat) : Statement (.deviceRemoval port) := ⟨(nomatch ·), (nomatch ·)⟩
theorem powerEpoch : Statement .powerEpoch := ⟨(nomatch ·), (nomatch ·)⟩
theorem leaseExpiry (k : Nat) : Statement (.leaseExpiry k) := ⟨(nomatch ·), (nomatch ·)⟩
theorem overCurrentEvent (pair : Option Nat) : Statement (.overCurrentEvent pair) := ⟨(nomatch ·), (nomatch ·)⟩
theorem nextContextKill (pair : Option Nat) : Statement (.nextContextKill pair) := ⟨(nomatch ·), (nomatch ·)⟩
theorem thermalSample (cluster : Nat) (reading : Int) : Statement (.thermalSample cluster reading) := ⟨(nomatch ·), (nomatch ·)⟩
theorem wearSample (core bias migration : Nat) (act : List Nat) : Statement (.wearSample core bias migration act) := ⟨(nomatch ·), (nomatch ·)⟩
theorem wearRecordWrite : Statement .wearRecordWrite := ⟨(nomatch ·), (nomatch ·)⟩
theorem watchdogExpiry (k : Nat) : Statement (.watchdogExpiry k) := ⟨(nomatch ·), (nomatch ·)⟩
theorem drainKillTimeout (part : Nat) : Statement (.drainKillTimeout part) := ⟨(nomatch ·), (nomatch ·)⟩
theorem eccCorrectableError (site : EccSite) : Statement (.eccCorrectableError site) := ⟨(nomatch ·), (nomatch ·)⟩
theorem eccUncorrectableError (site : EccSite) : Statement (.eccUncorrectableError site) := ⟨(nomatch ·), (nomatch ·)⟩
theorem patrolScrub : Statement .patrolScrub := ⟨(nomatch ·), (nomatch ·)⟩
theorem sramScrub : Statement .sramScrub := ⟨(nomatch ·), (nomatch ·)⟩
theorem hbmCalibration : Statement .hbmCalibration := ⟨(nomatch ·), (nomatch ·)⟩
theorem linkCalibration : Statement .linkCalibration := ⟨(nomatch ·), (nomatch ·)⟩
theorem hostHdmAccess (x : HostAccess) : Statement (.hostHdmAccess x) := ⟨(nomatch ·), (nomatch ·)⟩
theorem flitReplay (link : Nat) : Statement (.flitReplay link) := ⟨(nomatch ·), (nomatch ·)⟩
theorem linkDown (link : Nat) : Statement (.linkDown link) := ⟨(nomatch ·), (nomatch ·)⟩
theorem linkCreditTimeout (link : Nat) : Statement (.linkCreditTimeout link) := ⟨(nomatch ·), (nomatch ·)⟩
theorem linkRetrain (link : Nat) : Statement (.linkRetrain link) := ⟨(nomatch ·), (nomatch ·)⟩
theorem boot (r : BootReport) : Statement (.boot r) := ⟨(nomatch ·), (nomatch ·)⟩
theorem freeze : Statement .freeze := ⟨(nomatch ·), (nomatch ·)⟩
theorem freezeResume (tooLong : Bool) : Statement (.freezeResume tooLong) := ⟨(nomatch ·), (nomatch ·)⟩
theorem moduleReset : Statement .moduleReset := ⟨(nomatch ·), (nomatch ·)⟩
theorem powerLoss : Statement .powerLoss := ⟨(nomatch ·), (nomatch ·)⟩
theorem orderlyShutdown : Statement .orderlyShutdown := ⟨(nomatch ·), (nomatch ·)⟩
theorem checkpointControl (asn : Nat) (en : Request Bool) : Statement (.checkpointControl asn en) := ⟨(nomatch ·), (nomatch ·)⟩
theorem applicationUnload (part : Nat) (handle : Request Word) : Statement (.applicationUnload part handle) := ⟨(nomatch ·), (nomatch ·)⟩
theorem powerPolicyChange (part : Nat) (shares : Request (List (Nat × Nat))) : Statement (.powerPolicyChange part shares) := ⟨(nomatch ·), (nomatch ·)⟩
theorem debuggerRequest (tk : Nat) (req : DebugReq) : Statement (.debuggerRequest tk req) := ⟨(nomatch ·), (nomatch ·)⟩
theorem peerAccess (link : Nat) (x : BusAccess) : Statement (.peerAccess link x) := ⟨(nomatch ·), (nomatch ·)⟩

end OneKind

end Sys2Proof.Laws
end

