-- ==== Sys2Proof/Laws/Streams.lean ====
section
/-! SUPPORT. What the shared operations of T-ops do: register writes, window entries, stalls, faults (R96, R329, R338, R355). -/

namespace Sys2Proof.Machine

theorem cs_setCs (s : State) (x : Stream) : (s.setCs x).cs = x := State.stream_setStream s s.cur.k x

theorem stream_setCs_other (s : State) (x : Stream) {j : Nat} (h : j ≠ s.cur.k) : (s.setCs x).stream j = s.stream j :=
  State.stream_setStream_other s s.cur.k j x h

theorem onlyStream_setCs (s : State) (x : Stream) : OnlyStream s.cur.k s (s.setCs x) where
  rest := rfl
  others := fun k h => State.stream_setStream_other s s.cur.k k x h

theorem streamReg_setReg (x : Stream) (r r' : TReg) (v : Word) (h : rising x.t = true) :
    (x.setReg r v).reg r' = if r' = 0#4 then 0#64 else if r' = r then v else x.reg r' := by
  unfold Stream.setReg Stream.reg
  by_cases h0 : r' = 0#4
  · simp [h0]
  · by_cases hr : r = 0#4
    · subst hr; simp [h0]
    · simp only [if_neg h0, if_neg hr]
      rw [look_store _ _ _ h]
      by_cases e : r' = r
      · subst e; simp
      · rw [if_neg (fun hn => e (BitVec.eq_of_toNat_eq hn)), if_neg e]

/-- Everything `setTreg` can do. -/
theorem setsT_setTreg {s : State} {d : TReg} {v : Word} (h : s.streamFine) : SetsT s d v (s.setTreg d v) := by
  have hb : rising s.cs.t = true := by
    have : bankOk s.cs.t = true := h
    simp only [bankOk, Bool.and_eq_true] at this
    exact canonical_rising this.1
  have hc : (s.setTreg d v).cs = s.cs.setReg d v := cs_setCs s _
  refine ⟨onlyStream_setCs s _, ?_, fun r hr => ?_, fun hd => ?_, fun hd => ?_⟩
  · rw [hc]; unfold Stream.setReg; split <;> rfl
  · rw [hc, streamReg_setReg _ _ _ _ hb]
    by_cases h0 : r = 0#4
    · subst h0; rfl
    · rw [if_neg h0, if_neg hr]
  · rw [hc, streamReg_setReg _ _ _ _ hb]; simp [hd]
  · rw [hc]; simp [Stream.setReg, hd]

/-- An instruction whose meaning is a register write gives its value. -/
theorem givesT_of {i : Instr} {s : State} {d : TReg} {v w : Word} (h : s.streamFine) (e : exec i s = .next (s.setTreg d v))
    (hv : v = w) : GivesT i s s d w := ⟨_, e, hv ▸ setsT_setTreg h⟩

/-- A full window stalls decode. -/
theorem stallsT_of {i : Instr} {s : State} (e : exec i s = .next s.stallFull) : StallsT i s :=
  ⟨_, e, ⟨rfl, fun j hj => State.stream_setStream_other s s.cur.k j _ hj⟩, State.stream_setStream s s.cur.k _⟩

/-- Everything `pushDone` can do with room in the window. -/
theorem putsEntry_pushDone {s : State} (op : EntryOp) (old : Option Nat) (m : List (Nat × LBuf)) (h : s.cs.full = false) :
    PutsEntry s { entryFor s op .complete with oldDesc := old } m (s.pushDone op old m) := by
  unfold State.pushDone
  rw [if_neg (by simp [h])]
  refine ⟨⟨rfl, fun j hj => ?_⟩, ?_⟩
  · exact (stream_setCs_other (s.addEntry _) _ hj).trans (stream_setCs_other s _ hj)
  · rw [cs_setCs, State.addEntry, cs_setCs]; rfl

/-- Everything `faultTop` can do with room in the window, for a T-op that takes no sequence number. -/
theorem faultsT_faultTop {s : State} (r : Reason) (cause : Nat) (v : Word) (h : s.cs.full = false) :
    FaultsT s r cause v (s.faultTop r cause v false []) := by
  unfold State.faultTop
  rw [if_neg (by simp [h])]
  refine ⟨⟨rfl, fun j hj => ?_⟩, ?_⟩
  · exact (stream_setCs_other (s.addEntry _) _ hj).trans (stream_setCs_other s _ hj)
  · show (State.setCs _ _).cs = _
    rw [cs_setCs, State.addEntry, cs_setCs]
    rfl

end Sys2Proof.Machine
end

