-- ==== Sys2Proof/Laws/Traps.lean ====
section
/-! SUPPORT. Small lemmas of taking a trap and of the control registers (R125, R126, R152 to R158). -/

namespace Sys2Proof.Machine

/-! ### Taking a trap -/

theorem State.team_bundleTrap (s : State) (tk : Nat) (i : TrapInfo) (cls : Class) (tpc : Word) :
    (s.bundleTrap tk i cls tpc).team tk = (s.team tk).bundleTrap i cls tpc := State.team_setTeam s tk _

theorem State.team_bundleTrap_other (s : State) (tk k : Nat) (i : TrapInfo) (cls : Class) (tpc : Word) (h : k ≠ tk) :
    (s.bundleTrap tk i cls tpc).team k = s.team k := State.team_setTeam_other s tk k _ h

theorem Team.bundleTrap_atA {t : Team} (i : TrapInfo) (cls : Class) (tpc : Word) (h : t.level = .a) :
    t.bundleTrap i cls tpc = t.takeTrap i cls none tpc := by simp [Team.bundleTrap, h]

theorem Team.bundleTrap_atH {t : Team} (i : TrapInfo) (cls : Class) (tpc : Word) (h : t.level = .h) :
    t.bundleTrap i cls tpc = t.escalate i cls none := by simp [Team.bundleTrap, h]

@[simp] theorem Team.takeTrap_level (t : Team) (i : TrapInfo) (cls : Class) (q : Option QEntry) (tpc : Word) :
    (t.takeTrap i cls q tpc).level = .h := rfl

@[simp] theorem Team.takeTrap_q (t : Team) (i : TrapInfo) (cls : Class) (q : Option QEntry) (tpc : Word) :
    (t.takeTrap i cls q tpc).q = Queues.empty := rfl

@[simp] theorem Team.takeTrap_flights (t : Team) (i : TrapInfo) (cls : Class) (q : Option QEntry) (tpc : Word) :
    (t.takeTrap i cls q tpc).flights = [] := rfl

@[simp] theorem Team.takeTrap_tpc (t : Team) (i : TrapInfo) (cls : Class) (q : Option QEntry) (tpc : Word) :
    (t.takeTrap i cls q tpc).ctl.tpc = tpc &&& maskPc := rfl

@[simp] theorem Team.takeTrap_tval (t : Team) (i : TrapInfo) (cls : Class) (q : Option QEntry) (tpc : Word) :
    (t.takeTrap i cls q tpc).ctl.tval = i.tval := rfl

@[simp] theorem Team.escalate_regs (t : Team) (i : TrapInfo) (cls : Class) (q : Option QEntry) : (t.escalate i cls q).regs = t.regs := rfl
@[simp] theorem Team.escalate_hregs (t : Team) (i : TrapInfo) (cls : Class) (q : Option QEntry) : (t.escalate i cls q).hregs = t.hregs := rfl
@[simp] theorem Team.escalate_ctl (t : Team) (i : TrapInfo) (cls : Class) (q : Option QEntry) : (t.escalate i cls q).ctl = t.ctl := rfl
@[simp] theorem Team.escalate_level (t : Team) (i : TrapInfo) (cls : Class) (q : Option QEntry) : (t.escalate i cls q).level = t.level := rfl

theorem canonical_handlerBank (t : Team) (cause : Nat) (v : Word) : canonical 0#64 (handlerBank t cause v) = true := by
  unfold handlerBank
  refine canonical_store _ _ (canonical_store _ _ (canonical_store _ _ ?_))
  generalize List.range 8 = l
  suffices h : ∀ b : List (Nat × Word), canonical 0#64 b = true →
      canonical 0#64 (l.foldl (fun b i => store 0#64 b (i + 1) (look 0#64 t.regs (i + 1))) b) = true from h [] rfl
  intro b hb
  induction l generalizing b with
  | nil => exact hb
  | cons x r ih => exact ih _ (canonical_store _ _ hb)

/-- With no layer kept, the queue image alone comes back (R163). -/
theorem Team.reinstate_nil {t : Team} (q : Queues) (h : t.under = []) : t.reinstate q = { t with q := q.again, image := none } := by
  simp [Team.reinstate, h]

/-- The queues that hold entries again take the later virtual time; nothing else of the team changes (R214). -/
theorem Team.rejoin_frame (t other : Team) :
    t.rejoin other = { t with vt := (t.rejoin other).vt, mvt := (t.rejoin other).mvt, cvt0 := (t.rejoin other).cvt0, cvt1 := (t.rejoin other).cvt1 } := rfl

/-! ### Control registers -/

/-- A number that faults traps with the syllable's word. -/
theorem State.onCr_fault {s : State} {n : BitVec 12} {f : Word → State} {c : Cause} (h : crFault s n.toNat = some c) :
    s.onCr n f = s.trapS c (s.cur.word.setWidth 64) := by simp [State.onCr, h]

/-- A polynomial field waits while a polynomial syllable is to complete. -/
theorem State.onCr_hold {s : State} {n : BitVec 12} {f : Word → State} (h : crFault s n.toNat = none) (hp : isPolyCr n.toNat = true)
    (hb : s.curTeam.polyBusy = true) : s.onCr n f = s.hold := by simp [State.onCr, h, hp, hb]

/-- Any other access takes the register's value. -/
theorem State.onCr_ok {s : State} {n : BitVec 12} {f : Word → State} {v : Word} (h : crFault s n.toNat = none)
    (hp : (isPolyCr n.toNat && s.curTeam.polyBusy) = false) (hv : readCr s s.cur.tk n.toNat = some v) : s.onCr n f = f v := by
  simp [State.onCr, h, hp, hv]

end Sys2Proof.Machine
end

