-- ==== Sys2Proof/Tests/Slice0.lean ====
section
/-! SUPPORT. Tests of the model on small states, each about one operation or one step, and the states that meet the hypotheses of
the statements (test_wit_…). Expected values are worked out from the rules cited. -/

namespace Sys2Proof.Tests

open Sys2Proof Sys2Proof.Machine

set_option maxRecDepth 4000
set_option Elab.async false

/-! ### Small states -/

/-- A writable 64 KiB page at 0x10000 of space 1 in core 0's data TLB, its D bit carried and its granule marked (R175, R179). -/
def page : TlbEnt :=
  { place := .data 0, asn := 1, va := 0x10000, size := 65536, leafAt := 0x20000, leaf := 0x10035, dc := true, marked := [1] }

/-- A read-only page at 0x20000 (R175). -/
def roPage : TlbEnt := { page with va := 0x20000, leaf := 0x20031 }

/-- A page of a host's region at 0x30000 (R173). -/
def farPage : TlbEnt := { page with va := 0x30000, leaf := 2 * 2 ^ 44 + 0x35 }

/-- An executable page at 0x40000 (R175). -/
def codePage : TlbEnt := { page with place := .inst 0, va := 0x40000, leaf := 0x40039 }

/-- The first page as the hub die's TLB holds it, for streams and near-memory units (R180). -/
def hubPage : TlbEnt := { page with place := .hub }

/-- A page of stored format e4m3 at 0x60000, in blocks of 32 elements (R119, R120). -/
def blkPage : TlbEnt := { page with va := 0x60000, leaf := 0x62B35, marked := [6] }

def space1 : Space := { asn := 1, root := 0x80000, dmap := 0x100000, part := 0, ckpt := false }

def mem0 : MemSys :=
  { MemSys.reset with
    tlb := [page, roPage, farPage, codePage, hubPage, { roPage with place := .hub }, blkPage, { blkPage with place := .hub },
      { page with place := .cluster 0 }], spaces := [space1]
    populated := [hbmRegion, { base := 2 * 2 ^ 44, size := 2 ^ 30 }] }

def bind0 : BindRec :=
  { BindRec.reset with v := true, arm := true, asn := 1, root := 0x80000, tvec := 0x5000, hdata := 7, lmu := 1 }

/-- The registers of the team under test: s1 an address in the page, s2 a small number, s3 a misaligned address, s4 the most
negative number, s5 all ones, s6 an address of local memory, s7 a knot, s8 of the far page, s9 of the read-only page. -/
def regs0 : List (Nat × Word) :=
  [(1, 0x10040), (2, 5), (3, 0x10041), (4, 0x8000000000000000), (5, 0xFFFFFFFFFFFFFFFF), (6, 0x20), (7, 0x10080), (8, 0x30000),
   (9, 0x20000), (10, 0x100)]

def team0 : Team := { Team.reset with status := .running, bind := bind0, regs := regs0, cap32 := 256, pc := 0x40000 }

/-- The team at H-level, the same values in its other bank. -/
def teamH : Team := { team0 with level := .h, hregs := regs0, image := some Queues.empty }

def part0 : Partition := { Partition.reset with pairs := [0], slots := [0, 1], asn := 1, root := 0x80000, wdper := 100 }

def cur0 : Cur := { Cur.reset with regs := regs0, addr := 0x40000, word := 1, link := 0x40004, npc := 0x40004 }

/-- A module that runs the team given in slot 0. -/
def with0 (t : Team) : State :=
  { State.reset with power := .ready, ms := mem0, teams := [(0, t)], parts := [(0, part0)], cur := cur0 }

theorem ok_eq {α β ε : Type} {r : α × Except ε β} {a : α} {b : β} (h : r.1 = a) (g : r.2.toOption = some b) : r = (a, .ok b) := by
  obtain ⟨x, y⟩ := r
  cases y with
  | error e => cases g
  | ok v =>
    cases h
    cases g
    rfl

def sA : State := with0 team0
def sH : State := with0 teamH

/-! ### Scalar arithmetic, traps, waits (R132 to R165) -/

theorem test_wit_bank : sA.bankFine ∧ sH.bankFine := by
  unfold State.bankFine
  decide

theorem test_wit_MulGroup_borders : sA.bankFine ∧ sA.rd 0#5 = 0#64 ∧ sA.rd 4#5 = BitVec.intMin 64 ∧ sA.rd 5#5 = BitVec.ofInt 64 (-1) := by
  unfold State.bankFine
  decide

theorem test_wit_AluGroup_unary : ∀ f ∈ [{ cls := 0#2, op := 0#6, d := 1#5, a := 2#5, b := 1#5, lo := 14#8 : Fields },
      { cls := 0#2, op := 0#6, d := 1#5, a := 2#5, b := 31#5, lo := 22#8 }],
    f.cls = 0#2 ∧ f.op = 0#6 ∧ 14 ≤ f.lo.toNat ∧ f.lo.toNat ≤ 22 ∧ f.b ≠ 0#5 := by
  decide

theorem test_wit_TrapEntry : (sA.team 0).level = .a := by decide

/-- Results in flight, at both ends of their counts. -/
def flying : Team :=
  { team0 with flights := [{ reg := 1, val := 9, load := none, left := 1 }, { reg := 2, val := 8, load := none, left := 11 },
                           { reg := 1, val := 7, load := none, left := 2 }, { reg := 31, val := 6, load := none, left := 3 }] }

theorem test_wit_LandingRoundTrip : flying.flights.length ≤ 4 ∧ ∀ f ∈ flying.flights, f.load = none ∧ 1 ≤ f.left ∧ f.left ≤ 11 := by
  decide

theorem test_wit_TrapSyllables : sA.curTeam.level = .a ∧ sH.curTeam.level = .h ∧ sH.bankFine ∧
    1 ≤ (1#12).toNat ∧ (3#12).toNat ≤ 3 ∧ (0#12).toNat = 0 ∧ 3 < (4#12).toNat := by
  unfold State.bankFine
  decide

def raising (t : Team) : State :=
  { with0 t with cur := { cur0 with raise := some { cause := .syscall, tval := 5 } } }

theorem test_wit_TrapSyllables_commit : ∀ t ∈ [team0, teamH],
    (raising t).cur.raise = some { cause := .syscall, tval := 5 } ∧ (raising t).cur.cuts = [] ∧ (raising t).cur.ret = false ∧
      ∀ e ∈ (raising t).curTeam.q.all, e.fault = none := by
  decide

/-- A `vadd` in the VIQ, a `mzero` in the matrix queue, a `cfence` in a copy queue. -/
def vadd0 : VSc := { d := 1, a := 2, b := 3, x := false, y := false, m := 0, s := false }
def entryV : QEntry := { captures sA (.v (.int .add vadd0)) 0 0 0 with gl := 4 }
def fence0 : COp := { kind := .cfence, d := 0, a := 0, sync := 0, scope := 0, tag := 3 }
def entryC : QEntry := captures sA (.c fence0) 0 0 0
def entryM : QEntry := captures sA (.m .zero) 0 0 0
def queued : Queues := { Queues.empty with viq := [entryV], mq := [entryM], cq0 := [entryC] }

/-- A team at its boundary whose queue holds a faulted vector syllable at element 2, alone or behind an older matrix syllable, or a faulted
matrix syllable behind an older vector one. -/
def faulted (e : QEntry) (no : Nat) : QEntry := { e with no := no, start := 2, fault := some { cause := .misalign, tval := 9 } }
def trapQ : Queues := { Queues.empty with viq := [faulted entryV 0] }
def trapQold : Queues := { Queues.empty with viq := [faulted entryV 1], mq := [entryM] }
def trapQm : Queues := { Queues.empty with viq := [entryV], mq := [faulted entryM 1] }
def atBoundary (t : Team) : State := { with0 t with agenda := [.bundle 0] }

theorem test_wit_QueuedTraps : ∀ t ∈ [team0, teamH], ∀ q ∈ [trapQ, trapQold, trapQm], let s := atBoundary { t with q := q }
    s.agenda = .bundle 0 :: [] ∧ s.power = .ready ∧ (s.team 0).status = .running ∧
      ∃ e ∈ (s.team 0).q.all, e.fault = some { cause := .misalign, tval := 9 } ∧ ∀ x ∈ (s.team 0).q.all, x.fault ≠ none → x = e ∨ e.no < x.no := by
  decide

theorem test_wit_QueuedTraps_older : (∀ x ∈ trapQ.mq ++ trapQ.cq0 ++ trapQ.cq1, 0 ≤ x.no) ∧ (¬∀ x ∈ trapQold.mq ++ trapQold.cq0 ++ trapQold.cq1, 1 ≤ x.no) ∧
    (¬∀ x ∈ trapQm.viq, 1 ≤ x.no) ∧ (faulted entryM 1).op = .m .zero := by
  decide

theorem test_wit_QueuedTraps_deferred : let u := { team0 with deferred := some { cause := .syscall, tval := 5 } }
    u.level = .a ∧ (∀ e ∈ u.q.all, e.fault = none) ∧ ((atBoundary u).team 0).deferred = some { cause := .syscall, tval := 5 } := by
  decide

theorem test_wit_TrapReturn : sA.curTeam.level = .a ∧ sH.curTeam.level = .h ∧ sH.curTeam.q.isEmpty = true ∧
    (with0 { teamH with q := queued }).curTeam.q.isEmpty = false ∧ rising sH.curTeam.regs = true ∧
    sH.curTeam.image = some Queues.empty ∧ sH.curTeam.ctl.tstatus.getLsbD 3 = false ∧ slotFlights sH.curTeam.ctl = [] ∧
    sH.curTeam.saved = [] := by
  decide

theorem test_wit_ExitAndWaits : sH.curTeam.level = .h ∧ sA.curTeam.level = .a ∧
    ((with0 { team0 with q := queued }).curTeam.q.isEmpty && sA.curTeam.krels.isEmpty) = false ∧
    sA.curTeam.q.isEmpty = true ∧ sA.curTeam.krels = [] ∧
    (∀ l ∈ (sA.ms.core (coreOf sA.cur.tk)).l1, l.dirty = 0#64 ∨ sA.ms.isPop (l.pa * 64) = true) ∧
    (with0 { team0 with wake := some true }).curTeam.wake = some true ∧ sA.curTeam.wake ≠ some true := by
  decide

theorem test_wit_ExitAndWaits_cwait : ∃ e ∈ (with0 { team0 with q := queued }).curTeam.q.cq0 ++ (with0 { team0 with q := queued }).curTeam.q.cq1,
    ∃ o : COp, e.op = .c o ∧ o.tag = 3#4 :=
  ⟨entryC, by decide, fence0, rfl, rfl⟩

theorem test_wit_ExitAndWaits_idle : ¬∃ e ∈ sA.curTeam.q.cq0 ++ sA.curTeam.q.cq1, ∃ o : COp, e.op = .c o ∧ o.tag = 3#4 :=
  fun ⟨_, h, _⟩ => List.not_mem_nil h

/-- A trap whose image a later cut at H-level does not reach (R206). -/
def teamCut : Team := { teamH with under := [{ vec := VecState.start, vbits := 128, kbits := 4 }] }

theorem test_wit_TrapReturn_cut : (with0 teamCut).curTeam.level = .h ∧ (with0 teamCut).curTeam.q.isEmpty = true ∧
    (with0 teamCut).curTeam.under = { vec := VecState.start, vbits := 128, kbits := 4 } :: [] ∧ sH.curTeam.under = [] ∧
    rising (with0 teamCut).curTeam.regs = true := by
  decide

/-- A write of the team to a peer that its link has not acknowledged, the link up, then down. -/
def unack0 (dead : Bool) : Unack := { who := .team 0, cmd := none, asn := 1, va := 0x30000, pa := 2 * 2 ^ 44, dead := dead }

theorem test_wit_ExitAndWaits_peers : mem0.ackWait (Unack.ofCore 0) = .done ∧
    ({ mem0 with unacked := [unack0 false] } : MemSys).ackWait (Unack.ofCore 0) = .waits ∧
    ({ mem0 with unacked := [unack0 true] } : MemSys).ackWait (Unack.ofCore 0) = .lost 0x30000 ∧ Memory.wf sA.ms.mem := by
  decide

/-! ### Scalar memory, knots, grants, control registers (R139 to R149) -/

theorem fineA : sA.bankFine := by
  unfold State.bankFine
  decide

/-- Whether an access to local memory lies at byte `off` of a core. -/
def liesAt (r : Except TrapInfo Loc) (core off : Nat) : Bool :=
  match r with
  | .ok (.l c o) => decide (c = core) && decide (o = off)
  | _ => false

theorem liesAt_eq {r : Except TrapInfo Loc} {core off : Nat} (h : liesAt r core off = true) : r = .ok (.l core off) := by
  unfold liesAt at h
  split at h
  · simp at h
    rw [h.1, h.2]
  · cases h

/-- What the address in s1 translates to. -/
def xp : Xlat := { pa := 0x10040, ent := page }

theorem test_wit_GlobalAccess_load : ReachesG sA .read (sA.rd 1#5 + 56#64) 8 mem0 { pa := 0x10078, ent := page } ∧
    ¬mem0.seenBad 0 0x10078 :=
  ⟨⟨by decide, by decide, rfl, by decide, by decide, by decide, fineA⟩, by change ¬(mem0.memPoison.contains (0x10078 / 64) = true); decide⟩

theorem test_wit_GlobalAccess_store : ReachesG sA .write (sA.rd 1#5 + 56#64) 8 mem0 { pa := 0x10078, ent := page } ∧
    0x10078 % 64 + 8 ≤ 64 :=
  ⟨⟨by decide, by decide, rfl, by decide, by decide, by decide, fineA⟩, by decide⟩

/-- An older store of the VIQ over the first kilobyte of local memory. -/
def vst0 : VSt := { d := 1, a := 0, b := 0, y := false, c := 2, n := false, m := 0 }
def storing : Queues := { Queues.empty with viq := [{ captures sA (.v (.mem (.store .strided vst0))) 0 0 0 with gl := 256 }] }
def sBusy : State := with0 { team0 with q := storing, nextNo := 1 }
def sBusySched : State := with0 { team0 with q := storing, nextNo := 1, sched := true }
/-- The granule at 0x20 full. -/
def sFull : State := { sA with ms := { mem0 with fe := [(2, true)] } }

theorem test_wit_LocalAccess_lm : ReachesL sA 2#3 (sA.rd 6#5) 8 true false 0 32 :=
  ⟨liesAt_eq (by decide +kernel), by decide, by decide, by decide, fineA⟩

theorem test_wit_LocalAccess_cw : ReachesL sA 1#3 (sA.rd 6#5) 1 true false 0 32 :=
  ⟨liesAt_eq (by decide +kernel), by decide, by decide, by decide, fineA⟩

theorem test_wit_LocalAccess_fec : ReachesL sFull 4#3 (sFull.rd 6#5) 4 true true 0 32 ∧ sFull.ms.isFull 0 32 = true :=
  ⟨⟨liesAt_eq (by decide +kernel), by decide, by decide, by decide, fineA⟩, by decide⟩

theorem test_wit_LocalAccess_fe : ReachesL sA 3#3 (sA.rd 6#5) 4 true false 0 32 ∧ sA.ms.isFull 0 32 = false :=
  ⟨⟨liesAt_eq (by decide +kernel), by decide, by decide, by decide, fineA⟩, by decide⟩

theorem test_wit_LocalAccess_waits : ∀ s ∈ [sBusy, sBusySched],
    s.curTeam.lmWaits s.curTeam.nextNo (lmTouched s 2#3 (s.rd 6#5) 4 true false) = true := by
  decide

theorem test_wit_LocalAccess_forms : lmLoc sBusy 0 (lmCode 2#3) (sBusy.rd 6#5).toNat 4 = .ok (.l 0 32) ∧
    lmLoc sBusySched 0 (lmCode 2#3) (sBusySched.rd 6#5).toNat 4 = .ok (.l 0 32) ∧
    sBusy.curTeam.sched = false ∧ sBusySched.curTeam.sched = true :=
  ⟨liesAt_eq (by decide +kernel), liesAt_eq (by decide +kernel), rfl, rfl⟩

theorem test_wit_LocalAccess_st : ReachesL sA 2#3 (sA.rd 6#5) 8 false true 0 32 ∧ ReachesL sA 1#3 (sA.rd 6#5) 8 false true 0 32 ∧
    ReachesL sA 5#3 (sA.rd 6#5) 8 false true 0 32 :=
  ⟨⟨liesAt_eq (by decide +kernel), by decide, by decide, by decide, fineA⟩, ⟨liesAt_eq (by decide +kernel), by decide, by decide, by decide, fineA⟩,
    ⟨liesAt_eq (by decide +kernel), by decide, by decide, by decide, fineA⟩⟩

theorem test_wit_AccessFaults_misaligned : (sA.rd 3#5 + 0#64).toNat % 2 ≠ 0 ∧ gWaits sA 0 (sA.rd 3#5 + 0#64).toNat 2 = false ∧
    sA.curTeam.krels = [] ∧ relReady sA.curTeam = true ∧ (sA.rd 3#5).toNat % 4 ≠ 0 ∧ gWaits sA 0 (sA.rd 3#5).toNat 4 = false ∧
    (sA.rd 3#5).toNat % 16 ≠ 0 := by
  decide

theorem test_wit_AccessFaults_knots : (sA.rd 9#5).toNat % 16 = 0 ∧ sA.xlat .write (sA.rd 9#5) = (mem0, .error .protection) ∧
    (sA.rd 0#5).toNat % 16 = 0 ∧ (∃ m, sA.xlat .read (sA.rd 0#5) = (m, .error .pageLoad)) ∧
    (sA.rd 8#5).toNat % 16 = 0 ∧ (∃ x, sA.xlat .write (sA.rd 8#5) = (mem0, .ok x) ∧ isHostOrPeer x.pa = true) ∧
    ∃ x, sA.xlat .read (sA.rd 8#5) = (mem0, .ok x) ∧ isHostOrPeer x.pa = true :=
  ⟨by decide, rfl, by decide, ⟨_, rfl⟩, by decide, ⟨_, rfl, by decide⟩, ⟨_, rfl, by decide⟩⟩

/-- What the knot in s7 translates to. -/
def xk : Xlat := { pa := 0x10080, ent := page }

theorem test_wit_knot : KnotOk sA .write (sA.rd 7#5) mem0 xk ∧ KnotOk sA .read (sA.rd 7#5) mem0 xk :=
  ⟨⟨by decide, rfl, by decide, by decide, by decide, by decide, fineA⟩, ⟨by decide, rfl, by decide, by decide, by decide, by decide, fineA⟩⟩

theorem test_wit_AccessFaults_kbind : (sA.rd 2#5).toNat % 256 ≠ 0 ∧ 2 ^ 40 < (sA.rd 4#5).toNat := by decide

theorem test_wit_AcquireAndRelease : ReachesG sA .read (sA.rd 1#5 + 0#64) 8 mem0 xp ∧ ¬mem0.seenBad 0 xp.pa ∧ sA.curTeam.krels = [] ∧
    sA.cur.st = .running ∧ relReady sA.curTeam = true ∧ ReachesG sA .write (sA.rd 1#5 + 0#64) 8 mem0 xp ∧ xp.pa % 64 + 8 ≤ 64 ∧
    sA.ms.isPop (xp.pa / 64 * 64) = true ∧ sA.ms.homesUp 0 ∧ relReady sBusy.curTeam = false :=
  ⟨⟨by decide, by decide, rfl, by decide, by decide, by decide, fineA⟩, by change ¬(mem0.memPoison.contains (xp.pa / 64) = true); decide, rfl, rfl, by decide,
    ⟨by decide, by decide, rfl, by decide, by decide, by decide, fineA⟩, by decide, by decide, by unfold MemSys.homesUp; decide, by decide⟩

/-- An older krel not performed yet. -/
def krel0 : KRel := { knot := 0x10080, pa := 0x10080, inc := 1, scope := 1, region := none, before := 0, bno := 0 }
def sRel : State := with0 { team0 with krels := [krel0], nextNo := 1, bno := 1 }

theorem test_wit_release_waits : relReady sRel.curTeam = false := by decide

theorem test_wit_Atomics_g : ReachesG sA .write (sA.rd 1#5) 8 mem0 xp ∧ (mem0.evictLine 0 xp.pa).poisoned xp.pa = false :=
  ⟨⟨by decide, by decide, rfl, by decide, by decide, by decide, fineA⟩, by decide⟩

theorem test_wit_Atomics_lm : ReachesL sA 2#3 (sA.rd 6#5) 4 true true 0 32 :=
  ⟨liesAt_eq (by decide +kernel), by decide, by decide, by decide, fineA⟩

/-- A dirty line of core 0. -/
def line0 : Line := { pa := 0x401, vas := [(1, 0x401)], data := 7, dirty := 1, wr := 1, poison := false, lost := false }
def sDirty : State := { sA with ms := { mem0 with cores := [(0, { Core.reset with l1 := [line0] })] } }

theorem test_wit_FenceWritesBack : Memory.wf sDirty.ms.mem ∧ relReady sDirty.curTeam = true ∧ sDirty.ms.homesUp 0 := by
  unfold MemSys.homesUp
  decide

/-- A space whose table has one 64 KiB leaf, for address 0, at 0x81000 (R174). -/
def memWalk : MemSys :=
  { mem0 with
    tlb := []
    mem := storeLE (storeLE (storeLE (storeLE (storeLE [] 0x80000 8 0x81003) 0x81000 8 0x82003) 0x82000 8 0x83003) 0x83000 8 0x84003)
      0x84000 8 0x10005 }

/-- A leaf as first cached, its A bit set and its D bit not (R179). -/
def newLeaf : TlbEnt := { place := .data 0, asn := 1, va := 0, size := 65536, leafAt := 0x84000, leaf := 0x10015, dc := false, marked := [] }

theorem test_wit_TranslationWrites : Memory.wf memWalk.mem ∧ (memWalk.translate (.data 0) 1 0x80000 false .write 0x8#64).1.tlb = [newLeaf, { newLeaf with place := .cluster 0 }] ∧
    memWalk.tlbFits ∧ newLeaf.dc = false ∧ newLeaf.marked.contains 0 = false ∧ memWalk.space? newLeaf.asn = some space1 ∧ (TlbPlace.data 0).backing = some (.cluster 0) ∧
    (({ memWalk with tlb := [{ newLeaf with place := .cluster 0 }] } : MemSys).translate (.data 0) 1 0x80000 false .write 0x8#64).1.tlb =
      [newLeaf, { newLeaf with place := .cluster 0 }] := by
  unfold MemSys.tlbFits
  decide +kernel

theorem test_wit_KnotBind : KnotOk sA .write (sA.rd 7#5) mem0 xk ∧ (sA.rd 10#5).toNat % 256 = 0 ∧ (sA.rd 10#5).toNat ≤ 2 ^ 40 ∧
    rising sA.ms.knots = true ∧ sA.rd 10#5 ≠ 0#64 ∧ sA.rd 0#5 = 0#64 ∧ find? sA.ms.knots (knotKey 0 0) = none :=
  ⟨test_wit_knot.1, by decide⟩

/-- The knot in s7 bound by entry 3 of partition 0's table. -/
def sBound : State :=
  { sA with ms := { mem0 with mem := storeLE [] 0x10088 8 (2 ^ 63 + 3), knots := [(3, { asn := 1, knot := 0x10080, base := 0x10100, len := 0x100 })] } }

theorem test_wit_KnotBind_bound : IsBound (sBound.ms.evictLine 0 xk.pa) 0 1 (sBound.rd 7#5) xk.pa 3 ∧ KnotOk sBound .write (sBound.rd 7#5) sBound.ms xk :=
  ⟨⟨by decide, by decide, _, rfl, rfl, rfl⟩, ⟨by decide, rfl, by decide, by decide, by decide, by decide, fineA⟩⟩

theorem test_wit_KnotBind_unbound : ∀ i, ¬IsBound (sA.ms.evictLine 0 xk.pa) 0 1 (sA.rd 7#5) xk.pa i :=
  fun _ h => absurd h.1 (by decide)

theorem test_wit_KnotAcquireRelease : KnotOk sA .read (sA.rd 7#5) mem0 xk ∧ sA.curTeam.krels = [] ∧
    (mem0.evictLine 0 xk.pa).homeRead xk.pa 8 < (sA.rd 2#5).toNat ∧ (sA.rd 0#5).toNat ≤ (mem0.evictLine 0 xk.pa).homeRead xk.pa 8 :=
  ⟨test_wit_knot.2, by decide⟩

theorem noDirty_nil {m : MemSys} {c p : Nat} (h : (m.core c).l1 = []) : m.noDirty c p := fun l hl => by
  rw [h] at hl
  cases hl

theorem test_wit_KnotAcquireRelease_performed : (sRel.team 0).krels = krel0 :: [] ∧ (sRel.team 0).status = .running ∧
    (sRel.team 0).vMemBefore krel0.before = false ∧ (∀ f ∈ (sRel.team 0).flights, f.load = none) ∧ Memory.wf sRel.ms.mem ∧
    sRel.ms.homesUp 0 ∧ sRel.ms.translate (.data 0) 1 0x80000 false .write krel0.knot = (sRel.ms, .ok xk) ∧
    ∀ i, i < 8 → sRel.ms.noDirty 0 (krel0.pa + i) ∧ ¬markBytes sRel.ms xk krel0.knot.toNat (krel0.pa + i) :=
  ⟨rfl, rfl, by decide, by decide, by decide, by unfold MemSys.homesUp; decide, rfl, fun i h =>
    ⟨noDirty_nil (by decide), fun hm => by
      rcases hm with hm | ⟨sp, h1, h2⟩
      · have : xk.ent.leafAt = 0x20000 := rfl
        have : krel0.pa = 0x10080 := rfl
        omega
      · have h3 : sRel.ms.space? xk.ent.asn = some space1 := rfl
        rw [h3] at h1
        obtain rfl := Option.some.inj h1
        have : krel0.pa = 0x10080 := rfl
        have : space1.dmap = 0x100000 := rfl
        omega⟩⟩

/-- A release at system scope whose earlier writes to a peer are still to come, or can no longer. -/
def krel3 : KRel := { krel0 with scope := 3 }
def sRel3 (dead : Bool) : State := { sRel with teams := [(0, { team0 with krels := [krel3], nextNo := 1, bno := 1 })], ms := { mem0 with unacked := [unack0 dead] } }

theorem test_wit_KnotAcquireRelease_peers : ((sRel3 true).team 0).liveRels = krel3 :: [] ∧ (sRel3 true).ackWait krel3.scope (Unack.ofCore 0) = .lost 0x30000 ∧
    (sRel3 false).ackWait krel3.scope (Unack.ofCore 0) = .waits ∧ ((sRel3 true).team 0).level = .a ∧ (∀ y ∈ ((sRel3 true).team 0).q.all, y.fault = none) ∧
    ((sRel3 true).team 0).vMemBefore krel3.before = false := by
  decide

theorem test_wit_GangBarrier : sA.curTeam.lmStoreBefore = false ∧ sBusy.curTeam.lmStoreBefore = true := by decide

theorem test_wit_GangBarrier_late : ∃ s : State, ∃ j ∈ s.gang s.cur.tk, j.1 ≠ s.cur.tk ∧ j.2.status ≠ .ended ∧ j.2.status ≠ .exiting ∧
    (j.2.ctl.gph.toNat : Int) < s.curTeam.ctl.gph.toNat - (0#5).toNat := by
  refine ⟨{ sA with teams := [(0, { team0 with ctl := { team0.ctl with gph := 1 } }), (2, team0)] }, (2, team0), ?_⟩
  decide

theorem test_wit_GrantsAndStrips : sA.bankFine ∧ 64 ≤ sA.vlmaxOf sA.cur.tk ∧ (64#8).toNat ≤ 64 ∧
    (List.range 64).countP (fun i => (0xFFFF#64).getLsbD i) ≤ 16 ∧ (sA.rd 3#5).toNat % 8 ≠ 0 ∧ sA.rd 0#5 = 0#64 ∧
    sA.rd 1#5 ≠ 0#64 ∧ (sA.rd 1#5).toNat % 8 = 0 ∧ WatchOk sA (sA.rd 1#5) mem0 xp ∧
    sA.granted 0#64 sA.curTeam.ctl.hold ≤ (mem0.evictLine 0 xp.pa).homeRead xp.pa 8 ∧
    (mem0.evictLine 0 xp.pa).homeRead xp.pa 8 < sA.granted (sA.rd 2#5) sA.curTeam.ctl.hold :=
  ⟨fineA, by decide, by decide, by decide, by decide, by decide, by decide, by decide, ⟨rfl, by decide, rfl, by decide, by decide⟩, by decide, by decide⟩

/-- A strip loop with 5 left of which 4 are granted, and one with 4 left of 4; SEB 0; with and without a progress word. -/
def stripped (sc : Word) (watch : Word) (done : Nat) : State :=
  { with0 { team0 with ctl := { team0.ctl with sc := sc, gl := 4, watch := watch } } with ms := { mem0 with mem := storeLE [] 0x10040 8 done } }

theorem test_wit_GrantsAndStrips_ste : BitVec.ofNat 64 ((stripped 4 0 0).curTeam.ctl.sc.toNat - (stripped 4 0 0).curTeam.ctl.gl.toNat) = 0#64 := by
  decide

theorem test_wit_GrantsAndStrips_more : (stripped 5 0 0).curTeam.ctl.watch = 0#64 ∧
    BitVec.ofNat 64 ((stripped 5 0 0).curTeam.ctl.sc.toNat - (stripped 5 0 0).curTeam.ctl.gl.toNat) ≠ 0#64 ∧
    WatchOk (stripped 5 0x10040 5) 0x10040#64 (stripped 5 0x10040 5).ms xp ∧
    4 + (stripped 5 0x10040 5).granted 1#64 0#8 ≤ ((stripped 5 0x10040 5).ms.evictLine 0 xp.pa).homeRead xp.pa 8 ∧
    ((stripped 5 0x10040 4).ms.evictLine 0 xp.pa).homeRead xp.pa 8 < 4 + (stripped 5 0x10040 4).granted 1#64 0#8 :=
  ⟨rfl, by decide, ⟨rfl, by decide, rfl, by decide, by decide⟩, by decide, by decide⟩

theorem test_wit_ControlRegisters : sA.curTeam.level = .a ∧ sH.curTeam.level = .h ∧ sA.curTeam.polyBusy = false ∧
    (with0 { team0 with q := { Queues.empty with viq := [{ entryV with op := .v (.ppinit false 0) }] } }).curTeam.polyBusy = true := by
  decide

/-- A write of PDEG0 that waits at the head of the VIQ, behind nothing. -/
def marker0 : QEntry := { entryV with op := .v (.setp 0x30 5) }
def sMarker : State := with0 { team0 with q := { Queues.empty with viq := [marker0, { entryV with no := 1 }] }, nextNo := 2 }

theorem test_wit_PolynomialRegisters : (sMarker.team 0).runs = true ∧ (sMarker.team 0).q.viq = marker0 :: [{ entryV with no := 1 }] ∧
    marker0.op = .v (.setp 0x30 5) ∧ (∀ x ∈ [{ entryV with no := 1 }], x.no ≠ marker0.no) ∧ sMarker.ms.ok = true ∧ sMarker.curTeam.polyBusy = true ∧
    sMarker.bankFine := by
  unfold State.bankFine
  decide

/-- VTYPE values whose FMT a register holds (bf16, f32), holds not at this grant (i64), and is no register format's (raw). -/
theorem test_wit_VtypeWrite : let s := with0 { team0 with ctl := { team0.ctl with gl := 1500 } }
    let fits := fun (c : Nat) => ∃ f, Fmt.ofCode c = some f ∧ f.isReg = true ∧ s.curTeam.ctl.gl.toNat ≤ vlmax (s.lanesOf s.cur.tk) f.width
    fits 9 ∧ fits 8 ∧ (¬fits 7) ∧ (¬fits 0) ∧ s.bankFine := by
  unfold State.bankFine
  refine ⟨⟨.bf16, by decide⟩, ⟨.f32, by decide⟩, ?_, ?_, by decide⟩
  · rintro ⟨f, h, -, h3⟩
    cases h
    exact absurd h3 (by decide)
  · rintro ⟨f, h, h2, -⟩
    cases h
    exact absurd h2 (by decide)

theorem test_wit_ControlFaults : (∀ n ∈ [0x100, 0x1FF], 0x100 ≤ n ∧ n ≤ 0x1FF) ∧
    (∀ n ∈ [0x002, 0x00F, 0x01B, 0x026, 0x049, 0x200, 0xFFF], ¬(0x100 ≤ n ∧ n ≤ 0x1FF) ∧ ¬crListed n) ∧
    ∀ n ∈ [0x106, 0x10D, 0x118, 0x121], ¬crListed n := by
  unfold crListed
  decide

/-- A knot in the scale area of a blocked page, one in a poisoned block (R121, R393). -/
theorem test_wit_AccessFaults_scales : (∃ x, sA.xlat .write 0x6FFF0#64 = (mem0, .ok x) ∧ inScaleArea x.ent 0x6FFF0 = true) ∧
    (∃ x, sA.xlat .read 0x6FFF0#64 = (mem0, .ok x) ∧ inScaleArea x.ent 0x6FFF0 = true) ∧ (0x6FFF0#64).toNat % 16 = 0 ∧
    (({ mem0 with memPoison := [0x10080 / 64] } : MemSys).evictLine 0 xk.pa).poisoned xk.pa = true ∧ sA.curTeam.liveRels = [] ∧
    gWaits sA 0 (sA.rd 7#5).toNat 16 = false ∧ gWaits sA 0 (sA.rd 7#5).toNat 8 = false :=
  ⟨⟨_, rfl, by decide⟩, ⟨_, rfl, by decide⟩, by decide⟩

/-- A queued vector store to `g:` of the knot and of the word in s1. -/
def vstG : VSt := { d := 1, a := 0, b := 0, y := false, c := 0, n := false, m := 0 }
def storingG : Queues :=
  { Queues.empty with viq := [{ captures sA (.v (.mem (.store .strided vstG))) 0 0 0 with gl := 256, y := 0x10000 }] }
def sBusyG : State := with0 { team0 with q := storingG, nextNo := 1 }

theorem test_wit_Knots_older : gWaits sBusyG 0 (sBusyG.rd 7#5).toNat 8 = true ∧ gWaits sBusyG 0 (sBusyG.rd 7#5).toNat 16 = true ∧
    sRel.curTeam.liveRels ≠ [] ∧ sBusyG.curTeam.vMemBefore 1 = true := by
  decide

/-- What a release at system scope waits for, and what it reports (R58, R401). -/
theorem test_wit_Releases_peers : let mine := Unack.ofCore 0
    sA.ackWait 3#2 mine = .done ∧ ({ sA with ms := { mem0 with unacked := [unack0 false] } } : State).ackWait 3#2 mine = .waits ∧
      ({ sA with ms := { mem0 with unacked := [unack0 true] } } : State).ackWait 3#2 mine = .lost 0x30000 ∧
      ({ sA with ms := { mem0 with unacked := [unack0 false] } } : State).ackWait 2#2 mine = .done := by
  decide

/-- A sibling that ended by a fault of its own syllable behind it has arrived (R30). -/
def endedBehind : Escalation := { info := { cause := .illegal, tval := 1 }, hpc := 0, cls := .s, qp := false, tvpc := 0, ended := true }
def teamBehind : Team := { team0 with status := .escalating, esc := some endedBehind }

theorem test_wit_GangBarrier_ended : ∃ j ∈ ({ sA with teams := [(0, team0), (2, teamBehind)] } : State).gang 0, j.1 ≠ 0 ∧
    j.2.status = .escalating ∧ ∃ x, j.2.esc = some x ∧ x.ended = true :=
  ⟨(2, teamBehind), by decide, by decide, rfl, endedBehind, rfl, rfl⟩

/-- Formats for VTYPE: i8 (code 1), no register format (code 31), and i64 (code 7) under a grant it has no room for. -/
theorem test_wit_ControlFaults_vtype : (∃ f, Fmt.ofCode ((1#64).extractLsb' 0 5).toNat = some f ∧ f.isReg = true ∧
      sA.curTeam.ctl.gl.toNat ≤ vlmax (sA.lanesOf sA.cur.tk) f.width ∧ f.width < sA.curTeam.ctl.width) ∧
    (¬∃ f, Fmt.ofCode ((31#64).extractLsb' 0 5).toNat = some f ∧ f.isReg = true) ∧
    (let s := with0 { team0 with ctl := { team0.ctl with gl := 1025 } }
     ∃ f, Fmt.ofCode ((7#64).extractLsb' 0 5).toNat = some f ∧ f.isReg = true ∧ ¬s.curTeam.ctl.gl.toNat ≤ vlmax (s.lanesOf s.cur.tk) f.width) :=
  ⟨⟨_, rfl, by decide, by decide, by decide⟩, fun ⟨_, h, _⟩ => (nomatch h), ⟨_, rfl, by decide, by decide⟩⟩

/-! ### Streams (R329 to R354) -/

/-- A kernel of one team, one 64 KiB unit and a scalar argument (R185). -/
def kernel0 : Kernel := { entry := 0x40, gsz := 1, pure := false, lmu := 1, kinds := [0] }
def obj0 : CodeObj :=
  { sv := 0, sched := false, gen := 9, size := 65536, ltOff := 0x1000, imports := 1, exports := 1
    sections := [{ kind := 4, offset := 0, align := 1, bytes := [0xAA, 0xBB] }], kernels := [kernel0], digest := 5 }
def loaded0 : LoadedObj := { base := 0x40000, stub := 0x42000, obj := obj0, sched := false, holdIssue := false }
def app0 : App := { handle := 1, kindex := [(0, 0)], programs := [], objs := [loaded0] }
def descA : Desc := { id := 0, base := 0x11000, cap := 8, place := 0 }
def descB : Desc := { id := 1, base := 0x12000, cap := 6, place := 0 }
def partS : Partition :=
  { part0 with apps := [app0], descs := [descA, descB], free := [descB] }

/-- t1 an address in the page, t2 a misaligned one, t3 a knot, t4 a gang count out of range, t5 an unmapped address. -/
def tregs0 : List (Nat × Word) := [(1, 0x10040), (2, 0x10041), (3, 0x10080), (4, 65536), (5, 0x50000)]

/-- Logical buffers: 1 renamable and held, 2 renamable and empty, 3 fixed, 4 in the scale area of a
blocked page. -/
def maps0 : List (Nat × LBuf) := [(1, .renamable 8 8 0 (some 0)), (2, .renamable 6 8 0 none), (3, .fixed 8 8 0 0x10100), (4, .fixed 8 8 0 0x6E000)]

def stream0 : Stream :=
  { Stream.reset with active := true, qstate := .running, qen := true, spc := 0x10000, t := tregs0, smap := maps0, rmap := maps0, wdLeft := 100
                      lrec := { LaunchRec.reset with app := 1 } }

/-- A module that runs the stream given in slot 0. -/
def withS (x : Stream) : State :=
  { State.reset with power := .ready, ms := mem0, streams := [(0, x)], parts := [(0, partS)], cur := { cur0 with taddr := 0x10000, npc := 0x10008 } }

def sS : State := withS stream0

theorem fineS : sS.streamFine := by
  unfold State.streamFine
  decide

/-- A finished T-op's entry, to fill windows with. -/
def entry0 : WEntry := entryFor sS .fence .complete

/-- A full window. -/
def sWindow : State := withS { stream0 with window := List.replicate 64 entry0 }

theorem test_wit_StreamArithmetic : (sS.treg 1#4).toNat % 8 = 0 ∧ (sS.treg 2#4).toNat % 8 ≠ 0 ∧ sS.cs.full = false := by decide

theorem test_wit_StreamMemory : ReachesT sS .read (sS.treg 1#4 + BitVec.ofInt 64 (8 : Int)) mem0 { pa := 0x10048, ent := hubPage } ∧
    ReachesT sS .write (sS.treg 1#4 + BitVec.ofInt 64 (8 : Int)) mem0 { pa := 0x10048, ent := hubPage } ∧
    mem0.poisoned 0x10048 = false ∧ sS.cs.window = [] ∧ sWindow.cs.window ≠ [] ∧ (sS.treg 2#4 + 0#64).toNat % 8 ≠ 0 ∧
    (sS.treg 5#4 + 0#64).toNat % 8 = 0 ∧ (sS.txlat .read (sS.treg 5#4 + 0#64)).2.toOption = none :=
  ⟨⟨by decide, rfl, by decide, by decide, by decide, fineS⟩, ⟨by decide, rfl, by decide, by decide, by decide, fineS⟩, by decide⟩

theorem test_wit_StreamMemory_blocked : 0x60000 % 8 = 0 ∧ (sS.txlat .read 0x60000).2.toOption = some { pa := 0x60000, ent := { blkPage with place := .hub } } ∧
    (sS.txlat .write 0x60000).2.toOption = some { pa := 0x60000, ent := { blkPage with place := .hub } } ∧
    pageBlk blkPage.leaf ≠ 0 ∧ inScaleArea blkPage 0x60000 = false ∧ pageBlk hubPage.leaf = 0 := by
  decide

/-- An older task that writes logical buffer 1. -/
def writer : WEntry :=
  { entryFor sS (.copy (.region 0x10100 256) (.desc 0 0x11000 256) 256) .issued with seq := some 0, ins := [.region 0x10100 256], outs := [.desc 0 0x11000 256] }

theorem test_wit_StreamMemory_tread : (sS.part sS.cs.part).refOf (sS.cs.lbuf 1) = some (.desc 0 0x11000 256) ∧ (255#36).toNat < 256 ∧
    (∃ e ∈ (withS { stream0 with window := [writer] }).cs.window, e.writesRef (.desc 0 0x11000 256) = true) ∧
    (∀ e ∈ sS.cs.window, e.writesRef (.desc 0 0x11000 256) = false) ∧
    (sS.txlat .read (0x11000#64 + 8#64)).2.toOption = some { pa := 0x11008, ent := hubPage } ∧ mem0.poisoned 0x11008 = false := by
  decide

theorem test_wit_StreamBuffers : sWindow.cs.full = true ∧ sS.cs.full = false ∧ sS.cs.lbuf 9 = .undeclared ∧
    sS.cs.lbuf 1 = .renamable 8 8 0 (some 0) ∧ sS.cs.lbuf 3 = .fixed 8 8 0 0x10100 ∧ (sS.treg 1#4).toNat % 64 = 0 ∧
    regionHole sS.ms 1 0x80000 (0x10040 + 256) (256 / 65536 + 2) 0x10040 = none := by
  decide

/-- A launch of kernel 0: one gang, an argument from t1; and one whose count is t4. -/
def hdr0 : LaunchHdr := { a := 0, gsz := 0, lm := 1, gc := 1, ker := 0 }

theorem test_wit_TaskEntry : sS.cs.full = false ∧ 1 ≤ hdr0.gc.toNat ∧ hdr0.gc.toNat ≤ 65535 ∧
    sS.kernelOf sS.cur.k hdr0.ker.toNat = some (loaded0, kernel0) ∧ kernel0.gsz = hdr0.gsz.toNat + 1 ∧ kernel0.lmu = hdr0.lm.toNat ∧
    kernel0.kinds = [LaunchOp.sreg 1].filterMap opKind ∧
    (resolveTask (sS.part 0) sS.cs [] []).toOption = some { ins := [], outs := [], renamed := [], smap := maps0, free := [descB] } ∧
    65535 < (sS.treg 4#4).toNat ∧ (sS.treg 0#4).toNat = 0 ∧ sS.kernelOf sS.cur.k 7 = none := by
  decide

theorem test_wit_TaskEntry_tcopy : (sS.part 0).refOf (sS.cs.lbuf 1) = some (.desc 0 0x11000 256) ∧ sS.cs.lbuf 2 = .renamable 6 8 0 none ∧
    (sS.part 0).free.find? (fun y => decide (6 ≤ y.cap) && decide (y.place = 0)) = some descB ∧ sS.cs.lbuf 3 = .fixed 8 8 0 0x10100 := by
  decide

/-- What the knot in t3 translates to. -/
def xh : Xlat := { pa := 0x10080, ent := hubPage }

theorem test_wit_StreamOrdering : KnotT sS .write (sS.treg 3#4) mem0 xh ∧ KnotT sS .read (sS.treg 3#4) mem0 xh :=
  ⟨⟨by decide, rfl, by decide, by decide, by decide⟩, ⟨by decide, rfl, by decide, by decide, by decide⟩⟩

theorem test_wit_StreamOrdering_tsys : sS.cs.window = [] ∧ (1#16).toNat = 1 ∧ (3#16).toNat = 3 ∧ (0#16).toNat = 0 ∧ 3 < (4#16).toNat ∧
    sS.cs.answered = false ∧ sS.cs.posted = false ∧ (withS { stream0 with posted := true }).cs.posted = true ∧
    (withS { stream0 with posted := true, answered := true }).cs.answered = true := by
  decide


/-- Jumps beyond the 57 bits of SPC. -/
theorem test_wit_StreamArithmetic_far : 2 ^ 57 ≤ (sS.cur.taddr + BitVec.ofInt 64 ((-0x2001#44 : BitVec 44).toInt * 8)).toNat ∧
    (sS.cur.taddr + BitVec.ofInt 64 ((4#44 : BitVec 44).toInt * 8)).toNat < 2 ^ 57 ∧ sS.cur.st = .running ∧ sS.streamFine :=
  ⟨by decide, by decide, rfl, fineS⟩

theorem test_wit_StreamMemory_scales : (∃ x, sS.txlat .read 0x6E000#64 = (mem0, .ok x) ∧ inScaleArea x.ent 0x6E000 = true) ∧
    (0x6E000#64).toNat % 8 = 0 ∧ (sS.part sS.cs.part).refOf (sS.cs.lbuf 4) = some (.region 0x6E000 256) ∧
    (∀ e ∈ sS.cs.window, e.writesRef (.region 0x6E000 256) = false) ∧ sS.txlat .read (sS.treg 5#4) = (mem0, .error .pageLoad) :=
  ⟨⟨_, rfl, by decide⟩, by decide, by decide, by decide, rfl⟩

/-- Launches whose kernel differs from the header in one of the three, and one with an undeclared operand. -/
theorem test_wit_TaskEntry_faults : (∀ h ∈ [{ hdr0 with gsz := 1 }, { hdr0 with lm := 2 }],
      ∃ o k, sS.kernelOf sS.cur.k h.ker.toNat = some (o, k) ∧ (k.gsz ≠ h.gsz.toNat + 1 ∨ k.lmu ≠ h.lm.toNat)) ∧
    kernel0.kinds ≠ [LaunchOp.inp 1].filterMap opKind ∧
    (match resolveTask (sS.part 0) sS.cs [9] [] with | .error (.undeclared _) => true | _ => false) = true := by
  refine ⟨fun h hh => ⟨loaded0, kernel0, ?_⟩, by decide, by decide⟩
  simp only [List.mem_cons, List.not_mem_nil, or_false] at hh
  rcases hh with rfl | rfl <;> decide

/-! ### Queue entries in execution (R209 to R259, R275 to R291) -/

/-- What `ReadyAt` asks, as one test. -/
def readyB (s : State) (tk : Nat) (h : QEntry) (rest : List QEntry) (op : VOp) : Bool :=
  decide (tk < 640) && (s.team tk).runs && decide ((s.team tk).q.viq = h :: rest) && decide (h.op = .v op) &&
    rest.all (fun e => decide (e.no ≠ h.no)) && !(s.team tk).faultBefore h.no && !s.vHolds tk (asPend h) &&
    pipesFree (s.passPipes (coreOf tk)) tk && decide ((s.team tk).vec.vPoison = []) &&
    decide (h.w = 8 ∨ h.w = 16 ∨ h.w = 32 ∨ h.w = 64) && decide (h.gl * h.w ≤ 65536) && rising (s.team tk).vec.v && s.ms.ok

theorem readyAt {s : State} {tk : Nat} {h : QEntry} {rest : List QEntry} {op : VOp} (b : readyB s tk h rest op = true) :
    ReadyAt s tk h rest op := by
  simp only [readyB, Bool.and_eq_true, decide_eq_true_eq, Bool.not_eq_true', List.all_eq_true] at b
  obtain ⟨⟨⟨⟨⟨⟨⟨⟨⟨⟨⟨⟨a1, a2⟩, a3⟩, a4⟩, a5⟩, a6⟩, a7⟩, a8⟩, a9⟩, a10⟩, a11⟩, a12⟩, a13⟩ := b
  exact ⟨a1, a2, a3, a4, a5, a6, a7, a8, a9, a10, a11, a12, a13⟩

/-- The team with one V syllable queued, at the element width of VTYPE v, its first element `i`. -/
def eV (v : BitVec 13) (i : Nat) (op : VOp) : QEntry := { entryV with op := .v op, vtype := v, start := i }
def sV (v : BitVec 13) (i : Nat) (op : VOp) : State := with0 { team0 with q := { Queues.empty with viq := [eV v i op] }, nextNo := 1 }

/-- Each of a list of V syllables, alone in its queue, is ready. -/
theorem readyAll (v : BitVec 13) (ops : List VOp) (h : ops.all (fun op => readyB (sV v 0 op) 0 (eV v 0 op) [] op) = true) :
    ∀ op ∈ ops, ReadyV (sV v 0 op) 0 (eV v 0 op) [] op :=
  fun op m => ⟨readyAt (List.all_eq_true.mp h op m), rfl⟩

def vs0 : VS := { d := 4, a := 2, b := 1, x := false, m := 0 }
def vv0 : VV := { d := 4, a := 2, b := 3, x := false, y := false, m := 0 }
def vk0 : VK := { d := 15, a := 1, b := 2, m := 0 }
def v10 : V1 := { d := 4, a := 2, x := false, m := 0 }
/-- A comparison into the last mask. -/
def cmp0 : VSc := { vadd0 with d := 15 }

/-- At its first element, with any number of elements to a turn, and at its last one. -/
theorem test_wit_VectorIntegerElements : ∀ i ∈ [0, 3], ReadyAt (sV 8 i (.int .sadd vadd0)) 0 (eV 8 i (.int .sadd vadd0)) [] (.int .sadd vadd0) :=
  fun i h => readyAt (List.all_eq_true.mp (show [0, 3].all (fun i => readyB (sV 8 i (.int .sadd vadd0)) 0 (eV 8 i (.int .sadd vadd0)) []
    (.int .sadd vadd0)) = true by decide +kernel) i h)

theorem test_wit_VectorMasksAndMoves : ∀ op ∈ [VOp.cmp .eq cmp0, .cmp .geu cmp0, .kop .xor vk0, .slide true vs0, .slide false vs0, .gath vv0,
      .scat vv0, .merge vadd0, .compress v10, .expand v10, .mv v10, .ins 1 0, .bcast 1 0, .vid 1 0, .kq .count 1 2, .kq .any 1 2, .kq .first 1 2, .ext 1 2],
    ReadyV (sV 8 0 op) 0 (eV 8 0 op) [] op :=
  readyAll 8 _ (by decide +kernel)

/-- i16, the width a codebook load asks for. -/
theorem test_wit_VectorMasksAndMoves_tocb : (∀ op ∈ [VOp.tocb 1 2], ReadyV (sV 3 0 op) 0 (eV 3 0 op) [] op) ∧ (eV 3 0 (.tocb 1 2)).w = 16 ∧
    rising team0.vec.cb = true ∧ cmp0.d.toNat ≠ 0 ∧ vk0.d.toNat ≠ 0 ∧ entryV.gl ≤ 8192 ∧ rising team0.vec.k = true ∧ bankOk team0.bank = true :=
  ⟨readyAll 3 _ (by decide +kernel), by decide⟩

/-- R172, R216: the team runs under mirroring. -/
def sMirror : State := with0 { team0 with bind := { bind0 with prot := true }, q := { Queues.empty with viq := [eV 8 0 (.int .add vadd0)] }, nextNo := 1 }

theorem test_wit_ReplayThenTrap : ReadyV sMirror 0 (eV 8 0 (.int .add vadd0)) [] (.int .add vadd0) ∧ (sMirror.team 0).bind.prot = true :=
  ⟨⟨readyAt (by decide +kernel), rfl⟩, rfl⟩

/-- Either mark of a first time, and each without the other. -/
theorem test_wit_ReplayThenTrap_marks : ∀ e ∈ [eV 8 0 (.int .add vadd0), { eV 8 0 (.int .add vadd0) with replayed := true }, { eV 8 0 (.int .add vadd0) with remirrored := true },
      { eV 8 0 (.int .add vadd0) with replayed := true, remirrored := true }],
    let s := with0 { team0 with bind := { bind0 with prot := true }, q := { Queues.empty with viq := [e] }, nextNo := 1 }
    ReadyV s 0 e [] (.int .add vadd0) ∧ (s.team 0).bind.prot = true := by
  intro e he
  simp only [List.mem_cons, List.not_mem_nil, or_false] at he
  rcases he with rfl | rfl | rfl | rfl <;> exact ⟨⟨readyAt (by decide +kernel), rfl⟩, rfl⟩

/-- Of the functions' values: 2.25 and its root 1.5, powers of two, whole exponents, quotients by 0 of either sign, in each register format. -/
theorem test_wit_VectorArithmetic_functions : ∀ f ∈ [ffF32, ffBf16, ffF16],
    let x := f.signBit / 2 - 2 ^ f.mb + 2 ^ (f.mb - 1)
    x < f.signBit ∧ f.decode x = .fin false (3 * 2 ^ (f.mb - 1)) (-(f.mb : Int)) ∧ 3 * 2 ^ (f.mb - 1) ≠ 0 ∧
      f.decode (2 * f.signBit - 1) = .nan false ∧ f.decode (f.signBit - 2 ^ f.mb + 1) = .nan true ∧ f.decode 0 = .fin false 0 (f.decode 0).exp := by
  decide +kernel

theorem test_wit_VectorArithmetic_same : SameNumber (.fin false 9 (-2)) (.fin false (3 * 3) (2 * (-1))) ∧ SameNumber (.fin true 8 0) (.fin true 1 3) ∧
    SameNumber (.fin false 4 0) (.fin false 1 (2 * 1)) ∧ SameNumber (.fin false 5 0) (FVal.ofInt 5) ∧ SameNumber (FVal.ofInt (-5)) (FVal.ofInt (-5)) ∧
    ¬SameNumber (.nan false) (.nan false) :=
  ⟨⟨rfl, 0, 0, rfl, rfl⟩, ⟨rfl, 0, 3, rfl, rfl⟩, ⟨rfl, 0, 2, rfl, rfl⟩, ⟨rfl, 0, 0, rfl, rfl⟩, ⟨rfl, 0, 0, rfl, rfl⟩, id⟩

/-- Conversions: of NaNs, infinities, numbers between two integers and beyond the range, a format without infinities, e8m0 at its ends. -/
theorem test_wit_VectorArithmetic_conversions : Fmt.f32.isReg = true ∧ Fmt.e4m3.isReg = true ∧ Fmt.e8m0.isReg = true ∧ Fmt.i8.isReg = true ∧ Fmt.i64.isReg = true ∧
    Fmt.f32.isFloat = true ∧ Fmt.i8.isInt = true ∧ Fmt.e4m3.ff.hasInf = false ∧ Fmt.f32.val 0x7F800001 = .nan true ∧ Fmt.f32.val 0xFF800000 = .inf true ∧
    Fmt.f32.val 0x3FC00000 = .fin false (3 * 2 ^ 22) (-23) ∧ 2 ^ 23 ≤ 3 * 2 ^ 22 ∧ 3 * 2 ^ 22 < 2 ^ (23 + 1) ∧ Fmt.i8.intVal 0x80 = -128 ∧
    Fmt.ui8.intVal 0xFF = 255 ∧ (Fmt.f32.val 0x80000000).isZero = true ∧ (Fmt.f32.val 0xBF800000).sign = true := by
  decide

theorem test_wit_VectorArithmetic_rounds : RoundsTo .rne 3 2 2 ∧ RoundsTo .rtz 3 2 1 ∧ RoundsTo .rdn (-3) 2 (-2) ∧ RoundsTo .rup 3 2 2 ∧ RoundsTo .sr 3 2 1 ∧
    RoundsTo .sr 3 2 2 :=
  ⟨⟨by decide, by decide⟩, rfl, rfl, rfl, .inl rfl, .inr rfl⟩

theorem test_wit_VectorArithmetic : ∀ op ∈ [VOp.fp2 .add vadd0, .fp2 .sub vadd0, .fp2 .mul vadd0, .fp2 .div vadd0, .fp2 .min vadd0, .fp2 .max vadd0,
      .fma false false vv0, .fma true true vv0, .fp1 .sqrt v10, .fp1 .rcp v10, .fp1 .rsq v10, .fp1 .exp2 v10, .fp1 .log2 v10, .cls v10,
      .cmp .feq cmp0, .cmp .flt cmp0, .cmp .fle cmp0, .cmp .funord cmp0, .cvt { vs0 with b := 9 }, .cvt { vs0 with b := 7 }],
    ReadyV (sV 8 0 op) 0 (eV 8 0 op) [] op :=
  readyAll 8 _ (by decide +kernel)

theorem test_wit_VectorArithmetic_reductions : ∀ op ∈ [VOp.red .red .sum v10, .red .red .fsum v10, .red .red .max v10, .red .fold .fsum v10, .red .fold .min v10,
      .red .scan .fsum v10, .red .scan .sum v10], ReadyV (sV 8 0 op) 0 (eV 8 0 op) [] op :=
  readyAll 8 _ (by decide +kernel)

/-- Polynomial syllables, in f32; a factor of `ppmul` also at its last element. -/
theorem test_wit_VectorArithmetic_polynomials : (∀ op ∈ [VOp.ppinit false 1, .ppinit true 1, .ppdiv 1, .ppmvV 4 1 0, .ppmvP 1 4 0],
      ReadyV (sV 8 0 op) 0 (eV 8 0 op) [] op) ∧
    (∀ i ∈ [0, 3], ReadyAt (sV 8 i (.ppmul true vv0)) 0 (eV 8 i (.ppmul true vv0)) [] (.ppmul true vv0)) ∧
    (eV 8 3 (.ppmul true vv0)).start + 1 = (eV 8 3 (.ppmul true vv0)).gl ∧ (eV 8 0 (.ppdiv 1)).w = 32 ∧ rising team0.vec.p = true ∧
    rising (team0.vec.poly 1).c = true :=
  ⟨readyAll 8 _ (by decide +kernel), fun i h => readyAt (List.all_eq_true.mp (show [0, 3].all (fun i => readyB (sV 8 i (.ppmul true vv0)) 0
    (eV 8 i (.ppmul true vv0)) [] (.ppmul true vv0)) = true by decide +kernel) i h), by decide⟩

/-- Values at the edges of R271's cases: |a| below and above |b|, and a NaN. -/
theorem test_wit_VectorArithmetic_division : absLess (ffF32.decode 0x3F800000) (ffF32.decode 0x40000000) = true ∧
    absLess (ffF32.decode 0x40000000) (ffF32.decode 0x3F800000) = false ∧ (ffF32.decode 0x7FC00000).isNan = true ∧
    ptBit 2 1 = true ∧ ptBit 0 1 = false ∧ (ffF32.decode 0x7FC00000).isNan = true ∧ ffF32.signBit = 2 ^ 31 := by
  decide +kernel

/-- A frame of one syllable, two passes, stride 1, with a syllable behind it. -/
def repHead (pass : Nat) : QEntry := { entryV with op := .v (.rep 1 1 2), pass := pass }
def repBody : QEntry := { eV 8 0 (.int .add vadd0) with no := 1 }
def repLater : QEntry := { eV 8 0 (.int .sub vadd0) with no := 2 }
def sRep (pass : Nat) : State := with0 { team0 with q := { Queues.empty with viq := [repHead pass, repBody, repLater] }, nextNo := 3 }

theorem test_wit_VectorArithmetic_repeat : ∀ p ∈ [0, 1], let s := sRep p
    let u := s.team 0
    u.runs = true ∧ pipesFree (s.passPipes (coreOf 0)) 0 = true ∧ u.q.viq = repHead p :: ([repBody] ++ [repLater]) ∧ (u.q.viq.map QEntry.no).Nodup ∧
      (repHead p).op = .v (.rep 1 1 2) ∧ (∀ x ∈ [repBody], x.counts = true) ∧ (repHead p).pass < 2 ∧ [repBody][(repHead p).idx]? = some repBody ∧
      repBody.op = .v (.int .add vadd0) ∧ u.faultBefore repBody.no = false ∧
      s.vHolds 0 { no := if (repHead p).pass = 0 then repBody.no else maxNo [repBody] (repHead p).no, e := repBody
                   op := VOp.shift (BitVec.ofNat 5 ((repHead p).pass * 1)) (.int .add vadd0) } = false ∧
      u.vec.vPoison = [] ∧ repBody.w = 32 ∧ repBody.gl * repBody.w ≤ 65536 ∧ rising u.vec.v = true ∧ s.ms.ok = true := by
  decide +kernel

/-! ### Elements of vector memory syllables (R246 to R259) -/

def vld0 : VLd := { d := 1, a := 1, b := 0, o := false, c := 0, v := false, m := 0 }
def vam0 : VAm := { d := 1, a := 1, b := 2, c := 0, m := 0 }

/-- A memory syllable with address y, alone in its queue, its next element `i` of 4. -/
def eMem (o : VMem) (y : Word) (i : Nat) : QEntry := { eV 8 i (.mem o) with y := y }
def sMem (e : QEntry) (ms : MemSys) (links : List Nat) : State :=
  { with0 { team0 with q := { Queues.empty with viq := [e] }, nextNo := 1 } with ms := ms.setLinks 0 links }

/-- The state and what stays fixed once such an access has begun. -/
def begun (s : State) (o : VMem) (h : QEntry) : State := (vmBegin (s.passPipes (coreOf 0)) 0 o (vmCaptured (s.team 0).vec o h)).1
def fixedOf (s : State) (o : VMem) (h : QEntry) : VmCtx := vmCtx (begun s o h) 0 o (vmCaptured (s.team 0).vec o h)

/-- What `AtElem` asks, as one test. -/
def atElemB (s : State) (h : QEntry) (o : VMem) (word : Option Xlat) : Bool :=
  readyB s 0 h [] (.mem o) && decide (h.start < h.gl) &&
    decide ((vmBegin (s.passPipes (coreOf 0)) 0 o (vmCaptured (s.team 0).vec o h)).2.toOption = some word) &&
    decide ((fixedOf s o h).me = 4 ∨ (fixedOf s o h).me = 8 ∨ (fixedOf s o h).me = 16 ∨ (fixedOf s o h).me = 32 ∨ (fixedOf s o h).me = 64) &&
    canonical 0#8 s.ms.mem

theorem atElem {s : State} {h : QEntry} {o : VMem} {word : Option Xlat} (b : atElemB s h o word = true) :
    AtElem s 0 h [] o (begun s o h) (fixedOf s o h) word := by
  simp only [atElemB, Bool.and_eq_true, decide_eq_true_eq] at b
  obtain ⟨⟨⟨⟨a1, a2⟩, a3⟩, a4⟩, a5⟩ := b
  exact ⟨readyAt a1, a2, ok_eq rfl a3, rfl, a4, a5⟩

/-- What `InG` asks, as one test. -/
def inGB (s' : State) (c : VmCtx) (x : Xlat) (bit : Nat) : Bool :=
  decide (vmSpace c.o = 0) && decide (c.bit c.e.start = some bit) && decide (8 ≤ c.me → bit / 8 % (c.me / 8) = 0) &&
    c.en (s'.team c.tk).vec c.e.start && (match (vmProbe s' c).2 with | some p => p.bad.isNone | none => true) &&
    decide ((vmXlat (vmProbe s' c).1 { c with e := { c.e with probe := (vmProbe s' c).2 } } (bit / 8) c.e.start).2.toOption = some x) &&
    vmPageOk c (s'.team c.tk).vec x bit c.e.start

theorem inG {s' : State} {c : VmCtx} {x : Xlat} {bit : Nat} (b : inGB s' c x bit = true) :
    InG s' c (vmXlat (vmProbe s' c).1 { c with e := { c.e with probe := (vmProbe s' c).2 } } (bit / 8) c.e.start).1 x bit := by
  simp only [inGB, Bool.and_eq_true, decide_eq_true_eq] at b
  obtain ⟨⟨⟨⟨⟨⟨a1, a2⟩, a3⟩, a4⟩, a5⟩, a6⟩, a7⟩ := b
  refine ⟨a1, a2, a3, a4, fun p f hp hb => ?_, ok_eq rfl a6, a7⟩
  rw [hp] at a5
  simp only [hb] at a5
  cases a5

/-- What `InL` asks, as one test. -/
def inLB (s' : State) (c : VmCtx) (core off bit : Nat) : Bool :=
  decide (vmSpace c.o ≠ 0) && decide (c.bit c.e.start = some bit) && decide (8 ≤ c.me) && c.en (s'.team c.tk).vec c.e.start &&
    (match (vmProbe s' c).2 with | some p => p.bad.isNone | none => true) && liesAt (lmLoc s' c.tk (vmSpace c.o) (bit / 8) (c.me / 8)) core off

theorem inL {s' : State} {c : VmCtx} {core off bit : Nat} (b : inLB s' c core off bit = true) : InL s' c core off bit := by
  simp only [inLB, Bool.and_eq_true, decide_eq_true_eq] at b
  obtain ⟨⟨⟨⟨⟨a1, a2⟩, a3⟩, a4⟩, a5⟩, a6⟩ := b
  refine ⟨a1, a2, a3, a4, fun p f hp hb => ?_, liesAt_eq a6⟩
  rw [hp] at a5
  simp only [hb] at a5
  cases a5

def bankPage : TlbEnt := { page with place := .bank 0 0 }

/-- A strided load, one at the homes, and a `vgl`, at their first element in the page: its bytes are read from 0x10040 on. -/
theorem test_wit_GlobalAccess_elements :
    (∀ o ∈ [VMem.load .strided vld0, .load .strided { vld0 with o := true }], let h := eMem o 0x10040 0; let s := sMem h mem0 []
      AtElem s 0 h [] o (begun s o h) (fixedOf s o h) none ∧ ∃ m, InG (begun s o h) (fixedOf s o h) m xp (8 * 0x10040)) ∧
    (let o := VMem.gl { vld0 with b := 2 }; let h := eMem o 0x10040 0; let s := sMem h mem0 []
     AtElem s 0 h [] o (begun s o h) (fixedOf s o h) none ∧
       ∃ m, InG (begun s o h) (fixedOf s o h) m { pa := 0x10040, ent := bankPage } (8 * 0x10040)) := by
  refine ⟨fun o ho => ?_, atElem (by decide +kernel), _, inG (by decide +kernel)⟩
  simp only [List.mem_cons, List.not_mem_nil, or_false] at ho
  rcases ho with rfl | rfl
  · exact ⟨atElem (by decide +kernel), _, inG (by decide +kernel)⟩
  · exact ⟨atElem (by decide +kernel), _, inG (by decide +kernel)⟩

/-- Loads of local memory: plain, and full/empty with the granule read before, full, empty. -/
def granule0 : MemSys := { mem0 with fe := [(2, true)] }
def vldL (c : BitVec 3) : VMem := .load .strided { vld0 with c := c }

theorem test_wit_GlobalAccess_local :
    (∀ c ∈ [1#3, 2#3, 3#3, 4#3], let h := eMem (vldL c) 0x20 0; let s := sMem h granule0 []
      AtElem s 0 h [] (vldL c) (begun s (vldL c) h) (fixedOf s (vldL c) h) none ∧ InL (begun s (vldL c) h) (fixedOf s (vldL c) h) 0 0x20 0x100) ∧
    granule0.isFull 0 0x20 = true ∧ mem0.isFull 0 0x20 = false ∧ granule0.lmBad 0 0x20 = false ∧
    (let h := { eMem (vldL 4) 0x20 0 with grans := [(2, 7#128)] }; let s := sMem h mem0 []
     AtElem s 0 h [] (vldL 4) (begun s (vldL 4) h) (fixedOf s (vldL 4) h) none ∧ InL (begun s (vldL 4) h) (fixedOf s (vldL 4) h) 0 0x20 0x100 ∧
       find? h.grans (0x100 / 128) = some 7#128) ∧
    (let h := eMem (vldL 4) 0x20 0; let s := sMem h mem0 []
     AtElem s 0 h [] (vldL 4) (begun s (vldL 4) h) (fixedOf s (vldL 4) h) none ∧ InL (begun s (vldL 4) h) (fixedOf s (vldL 4) h) 0 0x20 0x100) := by
  refine ⟨fun c hc => ?_, by decide, by decide, by decide, ⟨atElem (by decide +kernel), inL (by decide +kernel), by decide⟩,
    atElem (by decide +kernel), inL (by decide +kernel)⟩
  simp only [List.mem_cons, List.not_mem_nil, or_false] at hc
  rcases hc with rfl | rfl | rfl | rfl <;> exact ⟨atElem (by decide +kernel), inL (by decide +kernel)⟩

/-- A disabled element; one beyond a tensor's extents, kept and zero-filled; a misaligned one, one that does not translate, and one in a
scale area. -/
theorem test_wit_GlobalAccess_passes :
    (let o := VMem.load .strided { vld0 with m := 1 }; let h := eMem o 0x10040 3; let s := sMem h mem0 []
     AtElem s 0 h [] o (begun s o h) (fixedOf s o h) none ∧ (fixedOf s o h).en (s.team 0).vec 3 = false) ∧
    (∀ z ∈ [0, 1], let o := VMem.load .tensor { vld0 with b := 2 }; let h := { eMem o 0x10040 0 with cap := some (BitVec.ofNat 65536 (z * 2 ^ 320)), gl := 16 }
     let s := sMem h mem0 []
     AtElem s 0 h [] o (begun s o h) (fixedOf s o h) none ∧ (fixedOf s o h).bit 0 = none ∧ vmZeroFill o (fixedOf s o h).e = decide (z = 1)) ∧
    (∀ y ∈ [0x10041#64, 0x50000#64, 0x6E000#64], let o := VMem.load .strided vld0; let h := eMem o y 0; let s := sMem h mem0 []
     AtElem s 0 h [] o (begun s o h) (fixedOf s o h) none ∧ (fixedOf s o h).en (s.team 0).vec 0 = true ∧ (fixedOf s o h).bit 0 = some (8 * y.toNat)) := by
  refine ⟨⟨atElem (by decide +kernel), by decide +kernel⟩, fun z hz => ?_, fun y hy => ?_⟩
  · simp only [List.mem_cons, List.not_mem_nil, or_false] at hz
    rcases hz with rfl | rfl <;> exact ⟨atElem (by decide +kernel), by decide +kernel⟩
  · simp only [List.mem_cons, List.not_mem_nil, or_false] at hy
    rcases hy with rfl | rfl | rfl <;> exact ⟨atElem (by decide +kernel), by decide +kernel⟩

theorem test_wit_GlobalAccess_checks : let o := VMem.load .strided vld0
    let c := fun (y : Word) => fixedOf (sMem (eMem o y 0) mem0 []) o (eMem o y 0)
    let s := fun (y : Word) => begun (sMem (eMem o y 0) mem0 []) o (eMem o y 0)
    (8 ≤ (c 0x10041).me ∧ 0x10041 % ((c 0x10041).me / 8) ≠ 0) ∧ (vmXlat (s 0x50000) (c 0x50000) 0x50000 0).2.toOption = none ∧
    ∃ x, (vmXlat (s 0x6E000) (c 0x6E000) 0x6E000 0).2.toOption = some x ∧ vmPageOk (c 0x6E000) team0.vec x (8 * 0x6E000) 0 = false :=
  ⟨by decide +kernel, by decide +kernel, { pa := 0x6E000, ent := blkPage }, by decide +kernel, by decide +kernel⟩

/-- Stores: plain and ntf into the page, plain and filling into local memory. -/
def vstS (c : BitVec 3) (n : Bool) : VMem := .store .strided { vst0 with c := c, n := n }
def ntfEntry : QEntry := { eMem (vstS 0 true) 0x10040 0 with ntfw := 0x10080 }

theorem test_wit_GlobalAccess_stores :
    (let h := eMem (vstS 0 false) 0x10040 0; let s := sMem h mem0 []
     AtElem s 0 h [] (vstS 0 false) (begun s (vstS 0 false) h) (fixedOf s (vstS 0 false) h) none ∧
       ∃ m, InG (begun s (vstS 0 false) h) (fixedOf s (vstS 0 false) h) m xp (8 * 0x10040)) ∧
    (let s := sMem ntfEntry mem0 []
     AtElem s 0 ntfEntry [] (vstS 0 true) (begun s (vstS 0 true) ntfEntry) (fixedOf s (vstS 0 true) ntfEntry) (some xk) ∧
       (∃ m, InG (begun s (vstS 0 true) ntfEntry) (fixedOf s (vstS 0 true) ntfEntry) m xp (8 * 0x10040)) ∧
       ntfEntry.seb.toNat + ntfEntry.gl < 2 ^ 64) ∧
    (∀ c ∈ [1#3, 2#3, 5#3], let h := eMem (vstS c false) 0x20 0; let s := sMem h mem0 []
     AtElem s 0 h [] (vstS c false) (begun s (vstS c false) h) (fixedOf s (vstS c false) h) none ∧
       InL (begun s (vstS c false) h) (fixedOf s (vstS c false) h) 0 0x20 0x100) ∧
    (let h := eMem (vstS 5 false) 0x20 3; let s := sMem h mem0 []
     AtElem s 0 h [] (vstS 5 false) (begun s (vstS 5 false) h) (fixedOf s (vstS 5 false) h) none ∧
       InL (begun s (vstS 5 false) h) (fixedOf s (vstS 5 false) h) 0 0x2C 0x160) := by
  refine ⟨⟨atElem (by decide +kernel), _, inG (by decide +kernel)⟩, ⟨atElem (by decide +kernel), ⟨_, inG (by decide +kernel)⟩, by decide⟩, fun c hc => ?_,
    atElem (by decide +kernel), inL (by decide +kernel)⟩
  simp only [List.mem_cons, List.not_mem_nil, or_false] at hc
  rcases hc with rfl | rfl | rfl <;> exact ⟨atElem (by decide +kernel), inL (by decide +kernel)⟩

theorem mark_free {m : MemSys} {x : Xlat} {va lo hi : Nat} (hs : m.space? x.ent.asn = some space1) (h1 : hi ≤ x.ent.leafAt) (h2 : hi ≤ space1.dmap) :
    ∀ p, lo ≤ p ∧ p < hi → ¬markBytes m x va p := by
  rintro p ⟨_, hp⟩ (⟨a, _⟩ | ⟨sp, h, e⟩)
  · omega
  · cases hs.symm.trans h
    omega

/-- An ntf store that raises its progress word: element, word, leaves and dirty map lie apart. -/
theorem test_wit_GlobalAccess_ntf : let s := sMem ntfEntry mem0 []
    ∃ m, InG (begun s (vstS 0 true) ntfEntry) (fixedOf s (vstS 0 true) ntfEntry) m xp (8 * 0x10040) ∧ ((m.core 0).l1.map Line.pa).Nodup ∧
      m.isPop (xp.pa / 64 * 64) = true ∧ m.isPop (xk.pa / 64 * 64) = true ∧ xk.pa % 64 + 8 ≤ 64 ∧ vmWord (vstS 0 true) ntfEntry = 0x10080#64 ∧
      (m.evictLine 0 xk.pa).homeRead xk.pa 8 < (ntfEntry.seb.toNat + 0 + 1) % 2 ^ 64 ∧
      (∀ p, xp.pa ≤ p ∧ p < xp.pa + 4 → ¬(xk.pa ≤ p ∧ p < xk.pa + 8) ∧ ¬markBytes m xk 0x10080 p) ∧
      ∀ p, xk.pa ≤ p ∧ p < xk.pa + 8 → ¬markBytes m xp (8 * 0x10040 / 8) p := by
  refine ⟨_, inG (by decide +kernel), by decide +kernel, by decide +kernel, by decide +kernel, by decide, by decide +kernel, by decide +kernel,
    fun p h => ⟨fun g => ?_, mark_free (by decide +kernel) (by decide) (by decide) p h⟩, mark_free (by decide +kernel) (by decide) (by decide)⟩
  have : xp.pa = 0x10040 := rfl
  have : xk.pa = 0x10080 := rfl
  omega

/-- Before the marks are noted, they lie apart from the element and from the word, and core 0 holds no line. -/
def memFresh : MemSys := { mem0 with tlb := [{ page with dc := false, marked := [] }] }

theorem test_wit_GlobalAccess_marks : let s := sMem ntfEntry memFresh []
    let x := { xp with ent := { page with dc := false, marked := [] } }
    ∃ m, InG (begun s (vstS 0 true) ntfEntry) (fixedOf s (vstS 0 true) ntfEntry) m x (8 * 0x10040) ∧ (m.current x.ent).dc = false ∧
      (m.current x.ent).marked.contains 1 = false ∧ m.space? x.ent.asn = some space1 ∧
      ∀ p, markBytes m x (8 * 0x10040 / 8) p → ¬(x.pa ≤ p ∧ p < x.pa + 4) ∧ ¬(xk.pa ≤ p ∧ p < xk.pa + 8) ∧ m.noDirty 0 p := by
  refine ⟨_, inG (by decide +kernel), by decide +kernel, by decide +kernel, by decide +kernel, fun p h =>
    ⟨fun g => mark_free (by decide +kernel) (by decide) (by decide) p g h, fun g => mark_free (by decide +kernel) (by decide) (by decide) p g h, ?_⟩⟩
  exact noDirty_nil (by decide +kernel)

/-- Vector atomics in the page and in local memory, and a `vsc` of a line that is linked, and of one that is not. -/
theorem test_wit_Atomics_elements :
    (let o := VMem.amo .add vam0; let h := eMem o 0x10040 0; let s := sMem h mem0 []
     AtElem s 0 h [] o (begun s o h) (fixedOf s o h) none ∧
       ∃ m, InG (begun s o h) (fixedOf s o h) m { pa := 0x10040, ent := bankPage } (8 * 0x10040) ∧ (m.evictLine 0 0x10040).poisoned 0x10040 = false) ∧
    (let o := VMem.amo .swap { vam0 with c := 1 }; let h := eMem o 0x20 0; let s := sMem h mem0 []
     AtElem s 0 h [] o (begun s o h) (fixedOf s o h) none ∧ InL (begun s o h) (fixedOf s o h) 0 0x20 0x100) ∧
    (∀ l ∈ [[], [0x10040 / 64]], let o := VMem.sc { vst0 with b := 2, c := 0, m := 0 }; let h := eMem o 0x10040 0; let s := sMem h mem0 l
     AtElem s 0 h [] o (begun s o h) (fixedOf s o h) none ∧ 8 ≤ (fixedOf s o h).me ∧
       ∃ m, InG (begun s o h) (fixedOf s o h) m { pa := 0x10040, ent := bankPage } (8 * 0x10040) ∧
         ((m.evictLine 0 0x10040).linkSet 0).contains (0x10040 / 64) = decide (l ≠ [])) := by
  refine ⟨⟨atElem (by decide +kernel), _, inG (by decide +kernel), by decide +kernel⟩, ⟨atElem (by decide +kernel), inL (by decide +kernel)⟩, fun l hl => ?_⟩
  simp only [List.mem_cons, List.not_mem_nil, or_false] at hl
  rcases hl with rfl | rfl <;> exact ⟨atElem (by decide +kernel), by decide +kernel, _, inG (by decide +kernel), by decide +kernel⟩

/-! ### The matrix queue (R275 to R291) -/

/-- A tile of two rows and three columns at the last place, K 17; operands at 0x40, 32 bytes a row. -/
def tile0 : Word := 0x00110201FDFE
def opd0 : Word := 0x8000040
def eM (op : MOp) : QEntry := { entryM with op := .m op, x := tile0, y := opd0, z := opd0 }
def sM (op : MOp) : State := with0 { team0 with q := { Queues.empty with mq := [eM op] }, nextNo := 1 }

/-- What `ReadyM` asks of a lone syllable, as one test. -/
def readyMB (s : State) (e : QEntry) (o : MOp) : Bool :=
  (s.team 0).runs && decide ((s.team 0).q.mq = [e]) && decide (e.op = .m o) && !(s.team 0).faultBefore e.no && !(s.team 0).mWaits e &&
    !(s.team 0).relWaits e.no && mServe s 0 && decide (e.start < mopSteps o e) &&
    !mVecPoison s 0 o e && (mopFault (s.team 0).lmSize o e (s.team 0).vec (s.team 0).bind.tidx).isNone && (mStepPoison s 0 o e).isNone &&
    decide ((Tile.of e.x).col0 + (Tile.of e.x).n ≤ 256) && rising (s.team 0).vec.acc && s.ms.ok

theorem readyM {s : State} {e : QEntry} {o : MOp} (b : readyMB s e o = true) : ReadyM s 0 e [] o := by
  simp only [readyMB, Bool.and_eq_true, decide_eq_true_eq, Bool.not_eq_true', Option.isNone_iff_eq_none] at b
  obtain ⟨⟨⟨⟨⟨⟨⟨⟨⟨⟨⟨⟨⟨a1, a2⟩, a3⟩, a4⟩, a5⟩, a6⟩, a7⟩, a8⟩, aw⟩, a9⟩, a10⟩, a11⟩, a12⟩, a13⟩ := b
  exact ⟨by decide, a1, a2, a3, fun _ h => absurd h List.not_mem_nil, a4, a5, fun _ => a6, a7, a8, fun _ => a9, aw, a10, fun _ => a11, a12, a13⟩

def mf0 : MF := { t := 1, a := 2, b := 3, f := 4, u := true, v := false, s := false, c := false }

theorem test_wit_MatrixSteps : ∀ o ∈ [MOp.zero, .ld, .st, .drain 0 0 false, .drain 1 0 true, .drain 2 5 true, .add false true true, .add true false false,
      .sum false false true, .sum true true false, .mma false mf0], ReadyM (sM o) 0 (eM o) [] o := by
  have h : [MOp.zero, .ld, .st, .drain 0 0 false, .drain 1 0 true, .drain 2 5 true, .add false true true, .add true false false,
      .sum false false true, .sum true true false, .mma false mf0].all (fun o => readyMB (sM o) (eM o) o) = true := by decide +kernel
  exact fun o m => readyM (List.all_eq_true.mp h o m)

/-- Every format of `mma`, and of `mma.g`. -/
theorem test_wit_MatrixSteps_formats : ∀ g ∈ [false, true], ∀ f ∈ List.range 9, let o := MOp.mma g { mf0 with f := BitVec.ofNat 4 f, u := false }
    ReadyM (sM o) 0 (eM o) [] o := by
  have h : [false, true].all (fun g => (List.range 9).all (fun f => readyMB (sM (.mma g { mf0 with f := BitVec.ofNat 4 f, u := false }))
      (eM (.mma g { mf0 with f := BitVec.ofNat 4 f, u := false })) (.mma g { mf0 with f := BitVec.ofNat 4 f, u := false }))) = true := by decide +kernel
  exact fun g m f n => readyM (List.all_eq_true.mp (List.all_eq_true.mp h g m) f n)

theorem test_wit_MatrixSteps_mma : mf0.f = 4#4 ∧ mf0.s = false ∧ (Tile.of tile0).tb = false ∧ (Tile.of tile0).split = false ∧
    0 < (Tile.of tile0).k ∧ (Tile.of tile0).row0 + (Tile.of tile0).m ≤ 256 := by
  decide

/-! ### Near-memory and copy units -/

/-- Four bytes each: dst at 0x11000, src at 0x12000; the run of four elements ends at the block's end. -/
def cmd0 : NmCmd :=
  { w := 8, g := 8, rm := 0, count := 6, dst := 0x11FF0, src := 0x12000, aux1 := 0, aux2 := 0, k0 := 0x3F800000, k1 := 0, k2 := 0, k3 := 0, k4 := 0 }
def share0 : NmShare := { stack := 5, next := 0, status := 0 }
def job0 : NmJob :=
  { id := 3, owner := .gone, slot := 0, all := false, asn := 1, root := 0x80000, atH := false, opcode := 3, cmd := cmd0, malformed := false, preStatus := 0
    shares := [share0], flags := 0, count := 0, sum := Terms.none, resPa := 0, recG := true, recAddr := 0x13000, recVa := 0x13000, ckr := 0, sync := 0
    scope := 0 }
def sJob (j : NmJob) : State := { sA with jobs := [j], cur := { cur0 with j := 3, stack := 5 } }

theorem runsNm (op : Nat) (i : Instr) (h : nmInstr op cmd0 = some i) (g : nmStack (sJob { job0 with opcode := op }) { job0 with opcode := op } (nmAddr cmd0 (nmOwner op) 0) = 5) :
    RunsNm (sJob { job0 with opcode := op }) op cmd0 i { job0 with opcode := op } share0 :=
  ⟨h, rfl, ⟨rfl, rfl⟩, rfl, ⟨rfl, by decide⟩, g⟩

theorem test_wit_NearMemoryRuns : RunsNm (sJob job0) 3 cmd0 (.nmScale cmd0) job0 share0 ∧ (sJob job0).cur.stack < 12 ∧ runEnd 3 cmd0 0 = 4 :=
  ⟨runsNm 3 _ rfl (by decide), by decide⟩

/-- One element left, of every command: each operand in a block of its own. -/
def one0 : NmCmd := { cmd0 with dst := 0x11000, aux1 := 0x13000, aux2 := 0x14000, k1 := 0x3F000000, count := 1 }
def shareOf (op : Nat) : NmShare := { share0 with stack := if op = 8 then 6 else 5 }
def oneJob (op : Nat) : NmJob := { job0 with opcode := op, cmd := one0, shares := [shareOf op], recAddr := 0x15000, recVa := 0x15000 }
def sOne (op : Nat) : State := { sA with jobs := [oneJob op], cur := { cur0 with j := 3, stack := (shareOf op).stack } }

theorem test_wit_NearMemoryRuns_element : ∀ op ∈ [1, 2, 3, 4, 5, 6, 7, 8, 9],
    (∃ i, RunsNm (sOne op) op one0 i (oneJob op) (shareOf op)) ∧ runEnd op one0 0 = 0 + 1 ∧ Memory.wf (sOne op).ms.mem := by
  intro op h
  simp only [List.mem_cons, List.not_mem_nil, or_false] at h
  rcases h with rfl | rfl | rfl | rfl | rfl | rfl | rfl | rfl | rfl <;>
    exact ⟨⟨_, rfl, rfl, ⟨rfl, rfl⟩, rfl, ⟨rfl, by decide⟩, by decide⟩, by decide, by decide⟩

/-- What an operand's element translates to. -/
def nmAt (a : Nat) : Xlat := { pa := a, ent := hubPage }

theorem test_wit_NearMemoryRuns_operands : ∀ op ∈ [1, 2, 3, 4, 5, 6, 7, 8, 9], let s := sOne op; let j := oneJob op
    nmXlat s j .write (nmAddr one0 .w 0) = (s, .ok (nmAt 0x11000)) ∧ nmXlat s j .read (nmAddr one0 .g 0) = (s, .ok (nmAt 0x12000)) ∧
      nmXlat s j .write (nmAddr one0 .m 0) = (s, .ok (nmAt 0x13000)) ∧ nmXlat s j .write (nmAddr one0 .v 0) = (s, .ok (nmAt 0x14000)) ∧
      ∀ l ∈ [nmAt 0x11000, nmAt 0x12000, nmAt 0x13000, nmAt 0x14000], s.ms.poisoned l.pa = false := by
  intro op h
  simp only [List.mem_cons, List.not_mem_nil, or_false] at h
  rcases h with rfl | rfl | rfl | rfl | rfl | rfl | rfl | rfl | rfl <;>
    exact ⟨ok_eq (by decide +kernel) (by decide +kernel), ok_eq (by decide +kernel) (by decide +kernel), ok_eq (by decide +kernel) (by decide +kernel),
      ok_eq (by decide +kernel) (by decide +kernel), by decide⟩

/-- A byte below the tables is no byte R179 writes. -/
theorem unmarked {m : MemSys} {x : Xlat} {va p : Nat} (l : x.ent.leafAt = 0x20000) (a : m.space? x.ent.asn = some space1) (h : p < 0x20000) :
    ¬markBytes m x va p := by
  rintro (⟨h1, _⟩ | ⟨sp, h1, h2⟩)
  · omega
  · rw [a] at h1
    obtain rfl := Option.some.inj h1
    have : space1.dmap = 0x100000 := rfl
    omega

/-- The element and its two moments lie apart. -/
theorem test_wit_NearMemoryRuns_apart : let all := [(nmAt 0x11000, 0x11000, 4), (nmAt 0x13000, 0x13000, 4), (nmAt 0x14000, 0x14000, 4)]
    ∀ e ∈ all, ∀ d ∈ all, ∀ p, d.1.pa ≤ p → p < d.1.pa + d.2.2 → ¬markBytes (sOne 7).ms e.1 e.2.1 p ∧ (e = d ∨ p < e.1.pa ∨ e.1.pa + e.2.2 ≤ p) := by
  intro all e he d hd p h1 h2
  simp only [all, List.mem_cons, List.not_mem_nil, or_false] at he hd
  rcases he with rfl | rfl | rfl <;> rcases hd with rfl | rfl | rfl <;> simp only [nmAt] at h1 h2 <;>
    exact ⟨unmarked rfl rfl (by omega), by first | exact .inl rfl | (right; simp only [nmAt]; omega)⟩

/-- A broadcast command whose next run is another stack's. -/
def allJob : NmJob := { job0 with all := true }

theorem test_wit_NearMemoryRuns_other : (sJob allJob).job? 3 = some allJob ∧ allJob.all = true ∧
    allJob.shares.find? (fun x => decide (x.stack = 5) || !allJob.all) = some share0 ∧
    nmStack (sJob { allJob with cmd := { cmd0 with dst := 0x12000 } }) allJob (nmAddr { cmd0 with dst := 0x12000 } .w 0) ≠ 5 := by
  decide

/-- Finished jobs of a command whose issuer is gone: a malformed one, and one performed whole. -/
def doneJob : NmJob := { job0 with shares := [{ share0 with next := 6 }], count := 6 }

theorem test_wit_NearMemoryRuns_record : (∀ j ∈ [{ job0 with malformed := true }, doneJob],
      j.finished = true ∧ j.owner = .gone ∧ j.recG = true ∧ j.sync = 0#2 ∧ j.opcode ≠ 8) ∧
    doneJob.malformed = false ∧ doneJob.preStatus = 0 ∧ ∀ x ∈ doneJob.shares, x.status = 0 := by
  decide

/-- A record in local memory, and one whose command's entry its team still holds. -/
def liveJob : NmJob := { doneJob with owner := .team 0 0, recG := false, recAddr := 0x20 }

theorem test_wit_NearMemoryRuns_live : let e := { captures sA (.c { kind := .cnm, d := 0, a := 0, sync := 0, scope := 0, tag := 3 }) 0 0 0 with idx := 1, start := 1 }
    let s := { with0 { team0 with q := { Queues.empty with cq0 := [e] }, nextNo := 1 } with jobs := [liveJob] }
    s.job? 3 = some liveJob ∧ liveJob.finished = true ∧ liveJob.sync = 0#2 ∧ s.ms.ok = true ∧ liveJob.owner = .team 0 0 ∧
      (s.team 0).cEntry 0 = some e ∧ e.no = 0 := by
  decide +kernel

def cmdC (k : CKind) (y : BitVec 2) : COp := { kind := k, d := 0, a := 0, sync := y, scope := 1, tag := 3 }

/-- A C syllable into local memory from 0x100 on, from the page at 0x10040, 600 bytes. -/
def eC (k : CKind) (y : BitVec 2) (idx : Nat) : QEntry :=
  { captures sA (.c (cmdC k y)) 0 0 0 with x := 0x4000000000000100, y := 0x10040, z := 600, idx := idx, start := 1 }
def sC (e : QEntry) : State := with0 { team0 with q := { Queues.empty with cq0 := [e] }, nextNo := 1 }

theorem headC (k : CKind) (y : BitVec 2) (idx : Nat) (h : ((sC (eC k y idx)).team 0).faultBefore 0 = false) :
    HeadC (sC (eC k y idx)) 0 0 (eC k y idx) [] (cmdC k y) :=
  ⟨by decide, rfl, rfl, rfl, fun _ hx => absurd hx List.not_mem_nil, h, rfl⟩

theorem test_wit_EngineUnits_cfence : HeadC (sC (eC .cfence 0 0)) 0 0 (eC .cfence 0 0) [] (cmdC .cfence 0) := headC _ _ _ (by decide)

theorem test_wit_EngineUnits_cfill : HeadC (sC (eC .cfill 0 1)) 0 0 (eC .cfill 0 1) [] (cmdC .cfill 0) ∧
    (let u := (sC (eC .cfill 0 1)).team 0
     let e := eC .cfill 0 1
     (cmdC .cfill 0).sync.getLsbD 0 = false ∧ u.lmWaits e.no (cTouch u e) = false ∧ (sC e).ms.ok = true ∧ (CDesc.of e.x).sp = 2 ∧
       u.lmSize ≤ 2 ^ 22 ∧ (CDesc.of e.x).addr + e.z.toNat ≤ u.lmSize ∧ 256 * (e.start + 1) < e.z.toNat ∧
       u.relWaits e.no = false ∧ mayServe (sC e) 0 0 = true) :=
  ⟨headC _ _ _ (by decide), by decide⟩

theorem test_wit_EngineUnits_acquire : HeadC (sC (eC .cpy 1 1)) 0 0 (eC .cpy 1 1) [] (cmdC .cpy 1) ∧ (cmdC .cpy 1).sync.getLsbD 0 = true ∧
    (eC .cpy 1 1).acq = false ∧ ((sC (eC .cpy 1 1)).team 0).relWaits 0 = false ∧ Memory.wf (sC (eC .cpy 1 1)).ms.mem ∧ ((sC (eC .cpy 1 1)).team 0).gStoreBefore 0 = false ∧ knotAddr (eC .cpy 1 1).cka = 0 :=
  ⟨headC _ _ _ (by decide), by decide⟩

/-- Numbers that rise, and so are apart. -/
def rises : List Nat → Bool
  | [] | [_] => true
  | a :: b :: r => decide (a < b) && rises (b :: r)

theorem rises_lt {a : Nat} {l : List Nat} (h : rises (a :: l) = true) : rises l = true ∧ ∀ b ∈ l, a < b := by
  induction l generalizing a with
  | nil => exact ⟨rfl, fun _ h => absurd h List.not_mem_nil⟩
  | cons b l ih =>
    simp only [rises, Bool.and_eq_true, decide_eq_true_eq] at h
    refine ⟨h.2, fun c hc => ?_⟩
    rcases List.mem_cons.mp hc with rfl | hc
    · exact h.1
    · exact Nat.lt_trans h.1 ((ih h.2).2 c hc)

theorem rises_nodup {l : List Nat} (h : rises l = true) : l.Nodup := by
  induction l with
  | nil => exact List.nodup_nil
  | cons a l ih => exact List.nodup_cons.mpr ⟨fun m => Nat.lt_irrefl a ((rises_lt h).2 a m), ih (rises_lt h).1⟩

/-- What a unit that moves bytes asks, as one test: what it reads is `r`, and the places it writes are apart. -/
def movesB (c : CopyCtx) (sp : Nat) (r : State × Except TrapInfo (List (Nat × Byte))) : Bool :=
  match r.2 with
  | .ok out => (match (copyPlaces c sp out r.1).2 with
    | .ok ls => rises (ls.filterMap locLm) && rises (ls.filterMap locPa)
    | .error _ => false)
  | .error _ => false

theorem moves_of {c : CopyCtx} {sp : Nat} {r : State × Except TrapInfo (List (Nat × Byte))} (b : movesB c sp r = true) :
    ∃ s1 out s2 ls, r = (s1, .ok out) ∧ copyPlaces c sp out s1 = (s2, .ok ls) ∧ (ls.filterMap locLm).Nodup ∧ (ls.filterMap locPa).Nodup := by
  obtain ⟨s1, x⟩ := r
  cases x with
  | error f => cases b
  | ok out =>
    simp only [movesB] at b
    split at b
    · rename_i ls h
      simp only [Bool.and_eq_true] at b
      exact ⟨s1, out, (copyPlaces c sp out s1).1, ls, rfl, by rw [← h], rises_nodup b.1, rises_nodup b.2⟩
    · cases b

/-- A plain copy, its first unit; one into the page. -/
def eCpy (x y : Word) : QEntry := { eC .cpy 0 1 with x := x, y := y, start := 0 }

theorem test_wit_EngineUnits_cpy : ∀ e ∈ [eCpy 0x4000000000000100 0x10040, eCpy 0x11000 0x10040], let s := sC e
    HeadC s 0 0 e [] (cmdC .cpy 0) ∧ (cmdC .cpy 0).sync.getLsbD 0 = false ∧ (s.team 0).lmWaits e.no (cTouch (s.team 0) e) = false ∧
      (s.team 0).relWaits e.no = false ∧ mayServe s 0 0 = true ∧ s.ms.ok = true ∧ e.start + 1 < copyUnits .cpy e.cap e.z ∧ (CDesc.of e.y).dec = false ∧
      movesB ((s.team 0).copyCtx 0 e) (CDesc.of e.x).sp (copyReadAll ((s.team 0).copyCtx 0 e) (cpyBytes (CDesc.of e.x) (CDesc.of e.y) 600 e.start) s) = true := by
  intro e h
  simp only [List.mem_cons, List.not_mem_nil, or_false] at h
  rcases h with rfl | rfl <;>
    exact ⟨⟨by decide, rfl, rfl, rfl, fun _ hx => absurd hx List.not_mem_nil, by decide, rfl⟩, by decide +kernel⟩

/-- A decoding copy out of the blocked page into i64, its format found by this unit. -/
def eDec : QEntry := { eCpy 0x4000000000000100 0x1000000000060000 with vtype := 7 }

theorem test_wit_EngineUnits_dec : let e := eDec; let s := sC e
    let c := (s.team 0).copyCtx 0 e
    HeadC s 0 0 e [] (cmdC .cpy 0) ∧ (CDesc.of e.y).dec = true ∧ e.start + 1 < copyUnits .cpy e.cap e.z ∧ e.cap = none ∧
      (∃ ms, s.ms.translate c.place c.asn c.root c.atH .read (BitVec.ofNat 64 (CDesc.of e.y).addr) = (ms, .ok { pa := 0x60000, ent := blkPage })) ∧
      pageFmt blkPage.leaf = 43 ∧
      (match (decElems c (s.team 0).vec e (CDesc.of e.y).addr (CDesc.of e.x).addr 43 (min 256 (600 - 256 * e.start) / (e.w / 8)) (256 * e.start / (e.w / 8)) s).2 with
       | .ok r => movesB c (CDesc.of e.x).sp (s, .ok r.1)
       | .error _ => false) = true :=
  ⟨⟨by decide, rfl, rfl, rfl, fun _ hx => absurd hx List.not_mem_nil, by decide, rfl⟩, by decide, by decide, rfl, ⟨_, ok_eq rfl (by decide +kernel)⟩,
    by decide, by decide +kernel⟩

/-- A tensor copy of 160 words, both shapes of one extent, and a gather of four rows of 16 bytes, its first row entry read before and
in the table. -/
def shapes : BitVec 65536 :=
  BitVec.ofNat 65536 (0x4000000000000100 + 160 * 2 ^ 64 + 2 ^ 96 + 2 ^ 128 + 2 ^ 160 + 2 ^ 192 +
    (0x10040 + 160 * 2 ^ 64 + 2 ^ 96 + 2 ^ 128 + 2 ^ 160 + 2 ^ 192) * 2 ^ 512)
def eCpyt : QEntry := { eC .cpyt 0 1 with cap := some shapes, z := 4, start := 0 }

theorem test_wit_EngineUnits_cpyt : let e := eCpyt; let s := sC e
    let c := (s.team 0).copyCtx 0 e
    HeadC s 0 0 e [] (cmdC .cpyt 0) ∧ e.start + 1 < copyUnits .cpyt e.cap e.z ∧ (s.team 0).lmWaits e.no (cTouch (s.team 0) e) = false ∧
      tensorAlign (Shape.of shapes 0) (Shape.of shapes 16) 4 (tensorUnit (Shape.of shapes 0) (Shape.of shapes 16) 4 0) = none ∧
      movesB c (CDesc.of (Shape.of shapes 0).base).sp
        (copyReadAll c (tensorBytes (Shape.of shapes 16) 4 (tensorUnit (Shape.of shapes 0) (Shape.of shapes 16) 4 0)) s) = true :=
  ⟨⟨by decide, rfl, rfl, rfl, fun _ hx => absurd hx List.not_mem_nil, by decide, rfl⟩, by decide +kernel⟩

def eCgath (k : Option (BitVec 65536)) : QEntry := { eC .cgath 0 1 with cap := k, z := 16 * 2 ^ 20 + 4, start := 0 }
def sCgath (k : Option (BitVec 65536)) : State := { sC (eCgath k) with ms := { mem0 with mem := storeLE [] 0x10040 8 0x10080 } }

theorem test_wit_EngineUnits_cgath : (∀ k ∈ [none, some (BitVec.ofNat 65536 (2 ^ 64 + 0x10080))], let e := eCgath k; let s := sCgath k
      let c := (s.team 0).copyCtx 0 e
      HeadC s 0 0 e [] (cmdC .cgath 0) ∧ e.start + 1 < copyUnits .cgath e.cap e.z ∧ rowEntryBad 0x10080#64 = false ∧
        movesB c 2 (copyReadAll c (cpyBytes { CDesc.of e.x with addr := 0x100 } (CDesc.of 0x10080) (rowSize e.z) (rowUnit e.z 0).2) s) = true) ∧
    (match (copyReadAll (((sCgath none).team 0).copyCtx 0 (eCgath none)) ((List.range 8).map (fun i => (.mem 0 (0x10040 + i), i))) (sCgath none)).2 with
     | .ok l => decide (readLE (fun i => (l.getD i (0, 0#8)).2) 0 8 = 0x10080)
     | .error _ => false) = true ∧
    (BitVec.ofNat 65536 (2 ^ 64 + 0x10080)).toNat / 2 ^ 64 = (rowUnit (eCgath none).z 0).1 + 1 := by
  refine ⟨fun k h => ?_, by decide +kernel, by decide +kernel⟩
  simp only [List.mem_cons, List.not_mem_nil, or_false] at h
  rcases h with rfl | rfl <;>
    exact ⟨⟨by decide, rfl, rfl, rfl, fun _ hx => absurd hx List.not_mem_nil, by decide, rfl⟩, by decide +kernel⟩

/-- A load in flight that has performed nothing, with and without a full granule. -/
def load0 : PendLoad := { ea := 0x20, size := 4, sx := true, fe := true, fec := true, before := 0, bno := 0 }
def sLoad (m : MemSys) : State :=
  { with0 { team0 with sched := true, flights := [{ reg := 5, val := 0, load := some load0, left := 2 }] } with ms := m }

theorem test_wit_EngineUnits_load : ∀ s ∈ [sLoad mem0, sLoad { mem0 with fe := [(2, true)] }],
    let u := s.team 0
    u.status = .running ∧ u.flights[0]? = some { reg := 5, val := 0, load := some load0, left := 2 } ∧ (∀ g ∈ u.flights, g.left ≠ 0) ∧
      rising s.ms.fe = true ∧ ({ u with flights := [] } : Team).lmWaits load0.before (loadTouch u load0) = false ∧ s.ms.lmBad 0 32 = false ∧
      load0.fe = true := by
  decide

theorem test_wit_EngineUnits_granule : (sLoad mem0).ms.isFull 0 32 = false ∧ (sLoad { mem0 with fe := [(2, true)] }).ms.isFull 0 32 = true := by
  decide

/-! ### Team slots and gangs (R27 to R36, R151 to R169, R362 to R366) -/

/-- A bundle held; a result whose count has run out. -/
def landing : Team := { team0 with held := true, flights := [{ reg := 1, val := 9, load := none, left := 0 }, { reg := 2, val := 8, load := none, left := 1 }] }

theorem test_wit_SlotEvents : ((with0 landing).team 0).held = true ∧ (sA.team 0).held = false ∧ ((with0 landing).team 0).status = .running ∧
    bankOk ((with0 landing).team 0).bank = true ∧ (∀ f ∈ ((with0 landing).team 0).flights, f.left = 0 → f.load = none) ∧
    ((with0 landing).team 0).flights = [] ++ { reg := 1, val := 9, load := none, left := 0 } :: [{ reg := 2, val := 8, load := none, left := 1 }] ∧
    (∀ g ∈ [{ reg := 2, val := 8, load := none, left := 1 : Flight }], g.left = 0 → g.reg ≠ 1#5) := by
  decide

theorem test_wit_SlotEvents_caches :
    rising (({ sA with clusters := [(0, { Cluster.reset 0 with fills := [(9, [0, 3])] })] } : State).cluster 0).fills = true ∧
    Memory.wf sDirty.ms.mem ∧ findLine (sDirty.ms.core 0).l1 0x401 = some line0 ∧ sDirty.ms.isPop (0x401 * 64) = true := by
  decide +kernel

/-- An issued task of one gang of one team. -/
def task0 : WEntry :=
  { entryFor sS (.launch 0 1 1 1 [5]) .issued with seq := some 0, gangs := [.bound] }

/-- The team in slot 0 and the task it belongs to. -/
def withT (t : Team) (w : WEntry) : State :=
  { with0 t with streams := [(0, { stream0 with window := [w], nextId := 1 })], parts := [(0, partS)] }

def escalating (c : Cause) : Team := { teamH with status := .escalating, esc := some { info := { cause := c, tval := 3 }, hpc := 0x5000, cls := .s, qp := false, tvpc := 0, ended := false } }

def broken : EntryCtx := { ctl := { Ctl.start with tcause := 0x0A }, vec := VecState.start, under := [], script := none }

theorem test_wit_EscalatedTraps : ∀ t ∈ [escalating .illegal, { escalating .breakpoint with entry := some broken }, { teamH with status := .heldDebug }],
    let s := withT t task0
    (s.team 0).status ≠ .empty ∧ (s.stream 0).taskOf 0 = some task0 ∧ (s.stream 0).entry? 0 = some task0 ∧ task0.st = .issued ∧
      (s.team 0).toDrain = [] := by
  decide

theorem test_wit_EscalatedTraps_causes : (escalating .illegal).status = .escalating ∧ Cause.illegal ≠ .breakpoint ∧ broken.ctl.tcause = 0x0A#8 ∧
    ({ escalating .illegal with q := queued } : Team).toDrain ≠ [] ∧ ({ teamH with status := .heldDebug } : Team).status = .heldDebug := by
  decide

theorem test_wit_Preemption : ∀ t ∈ [team0, teamH], let s := withT t task0
    (s.team 0).status = .running ∧ s.haltSet 0 = [0] ∧ (s.stream 0).lease.st ≠ .active ∧ ∀ e ∈ (s.team 0).q.all, e.fault = none := by
  decide

def sHalted : State := withT { team0 with status := .halted, was := .running } task0

theorem test_wit_ContextSave : (sHalted.team 0).status = .halted ∧ (∀ j ∈ sHalted.jobs, j.ofTeam 0 = false) ∧ rising sHalted.ms.lm = true ∧
    ({ job0 with owner := .team 0 0 } : NmJob).ofTeam 0 = true := by
  decide

/-- Two tasks whose only gangs wait, in the order they issued. -/
def waiting0 : WEntry := { task0 with gangs := [.waiting] }
def waiting1 : WEntry := { task0 with id := 1, seq := some 1, issueNo := 1, gangs := [.waiting] }
def sWait : State :=
  { State.reset with power := .ready, ms := mem0, streams := [(0, { stream0 with window := [waiting0, waiting1], nextId := 2 })], parts := [(0, partS)] }
def place0 : Placement := { core := 1, slot := 1, lmb := 47 }
def meOf (w : WEntry) : Waiting := { k := 0, id := w.id, cls := 0, no := w.issueNo, gsz := 1, lmu := 1, prot := false }

theorem test_wit_GangBinding : (sWait.stream 0).entry? 0 = some waiting0 ∧ waiting0.op = .launch 0 1 1 1 [5] ∧ nextGang waiting0 ≠ some 1 ∧
    firstPlaceable sWait 0 (meOf waiting1) = false ∧ (sWait.stream 0).active = true ∧ nextGang waiting0 = some 0 ∧
    producersBound sWait 0 waiting0 = true ∧ firstPlaceable sWait 0 (meOf waiting0) = true ∧
    placesOk sWait 0 1 1 0 false [place0] = true ∧ (sWait.stream 0).taskOf 0 = some waiting0 := by
  decide +kernel

def boundTeam : Team := { Team.reset with status := .bound, bind := { bind0 with arm := false, entry := 0x40040, args := [5], lmb := 47 } }
def armedTeam : Team := { Team.reset with status := .armed, bind := { bind0 with entry := 0x40040, args := [5], lmb := 47 } }

theorem test_wit_GangArm : ((∀ tk ∈ maskSlots 0 1, ∀ e ∈ (withT boundTeam task0).gang tk, e.1 ∈ maskSlots 0 1) ∧
      ∀ tk ∈ maskSlots 0 1, ((withT boundTeam task0).team tk).bind.v = true ∧ ((withT boundTeam task0).team tk).status = .bound) ∧
    ¬∀ tk ∈ maskSlots 0 3, ((withT boundTeam task0).team tk).status = .bound := by
  decide

theorem test_wit_TeamStart : ((withT armedTeam task0).stream 0).entry? 0 = some task0 ∧ (withT armedTeam task0).teamsOfTask 0 0 = [0] ∧
    ((withT armedTeam task0).team 0).status = .armed ∧ ((withT armedTeam task0).team 0).bind.gidx = 0 ∧
    rising (withT armedTeam task0).teams = true ∧ (withT armedTeam task0).ms.ok = true ∧ ([0].map coreOf).Nodup ∧
    armedTeam.bind.lmb + armedTeam.bind.lmu ≤ 48 ∧ armedTeam.resume = false ∧ ((withT boundTeam task0).team 0).status ≠ .armed := by
  decide

/-- A saved gang's task, and its team's context at either level. -/
def savedTask : WEntry := { task0 with gangs := [.saved] }
def savedOf (t : Team) : SavedTeam :=
  { team := { t with status := .halted, was := .running, image := some Queues.empty }, k := 0, seq := 0, gidx := 0, tidx := 0, lm := [(65535, 1)], fe := [], lmPoison := [], unacked := [] }
def sSaved (t : Team) : State :=
  { State.reset with power := .ready, ms := mem0, streams := [(0, { stream0 with window := [savedTask], nextId := 1 })], parts := [(0, partS)]
                     saved := [savedOf t] }

theorem test_wit_GangResumption : ∀ t ∈ [team0, teamH], let s := sSaved t
    (s.stream 0).entry? 0 = some savedTask ∧ savedTask.op = .launch 0 1 1 1 [5] ∧ (s.stream 0).active = true ∧ savedTask.gangs[0]? = some .saved ∧
      (∀ h ∈ savedTask.gangs.take 0, h = .bound ∨ h = .ended) ∧ producersBound s 0 savedTask = true ∧
      (s.stream 0).taskOf 0 = some savedTask ∧ placesOk s 0 1 1 0 false [place0] = true ∧ s.ms.ok = true := by
  decide +kernel

theorem test_wit_GangResumption_fits : ∀ t ∈ [team0, teamH], lanesSuit (sSaved t) (savedOf t) 1 = true ∧ (savedOf t).team.bind.lmu = 1 ∧
    rising (savedOf t).lm = true ∧ (∀ e ∈ (savedOf t).lm, e.1 < 1 * 65536) ∧ slotFlights (savedOf t).team.ctl = [] ∧ (savedOf t).team.saved = [] := by
  decide

/-- A team that restarts, in the place it had. -/
theorem test_wit_TeamStart_resumed : let t := withT { armedTeam with resume := true, was := .running } task0
    (t.team 0).status = .armed ∧ (t.team 0).resume = true ∧ t.teamsOfTask 0 0 = [0] := by
  decide

/-- A context held at a breakpoint whose partition has a second address space, in which page 0 is mapped to its own copy at 0x50000. -/
def memCopy : MemSys :=
  { memWalk with mem := storeLE (storeLE (storeLE (storeLE memWalk.mem 0x90000 8 0x91003) 0x91000 8 0x92003) 0x92000 8 0x93003) 0x93000 8 0x94003 }
def sDebug : State :=
  { withT { teamH with status := .heldDebug } task0 with ms := memCopy, parts := [(0, { partS with more := [(2, 0x90000)] })] }
def copy2 : DebugCopy := { asn := 2, root := 0x90000, writes := [{ pa := 0x94000, val := 0x50009 }], page := 5 }

theorem test_wit_EscalatedTraps_plant : (sDebug.team 0).status = .heldDebug ∧
    (∃ s', privatePage sDebug 0 0x40 copy2 = some s' ∧ s'.ms.ok = true) ∧ privatePage sDebug 0 0x40 { copy2 with asn := 3 } = none := by
  refine ⟨rfl, ?_, by decide +kernel⟩
  have h : ((privatePage sDebug 0 0x40 copy2).map (fun s => s.ms.ok)) = some true := by decide +kernel
  exact Option.map_eq_some_iff.mp h

/-- A breakpoint register in and out of range, with and without a translation in force. -/
theorem test_wit_EscalatedTraps_breakpoint : 7 < 8 ∧ ¬8 < 8 ∧ sDebug.inSource 0 = true ∧
    ({ sDebug with parts := [(0, { partS with apps := [{ app0 with objs := [{ loaded0 with sched := true }] }] })] } : State).inSource 0 = false ∧
    (∃ k n g l a, task0.op = .launch k n g l a) ∧ ({ escalating .breakpoint with entry := some broken } : Team).esc.isSome = true := by
  refine ⟨by decide, by decide, by decide, by decide, ⟨_, _, _, _, _, rfl⟩, rfl⟩

/-- A team of class 1, and a gang of class 0 that finds no place while its partition drains. -/
def teamLow : Team := { team0 with bind := { bind0 with cls := 1 } }
def sRoom : State :=
  { withT teamLow task0 with
    streams := [(0, { stream0 with window := [task0], nextId := 1 }), (1, { stream0 with window := [waiting0], nextId := 1 })]
    parts := [(0, { partS with draining := true })] }

theorem test_wit_PreemptionAndSave_why : (sRoom.team 0).bind.cls ≠ 0 ∧ roomWanted sRoom 0 = true ∧ (sRoom.team 0).status = .running ∧
    sRoom.haltSet 0 = [0] ∧ (sRoom.team 0).preemptReq = false ∧ ({ teamLow with preemptReq := true } : Team).preemptReq = true ∧
    roomWanted (withT teamLow task0) 0 = false := by
  decide +kernel

/-- Active leases with more and with no more than 10 ms left, of the team's stream, which has no other team. -/
def sLeased (left : BitVec 32) : State :=
  { withT team0 task0 with streams := [(0, { stream0 with window := [task0], nextId := 1, lease := { Lease.reset with st := .active, left := left } })] }

theorem test_wit_PreemptionAndSave_lease : ((sLeased 10).stream 0).lease.st = .active ∧ ((sLeased 11).stream 0).lease.st = .active ∧
    (sLeased 10).teamsOf 0 = [0] ∧ (sLeased 11).teamsOf 0 = [0] ∧ (sLeased 10).haltSet 0 = [0] ∧ (sLeased 11).haltSet 0 = [0] := by
  decide +kernel

theorem test_wit_PreemptionAndSave_save : (∃ j ∈ [{ job0 with owner := .team 0 0 }], j.ofTeam 0 = true) ∧
    (∃ y ∈ [unack0 false], y.who = .team 0 ∧ y.dead = false) ∧ (∀ y ∈ [unack0 true], y.who = .team 0 → y.dead = true) ∧ sHalted.ms.unacked = [] :=
  ⟨⟨{ job0 with owner := .team 0 0 }, by decide, rfl⟩, ⟨unack0 false, by decide, rfl, rfl⟩, by decide, rfl⟩

/-- The choice among the cores of cluster 0: core 1 while all are alike, not once it is more worn than another. -/
theorem test_wit_GangBinding_worn : leastWorn sWait (fun core => coreTakes sWait core 1 0) [place0] = true ∧
    (let s := { sWait with ms := { mem0 with cores := [(1, { Core.reset with wear := 1 })] } }
     leastWorn s (fun core => coreTakes s core 1 0) [place0] = false) ∧
    (({ sWait with clusters := [(0, { Cluster.reset 0 with level := .l2 })] } : State).cluster (place0.core / 8)).level = .l2 := by
  decide +kernel

theorem test_wit_GangResumption_worn : ∀ t ∈ [team0, teamH], let s := sSaved t
    leastWorn s (fun core => coreTakes s core 1 0 && savedSuits s 0 0 0 core) [place0] = true := by
  decide +kernel

/-! ### The task window (R335 to R360, R372, R373) -/

def copy0 : WEntry := { writer with seq := some 0, st := .waiting, renamed := [(1, 0)] }
def withW (l : List WEntry) : State := withS { stream0 with window := l, nextId := 9 }

theorem test_wit_TaskProgress_issue : ((withW [copy0]).stream 0).entry? 0 = some copy0 ∧ ((withW [copy0]).stream 0).active = true ∧
    ((withW [copy0]).stream 0).ending = none ∧ copy0.seq ≠ none ∧ copy0.st = .waiting ∧ ((withW [copy0]).stream 0).older 0 = [] ∧
    kernelHeld (withW [copy0]) 0 copy0 = false := by
  decide

/-- A younger waiting task. -/
def young : WEntry := { copy0 with id := 1 }

/-- A younger task that writes what copy0 reads. -/
def clash : WEntry := { copy0 with id := 1, outs := [.region 0x10100 256] }

theorem test_wit_TaskProgress_waits : (∃ o ∈ ((withW [entry0, young]).stream 0).older 1, o.op = .fence) ∧
    (∃ o ∈ ((withW [copy0, young]).stream 0).older 1, young.spec = false ∧ o.st ≠ .complete) ∧
    (∃ o ∈ ((withW [{ copy0 with st := .complete }, clash]).stream 0).older 1, clash.conflicts o = true) ∧
    ((withW [entry0, young]).stream 0).entry? 1 = some young :=
  ⟨⟨entry0, by decide, rfl⟩, ⟨copy0, by decide, rfl, by decide⟩, ⟨{ copy0 with st := .complete }, by decide, by decide⟩, by decide⟩

theorem test_wit_TaskProgress_launch : task0.st = .issued ∧ (∃ g ∈ task0.gangs, g ≠ .ended) ∧ ∀ g ∈ ({ task0 with gangs := [.ended] } : WEntry).gangs, g = .ended := by
  decide

def wait0 (thr : Word) : WEntry := entryFor sS (.wait 0x10080 thr) .waiting

theorem test_wit_TaskProgress_twait : (streamKnot (withW [wait0 0]) 0 .read 0x10080).2.toOption = some xh ∧ (wait0 0).st = .waiting ∧
    (withW [wait0 1]).ms.homeRead xh.pa 8 < (1#64).toNat ∧ (0#64).toNat ≤ (withW [wait0 0]).ms.homeRead xh.pa 8 ∧
    (streamKnot (withW [wait0 0]) 0 .read 0x10080).1 = withW [wait0 0] := by
  decide

theorem test_wit_TaskProgress_retire : ({ copy0 with st := .complete } : WEntry).st = .complete ∧ copy0.st ≠ .complete ∧ copy0.renamed = [(1, 0)] ∧
    look .undeclared ((withW [copy0]).stream 0).rmap 1 = .renamable 8 8 0 (some 0) ∧ (entryFor sS (.free 1) .complete).op = .free 1 ∧
    (entryFor sS (.sig 0x10080 1) .complete).renamed = [] ∧ (streamKnot sS 0 .write 0x10080).2.toOption = some xh ∧
    Memory.wf sS.ms.mem := by
  decide

/-- A write of the stream to a peer that a `tsig`, or the stream's end, waits for, or has lost. -/
def unackS (dead : Bool) : Unack := { unack0 dead with who := .stream 0 }

theorem test_wit_TaskProgress_peers : let mine := fun (y : Unack) => decide (y.who = .stream 0)
    mem0.ackWait mine = .done ∧ ({ mem0 with unacked := [unackS false] } : MemSys).ackWait mine = .waits ∧
      ({ mem0 with unacked := [unackS true] } : MemSys).ackWait mine = .lost 0x30000 ∧ ({ mem0 with unacked := [unack0 true] } : MemSys).ackWait mine = .done := by
  decide

/-- A faulted entry at the head of its window. -/
def fault0 : WEntry := { copy0 with st := .faulted, fault := some { reason := .copy, cause := 7, gidx := 0, tidx := 0, tval := 0x20000 } }

theorem test_wit_TaskFaults : ((withW [fault0, young]).stream 0).window = fault0 :: [young] ∧ fault0.st = .faulted ∧ fault0.fault ≠ none ∧
    (∃ e ∈ fault0 :: [young], ∃ lb, (lb, 0) ∈ e.renamed) ∧ ((withW [fault0]).part 0).descs.find? (fun y => decide (y.id = 0)) = some descA ∧
    rising (withW [fault0, young]).teams = true :=
  ⟨by decide, by decide, by decide, ⟨fault0, by decide, 1, by decide⟩, by decide⟩

/-- A stopped stream whose fault lies in the deferred range, and one whose fault does not. -/
def record0 (v : Word) : FaultRecord := { topAddr := 0x10000, seq := 0, reason := 1, cause := 7, gidx := 0, tidx := 0, tval := v }
def sStopped (v : Word) : State :=
  withS { stream0 with stopped := true, faultRec := some (record0 v), lrec := { LaunchRec.reset with defbase := 0x50000, deflen := 0x10000 } }

theorem test_wit_TaskFaults_restart : ∀ v ∈ ([0x50000, 0x5FFFF, 0x60000, 0x4FFFF] : List Nat), let x := (sStopped (BitVec.ofNat 64 v)).stream 0
    x.faultRec = some (record0 (BitVec.ofNat 64 v)) ∧ x.active = true ∧ x.ending = none ∧ x.stopped = true ∧ x.window = [] := by
  decide

theorem test_wit_TaskFaults_deferred : (∀ v ∈ ([0x50000, 0x5FFFF] : List Nat), 0x50000 ≤ v ∧ v < 0x50000 + 0x10000) ∧
    (∀ v ∈ ([0x60000, 0x4FFFF] : List Nat), ¬(0x50000 ≤ v ∧ v < 0x50000 + 0x10000)) ∧ rising (sStopped 0).ms.mem = true := by
  decide

/-- A stream that ends, its record in the page. -/
def sEnding (a : Word) : State := withS { stream0 with ending := some .taskFault, qen := false, lrec := { LaunchRec.reset with status := a } }

theorem test_wit_StreamEnding : ∀ a ∈ ([0, 0x10100] : List Nat), let s := sEnding (BitVec.ofNat 64 a)
    (s.stream 0).active = true ∧ (s.stream 0).ending = some .taskFault ∧ (s.stream 0).qen = false ∧ (s.stream 0).devq = [] ∧
      (s.stream 0).lrec.status = BitVec.ofNat 64 a ∧ rising (s.publishPart (s.part 0)).ms.mem = true := by
  decide

theorem test_wit_StreamEnding_record : (let s' := (sEnding 0x10100).publishPart partS
     ∀ i ∈ [0, 31], let r := streamXlat s' 0 .write (0x10100#64 + BitVec.ofNat 64 i)
       r.1 = s' ∧ r.2.toOption = some { pa := 0x10100 + i, ent := hubPage }) ∧
    hubPage.dc = true ∧ pageBlk hubPage.leaf = 0 ∧ hubPage.marked.contains ((0x10100 + 31) / 65536) = true ∧ space1.ckpt = false := by
  decide +kernel


/-- A task that may issue at once beside an older complete one. -/
def later : WEntry := { copy0 with id := 1, spec := true, outs := [] }
def done0 : WEntry := { copy0 with st := .complete }

theorem test_wit_TaskProgress_older : ((withW [done0, later]).stream 0).entry? 1 = some later ∧ ((withW [done0, later]).stream 0).older 1 = [done0] ∧
    later.conflicts done0 = false ∧ done0.op ≠ .fence ∧ done0.st = .complete ∧ kernelHeld (withW [done0, later]) 0 later = false := by
  decide

theorem test_wit_TaskProgress_waits_each : later.spec = true ∧ (wait0 1).st ≠ .complete ∧ (∃ a b, (wait0 1).op = .wait a b) ∧
    ({ later with op := .nm false 1 } : WEntry).isNm = true ∧ later.after = false ∧
    ({ later with ins := [.desc 0 0x11000 256] } : WEntry).producedBy { copy0 with outs := [.desc 0 0x11000 256] } = true ∧ copy0.seq ≠ none ∧
    mayIssue (withW [copy0, later]) 0 copy0 = true ∧ copy0 ∈ ((withW [copy0, later]).stream 0).older 1 :=
  ⟨rfl, by decide, ⟨_, _, rfl⟩, by decide⟩

/-- A stopped stream whose fault lies in page 0, which its table maps to page 1. -/
def sBack : State :=
  { withS { stream0 with stopped := true, faultRec := some (record0 8), lrec := { LaunchRec.reset with defbase := 0, deflen := 0x10000 } } with ms := memWalk }

theorem test_wit_TaskFaults_backing : pageMapped (memWalk.writeTables []) 0x80000 0 = true ∧ physOf (memWalk.writeTables []) 0x80000 0 = 1 * 65536 ∧
    sBack.streamSpace 0 = (1, 0x80000) ∧ memWalk.isPop (1 * 65536) = true ∧ spaceBusy sBack 1 0 65536 = false ∧
    physOf (memWalk.writeTables []) 0x80000 0 ≠ 2 * 65536 ∧ rising sBack.ms.mem = true ∧ (∀ c, (sBack.ms.core c).l1 = []) ∧ (1, 0) ∉ partS.backed :=
  ⟨by decide +kernel, by decide +kernel, rfl, by decide, by decide, by decide +kernel, by decide +kernel, fun _ => rfl, by decide⟩

/-- A near-memory command of the ending stream, and leases at its end. -/
theorem test_wit_StreamEnding_waits : (∃ j ∈ [job0], j.slot = 0) ∧ (∀ j ∈ (sEnding 0).jobs, j.slot ≠ 0) ∧
    ({ Lease.reset with st := .active } : Lease).st = .active ∧ ({ Lease.reset with st := .suspended } : Lease).st = .suspended :=
  ⟨⟨job0, by decide, rfl⟩, by decide, rfl, rfl⟩

theorem test_wit_StreamEnding_peers :
    (∃ y ∈ (({ sEnding 0 with ms := { mem0 with unacked := [unackS false] } } : State).publishPart partS).ms.unacked, y.who = .stream 0 ∧ y.dead = false) ∧
    (∀ y ∈ (({ sEnding 0 with ms := { mem0 with unacked := [unackS true] } } : State).publishPart partS).ms.unacked, y.who = .stream 0 → y.dead = true) ∧
    ∀ y ∈ ((sEnding 0).publishPart partS).ms.unacked, y.who = .stream 0 → y.dead = true := by
  decide +kernel

/-! ### The host's and the operator's side (R183 to R191, R367 to R402) -/

/-- An idle, enabled slot whose ring lies in the page, with a record of the tag expected there. -/
def recWord (i : Nat) : Word :=
  BitVec.ofNat 64 (match i with | 0 => 0x10200 | 2 => 0x20000 | 3 => 0x10000 | 4 => 0x10300 | 5 => 0x100000064 | 6 => 1 | 7 => 1 | _ => 0)
def ring0 (tag : Nat) : List Host.Cell :=
  (List.range 7).foldl (fun m i => storeLE m (0x10400 + 8 * i) 8 (recWord i).toNat) (storeLE [] 0x10438 8 tag)
def sQueue (q : QState) (tag : Nat) : State :=
  { withS { Stream.reset with qbase := 0x10400, qen := true, qstate := q } with ms := { mem0 with mem := ring0 tag } }

theorem test_wit_RecordFetch : let s := sQueue .idle 1
    (s.stream 0).active = false ∧ (s.stream 0).qen = true ∧ (s.stream 0).devq = [] ∧ (s.part 0).draining = false ∧ (s.part 0).slots.contains 0 = true ∧
      (s.stream 0).qstate = .idle ∧ (s.stream 0).head.toNat < (1#64).toNat ∧ ¬(s.stream 0).head.toNat < (0#64).toNat ∧
      (sS.stream 0).active = true ∧ (sS.stream 0).qstate = .running := by
  decide

theorem test_wit_RecordFetch_words : (∀ i ∈ List.range 8, let r := streamRead (sQueue .idle 1) 0 (0x10400#64 + BitVec.ofNat 64 (8 * i))
      r.1 = sQueue .idle 1 ∧ r.2.toOption = some (recWord i)) ∧
    recWord 7 = 0#64 + 1#64 ∧ (recWord 0).toNat % 8 = 0 ∧ (recWord 0).toNat < 2 ^ 57 ∧ (recWord 4).toNat % 32 = 0 ∧ (recWord 2).toNat % 65536 = 0 ∧
    (recWord 3).toNat % 65536 = 0 ∧ (recWord 5).toNat < 2 ^ 34 ∧ recWord 1 = 0#64 ∧ ∃ a ∈ partS.apps, a.handle = recWord 6 := by
  refine ⟨?_, ?_⟩
  · decide +kernel
  · decide

theorem test_wit_RecordFetch_retry : (streamRead (sQueue .fetching 5) 0 (0x10400#64 + 56#64)).2.toOption = some 5#64 ∧ (5#64) ≠ 0#64 + 1#64 ∧
    ((sQueue .fetching 5).stream 0).qstate = .fetching := by
  decide +kernel

/-- A kick while the slot retries: above HEAD, with a launch of a handler waiting too. -/
theorem test_wit_RecordFetch_kick : let s := { sQueue .fetching 5 with
      streams := [(0, { Stream.reset with qbase := 0x10400, qen := true, qstate := .fetching, devq := [(LaunchRec.reset, 0)] })] }
    (s.stream 0).qstate = .fetching ∧ (s.part 0).draining = false ∧ (s.stream 0).head.toNat < (1#64).toNat ∧
      (streamRead s 0 (0x10400#64 + 56#64)).2.toOption = some 5#64 ∧ (streamRead s 0 (0x10400#64 + 56#64)).1 = s := by
  decide +kernel

theorem test_wit_RegisterPage : (sS.stream 0).qen = true ∧ (Stream.reset).qen = false ∧ (12#64).toNat % 16 ≤ 12 ∧ 12 < (13#64).toNat % 16 ∧
    rising sS.streams = true ∧ (Stream.reset).active = false := by
  decide

theorem test_wit_RegisterPage_lease : ((sS.stream 0).active = true ∧ (sS.stream 0).ending = none ∧ (sS.stream 0).lrec.load = false ∧
      (sS.stream 0).lease.st ≠ .active ∧ (sS.stream 0).lease.st ≠ .suspended) ∧
    ({ Lease.reset with st := .active } : Lease).st = .active ∧
    (∀ d ∈ [1, 10000], 1 ≤ d ∧ d ≤ 10000) ∧ (∀ w ∈ [1, 800], 1 ≤ w ∧ w ≤ 800) := by
  decide

/-- A forwarded call n of a handler: s1 and s2 as given, the record at 0x10400. -/
def sCall (n : Nat) (a b : Word) (debug : Bool) (tag : Nat) : State :=
  { withT { team0 with status := .forwarded, call := some n, regs := (if a = 0 then [] else [(1, a)]) ++ (if b = 0 then [] else [(2, b)]) } task0 with
    syscalls := [{ caller := .team 0, num := n }], ms := { mem0 with mem := ring0 tag }
    streams := [(0, { stream0 with window := [task0], nextId := 1, lrec := { LaunchRec.reset with app := 1, debug := debug } }), (1, { Stream.reset with active := true })] }

theorem test_wit_ForwardedCalls : ∀ n ∈ [2, 3], let s := sCall n 0x10400 1 true 1
    (s.team 0).status = .forwarded ∧ bankOk (s.team 0).bank = true ∧ { caller := .team 0, num := n } ∈ s.syscalls := by
  decide

theorem test_wit_ForwardedCalls_launch : (partS.slotAt 2) = none ∧ partS.slotAt 1 = some 1 ∧ (0x10401#64).toNat % 64 ≠ 0 ∧ (0x10400#64).toNat % 64 = 0 ∧
    ((sCall 2 0x10400 1 true 1).stream 1).devq.length < 16 ∧ (recWord 5).getLsbD 35 = false ∧ (recWord 5).toNat < 2 ^ 37 ∧ (recWord 0).toNat < 2 ^ 57 ∧
    ((sCall 2 0x10400 1 true 1).stream 1).active = true ∧ (0x800000000#64).getLsbD 35 = true ∧
    16 ≤ (List.replicate 16 (LaunchRec.reset, 0)).length := by
  decide

theorem test_wit_ForwardedCalls_words : ∀ i ∈ List.range 8, let r := streamRead (sCall 2 0x10400 1 true 1) 0 (0x10400#64 + BitVec.ofNat 64 (8 * i))
    r.1 = sCall 2 0x10400 1 true 1 ∧ r.2.toOption = some (recWord i) := by
  decide +kernel

theorem test_wit_ForwardedCalls_capscript : ((sCall 3 0x10400 16 true 1).stream 0).lrec.debug = true ∧ ((sCall 3 0x10400 16 false 1).stream 0).lrec.debug = false ∧
    ((sCall 3 0x10400 16 true 1).team 0).reg 2#5 = 16#64 ∧ ((sCall 3 0x10400 0 true 1).team 0).reg 2#5 = 0#64 ∧ (0x10401#64).toNat % 2 = 1 ∧
    ∀ i ∈ [0, 15], let r := streamXlat (sCall 3 0x10400 16 true 1) 0 .read (0x10400#64 + BitVec.ofNat 64 (2 * i))
      r.1 = sCall 3 0x10400 16 true 1 ∧ r.2.toOption = some { pa := 0x10400 + 2 * i, ent := hubPage } ∧ inScaleArea hubPage (0x10400 + 2 * i) = false ∧
        mem0.poisoned (0x10400 + 2 * i) = false := by
  decide +kernel

/-! The test vectors of FIPS 180-4 and RFC 6979 (P-384, "sample"), by which the model's SHA-384 and its ECDSA are read. -/

def sample : List Byte := [0x73, 0x61, 0x6D, 0x70, 0x6C, 0x65]
def key0 : PubKey :=
  { x := 0xEC3A4E415B4E19A4568618029F427FA5DA9A8BC4AE92E02E06AAE5286B300C64DEF8F0EA9055866064A254515480BC13
    y := 0x8015D9B72D7D57244EA8EF9AC0C621896708A59367F9DFB9F54CA84B3F1C9DB1288B231C3AE0D4FE7344FD2533264720 }
def sig0 : Sig :=
  { r := 0x94EDBB92A5ECB8AAD4736E56C691916B3F88140666CE9FA73D64C4EA95AD133C81A648152E44ACF96E36DD1E80FABE46
    s := 0x99EF4AEB15F178CEA1FE40DB2603138F130E740A19624526203B6351D0A3A94FA329C145786E679E7B82C71A38628AC8 }

set_option maxRecDepth 100000 in
theorem test_sha384 : sha384 [0x61, 0x62, 0x63] =
    0xCB00753F45A35E8BB5A03D699AC65007272C32AB0EDED1631A8B605A43FF5BED8086072BA1E7CC2358BAECA134C825A7 := by
  decide +kernel

set_option maxRecDepth 100000 in
theorem test_ecdsa : verifies key0 sample sig0 = true := by decide +kernel

/-- A key off the curve verifies nothing. -/
theorem test_ecdsa_key : verifies { x := 0, y := 0 } sample sig0 = false := by decide +kernel

/-- A load record's stream; its image, a manifest signed by the partition's key and no object, stands at ARGS in page 0, which the table
maps to page 16. -/
def image0 : AppImage := { manifest := sample, sig := sig0, objs := [] }
/-- The tables of memWalk, their leaf naming page 16. -/
def tableCells : List Host.Cell :=
  [(0x80000, 0x03), (0x80001, 0x10), (0x80002, 0x08), (0x81000, 0x03), (0x81001, 0x20), (0x81002, 0x08), (0x82000, 0x03), (0x82001, 0x30),
   (0x82002, 0x08), (0x83000, 0x03), (0x83001, 0x40), (0x83002, 0x08), (0x84000, 0x05), (0x84002, 0x10)]

/-- The image's bytes, in their place. -/
def imageCells : List Host.Cell :=
  [(1048832, 115), (1048833, 97), (1048834, 109), (1048835, 112), (1048836, 108), (1048837, 101), (1048838, 148), (1048839, 237), (1048840, 187),
   (1048841, 146), (1048842, 165), (1048843, 236), (1048844, 184), (1048845, 170), (1048846, 212), (1048847, 115), (1048848, 110), (1048849, 86),
   (1048850, 198), (1048851, 145), (1048852, 145), (1048853, 107), (1048854, 63), (1048855, 136), (1048856, 20), (1048857, 6), (1048858, 102),
   (1048859, 206), (1048860, 159), (1048861, 167), (1048862, 61), (1048863, 100), (1048864, 196), (1048865, 234), (1048866, 149), (1048867, 173),
   (1048868, 19), (1048869, 60), (1048870, 129), (1048871, 166), (1048872, 72), (1048873, 21), (1048874, 46), (1048875, 68), (1048876, 172),
   (1048877, 249), (1048878, 110), (1048879, 54), (1048880, 221), (1048881, 30), (1048882, 128), (1048883, 250), (1048884, 190), (1048885, 70),
   (1048886, 153), (1048887, 239), (1048888, 74), (1048889, 235), (1048890, 21), (1048891, 241), (1048892, 120), (1048893, 206), (1048894, 161),
   (1048895, 254), (1048896, 64), (1048897, 219), (1048898, 38), (1048899, 3), (1048900, 19), (1048901, 143), (1048902, 19), (1048903, 14),
   (1048904, 116), (1048905, 10), (1048906, 25), (1048907, 98), (1048908, 69), (1048909, 38), (1048910, 32), (1048911, 59), (1048912, 99),
   (1048913, 81), (1048914, 208), (1048915, 163), (1048916, 169), (1048917, 79), (1048918, 163), (1048919, 41), (1048920, 193), (1048921, 69),
   (1048922, 120), (1048923, 110), (1048924, 103), (1048925, 158), (1048926, 123), (1048927, 130), (1048928, 199), (1048929, 26), (1048930, 56),
   (1048931, 98), (1048932, 138), (1048933, 200)]
def sLoading (args : Word) : State :=
  { withS { stream0 with lrec := { LaunchRec.reset with load := true, args := args } } with
    parts := [(0, { partS with keys := [key0] })]
    ms := { memWalk with mem := tableCells ++ imageCells } }

theorem test_wit_LoadAndResolve_load : ((sLoading 0x100).stream 0).active = true ∧ ((sLoading 0x100).stream 0).ending = none ∧
    ((sLoading 0x100).stream 0).lrec.load = true ∧ ((sLoading 0x100).part 0).keys = [key0] := by
  decide +kernel


theorem walkFrom_page (m : MemSys) {a b : Nat} : ∀ (ls : List PtLevel) (t : Nat), (∀ l ∈ ls, a / 2 ^ l.shift = b / 2 ^ l.shift) →
    walkFrom m a t ls = walkFrom m b t ls
  | [], _, _ => rfl
  | l :: r, t, h => by
    simp only [walkFrom, h l (List.mem_cons_self ..), walkFrom_page m r _ (fun x hx => h x (List.mem_cons_of_mem _ hx))]

/-- Bytes that stand at a physical address. -/
def standsAt (m : MemSys) : Nat → List Byte → Bool
  | _, [] => true
  | pa, b :: r => m.isPop pa && !m.poisoned pa && decide (m.byteAt pa = b) && standsAt m (pa + 1) r

/-- Bytes stand in page 0 that stand where its leaf says. -/
theorem bytesStand_page {m : MemSys} {root e w : Nat} (hw : (walkFrom m 0 root ptLevels).leaf? = some (e, w, 65536)) :
    ∀ (bs : List Byte) (a : Nat), a + bs.length ≤ 65536 → standsAt m (fld w 16 36 * 65536 + a) bs = true → bytesStand m root a bs = true
  | [], _, _, _ => rfl
  | b :: r, a, h, g => by
    simp only [standsAt, Bool.and_eq_true, Bool.not_eq_true', decide_eq_true_eq] at g
    obtain ⟨⟨⟨g1, g2⟩, g3⟩, g4⟩ := g
    have hl : a < 65536 := by simp only [List.length_cons] at h; omega
    have hp : walkFrom m a root ptLevels = walkFrom m 0 root ptLevels := walkFrom_page m _ _ (fun l hl' => by
      have : 65536 ≤ 2 ^ l.shift := (by decide : ∀ l ∈ ptLevels, 65536 ≤ 2 ^ l.shift) l hl'
      rw [Nat.div_eq_of_lt (by omega), Nat.zero_div])
    have hb : osByte m root a = some b := by
      simp only [osByte, hp, hw, Nat.mod_eq_of_lt hl, g1, g2, g3]
      simp; omega
    simp only [bytesStand, hb, decide_true, Bool.true_and]
    exact bytesStand_page hw r (a + 1) (by simp only [List.length_cons] at h; omega) (by rw [← Nat.add_assoc]; exact g4)

theorem test_wit_LoadAndResolve_stands : imageStands (sLoading 0x100) 0 (some image0) = true := by
  rw [imageStands, show ((sLoading 0x100).stream 0).lrec.args.toNat = 0x100 from by decide +kernel]
  exact bytesStand_page (e := 0x84000) (w := 0x100005) (by decide +kernel) _ _
    (by rw [show (imageBytes image0).length = 102 from by decide +kernel]; omega) (by decide +kernel)

theorem test_wit_LoadAndResolve_absent : imageStands (sLoading 0x10100) 0 (some { image0 with manifest := [1] }) = false := by decide +kernel

theorem test_wit_LoadAndResolve_unread : imageStands (sLoading 0x100) 0 none = false ∧ imageStands (sLoading 0x10100) 0 none = true := by decide +kernel

/-- Step 1 passes for it and fails without the key; step 4 fails for a file with no header; a plan with no object maps nothing, and
one that lacks a base fails step 6. -/
theorem test_wit_LoadAndResolve_steps : (¬∀ key ∈ [key0], verifies key image0.manifest image0.sig = false) ∧
    (∀ key ∈ ([] : List PubKey), verifies key image0.manifest image0.sig = false) ∧ objFormed [] 0 = false ∧
    (mapImage memWalk 1 0x80000 [] { bases := [], stubs := [], writes := [] }).isSome = true ∧
    (mapImage memWalk 1 0x80000 [obj0] { bases := [], stubs := [], writes := [] }) = none :=
  ⟨fun h => absurd (h key0 (List.mem_singleton.mpr rfl)) (by rw [show verifies key0 image0.manifest image0.sig = true from test_ecdsa]; simp),
    by decide, by decide +kernel, by decide +kernel, by decide +kernel⟩

/-- A RESOLVE of the object's only linkage entry, which lies in a writable page of its own. -/
def loadedW : LoadedObj := { loaded0 with base := 0x10000, stub := 0x12000 }
def appW : App := { handle := 1, kindex := [], programs := [], objs := [loadedW] }
def sResolve (v : Nat) : State :=
  { sCall 1 0x11000 0 false 1 with parts := [(0, { partS with apps := [appW] })], ms := { mem0 with mem := storeLE [] 0x11000 8 v } }

theorem test_wit_LoadAndResolve_resolve : ∀ v ∈ [0x12000, 0x10080], let s := sResolve v
    (s.team 0).status = .forwarded ∧ (s.team 0).bind.slot = 0 ∧ { caller := .team 0, num := 1 } ∈ s.syscalls ∧ bankOk (s.team 0).bank = true ∧
      Memory.wf s.ms.mem ∧ s.appOf 0 = some appW ∧ appW.linkEntry 0x11000 = some (loadedW, 0) ∧ appW.linkEntry 0x11008 = none ∧
      (streamAccess s 0 .write 0x11000).2.toOption = some { pa := 0x11000, ent := hubPage } ∧ s.ms.poisoned 0x11000 = false ∧
      (v = 0x12000 ↔ s.ms.homeRead 0x11000 8 = loadedW.stub) := by
  decide +kernel

/-- What the export table holds is open: the entry's export is there or is not, and either way a clause applies. -/
theorem test_wit_LoadAndResolve_export : (∃ v, appW.exportOf (Config.importName (sectionBytes obj0.sections 6) 0) = some v) ∨
    appW.exportOf (Config.importName (sectionBytes obj0.sections 6) 0) = none := by
  cases h : appW.exportOf (Config.importName (sectionBytes obj0.sections 6) 0) with
  | none => exact .inr rfl
  | some v => exact .inl ⟨v, rfl⟩

theorem test_wit_LoadAndResolve_fails : ((sResolve 0).stream 0).taskOf ((sResolve 0).team 0).bind.seq = some task0 ∧
    ((sResolve 0).stream 0).entry? task0.id = some task0 ∧ task0.st = .issued ∧ (∃ n c g l a, task0.op = .launch n c g l a) ∧
    ({ sResolve 0 with streams := [(0, { stream0 with window := [task0], nextId := 1, lrec := { LaunchRec.reset with app := 9 } })] } : State).appOf 0 = none :=
  ⟨by decide, by decide, rfl, ⟨_, _, _, _, _, rfl⟩, by decide⟩

/-- An object of one syllable, and a translation of it that the device has signed. -/
def objT : CodeObj := { obj0 with size := 4, exports := 0, kernels := [] }
def loadedT : LoadedObj := { loaded0 with obj := objT }
def trans0 : Translation :=
  { digest := 5, sv := 0, gen := 9, code := [0, 0, 0, 0]
    sig := { r := 0xD8A17E55B8E2F47BC369FD9616695CE273DCE4E307830A65F5A4A9AA8967C987AEEA7AD365677A13BFD65C3FE5A66939
             s := 0x4832D828754FFDF7D1DFB26A512DB2D1F9F9CF14CF4BBF02083931A0ADC4C4C5294F730561638ABF716B39585C1611C2 } }
def sTrans (w : List WEntry) (debug : Bool) : State :=
  { withS { stream0 with window := w, lrec := { LaunchRec.reset with app := 1, debug := debug } } with
    devKey := key0, trans := [trans0], parts := [(0, { partS with apps := [{ app0 with objs := [loadedT] }] })] }

theorem test_wit_CodeAndTranslations_invalidate : spaceBusy sRel 1 0x10000 0x20000 = true ∧ spaceBusy sA 1 0x10000 0x20000 = false := by decide

theorem test_wit_CodeAndTranslations_signed : (sTrans [] false).transSigned trans0 = true := by decide +kernel

theorem test_wit_CodeAndTranslations_fits : ((sTrans [] false).part 0).loaded? 0x40000 = some loadedT ∧ objT.sched = false ∧ trans0.digest = objT.digest ∧
    trans0.sv = objT.sv ∧ trans0.gen = 9 ∧ trans0.code.length = objT.size ∧ keepsForm loadedT trans0.code = true ∧
    keepsForm { loadedT with obj := { objT with kernels := [{ kernel0 with entry := 4 }] } } [0, 0, 0, 0x80] = false := by
  decide +kernel

theorem test_wit_CodeAndTranslations_usable : (∃ tr ∈ (sTrans [] false).trans, transUsable (sTrans [] false) tr objT = true) ∧
    (∀ tr ∈ sS.trans, transUsable sS tr objT = false) :=
  ⟨⟨trans0, List.mem_singleton.mpr rfl, by decide +kernel⟩, by decide⟩

theorem test_wit_CodeAndTranslations_points : safePoint (sTrans [] false) 0 0x40000 = true ∧ heldSerial (sTrans [] false) 0 0x40000 = false ∧
    heldSerial (sTrans [] true) 0 0x40000 = true ∧ ({ objT with sched := true } : CodeObj).sched = true ∧ safePoint (withW [task0]) 0 0x40000 = false ∧
    spaceBusy (sTrans [] false) 1 0x40000 0x40004 = false ∧
    spaceBusy { sTrans [] false with jobs := [job0] } 1 0x40000 0x40004 = true := by
  decide

/-- A request of the operator, signed as the fuses ask, and one that is not. -/
def signed0 : Signed := { bytes := sample, sig := sig0 }
def sOp : State := { sS with opKey := key0 }

theorem test_wit_OperatorRequests : sOp.byOperator signed0 = true ∧ sS.byOperator signed0 = false := by decide +kernel

/-- Descriptors of 64 bytes, one after the other. -/
def descs0 (n : Nat) : List (Nat × Nat × Nat) := (List.range n).map (fun i => (64 * i, 6, 0))

theorem descs0_length (n : Nat) : (descs0 n).length = n := (List.length_map _).trans List.length_range

theorem descs0_apart (n : Nat) : (descs0 n).Pairwise (fun x y => descsApart x y = true) :=
  List.pairwise_map.mpr (List.pairwise_lt_range.imp (fun h => by
    simp only [descsApart, Bool.or_eq_true, decide_eq_true_eq]
    omega))

/-- A request that gives every pair and two slots to one partition, with its 16,384 descriptors apart. -/
def reqN (n : Nat) : PartReq :=
  { pairs := List.range 20, slots := [0, 1], asn := 1, root := 0x80000, dmap := 0x100000, more := [(2, 0x90000, 0x200000)], wdper := 100, debugOk := true
    descs := descs0 n }
def req0 : PartReq := reqN 16384

theorem req0_descs (n : Nat) : [reqN n].all (fun r => decide (r.descs.length = n) && decide (r.descs.Pairwise (fun x y => descsApart x y = true))) = true :=
  List.all_eq_true.mpr (fun r hr => by
    rw [List.mem_singleton.mp hr, decide_eq_true (show (reqN n).descs.length = n from descs0_length n),
      decide_eq_true (show (reqN n).descs.Pairwise _ from descs0_apart n)]
    rfl)

theorem test_wit_OperatorRequests_formed : reqFormed [req0] = true := by
  rw [reqFormed, Bool.and_eq_true]
  exact ⟨by decide +kernel, req0_descs Config.descriptors⟩

theorem test_wit_OperatorRequests_partitions : reqFormed [] = false ∧ (∀ r ∈ [req0].zipIdx, reqMoves sOp r.2 r.1 = false) ∧
    (∀ e ∈ sOp.parts, e.1 < [req0].length) ∧ ∃ r ∈ [{ req0 with slots := [1] }].zipIdx, reqMoves sOp r.2 r.1 = true :=
  ⟨by decide, by decide, by decide, ({ req0 with slots := [1] }, 0), List.mem_singleton.mpr rfl, by decide⟩

/-- An enrolled key and one that is not, a handle in use. -/
theorem test_wit_OperatorRequests_keys : ((sLoading 0).part 0).keys.contains key0 = true ∧ (sOp.part 0).keys.contains key0 = false ∧
    (∃ a ∈ (sOp.part 0).apps, a.handle = 1) ∧ sOp.svFuses ≤ 64 ∧ ¬65 ≤ 64 :=
  ⟨by decide, by decide, ⟨app0, List.mem_singleton.mpr rfl, rfl⟩, by decide⟩

/-! ### Power, errors, links, bring-up (R377 to R405) -/

theorem test_wit_PowerEpoch : rising (withT team0 task0).teams = true ∧ ((withT team0 task0).stream 0).active = true ∧
    ((withT team0 task0).stream 0).ending = none ∧ ((withT team0 task0).stream 0).lrec.load = false ∧ ((withT team0 task0).team 0).present = true ∧
    (sS.part 0).pairs.contains 0 = true ∧ (sS.part 0).pairs.contains 1 = false ∧ sS.pairNext = [] ∧ floorsUnder sS 0 140 = true ∧
    floorsUnder (withT { team0 with bind := { bind0 with cls := 0 } } task0) 0 0 = false := by
  decide +kernel

def leased (left : BitVec 32) : Stream := { stream0 with lease := { Lease.reset with st := .active, left := left }, wdLeft := left }

def watching (left : BitVec 32) : State :=
  { with0 team0 with streams := [(0, { leased left with window := [task0] })], parts := [(0, partS)] }

/-- Watchdogs that run out at the epoch and later, of a stream with a team bound; floors that fit their pair's share, and two that do not. -/
theorem test_wit_PowerEpoch_due : rising (watching 0).streams = true ∧ rising (watching 0).teams = true ∧
    ((watching 0).stream 0).watched = true ∧ ((watching 0).stream 0).wdLeft.toNat ≤ 10 ∧ ((watching 0).team 0).bind.slot = 0 ∧
    ((watching 10).stream 0).watched = true ∧ ((watching 10).stream 0).wdLeft.toNat ≤ 10 ∧
    ((watching 11).stream 0).watched = true ∧ ¬((watching 11).stream 0).wdLeft.toNat ≤ 10 ∧ ((watching 0).stream 0).lease.st = .active := by
  decide +kernel

theorem test_wit_PowerEpoch_quiet : ∀ k, k < 32 → ¬(((watching 11).stream k).watched = true ∧ ((watching 11).stream k).wdLeft.toNat ≤ 10) := by
  decide +kernel

theorem test_wit_PowerEpoch_floors : wattUnits ((watching 0).pairWatts 0) = 35000 ∧ pairFits 35000 128 0 = true ∧ pairFits 35000 8192 0 = false := by
  decide +kernel

theorem test_wit_LeasesAndWatchdogs : (∀ n ∈ [0, 10], ((withS (leased (BitVec.ofNat 32 n))).stream 0).lease.left.toNat ≤ 10 ∧
      ((withS (leased (BitVec.ofNat 32 n))).stream 0).wdLeft.toNat ≤ 10) ∧
    10 < ((withS (leased 11)).stream 0).wdLeft.toNat ∧ ((withS (leased 10)).stream 0).active = true ∧ ((withS (leased 10)).stream 0).ending = none ∧
    ((withS (leased 10)).stream 0).lrec.load = false ∧ ((withS (leased 10)).stream 0).lease.req = false ∧ (sS.part 0).draining = false ∧
    (({ sS with parts := [(0, { partS with draining := true })] } : State).part 0).draining = true ∧ rising sS.streams = true := by
  decide

/-- A lease asked for, the only one; a stream of the leased one's partition with a bound team. -/
def sAsk : State := withS { stream0 with lease := { Lease.reset with req := true, dur := 10000, watts := 800 } }

theorem test_wit_LeasesAndWatchdogs_epoch : (sAsk.stream 0).lease.req = true ∧ (sAsk.stream 0).lease.st ≠ .active ∧ sAsk.energy = [] ∧
    rising sAsk.teams = true ∧ (∀ j ∈ List.range' 1 31, (sAsk.stream j).lease.req = false ∧ (sAsk.stream j).lease.st = .none) ∧
    (sLeased 10).anyBound 0 = true ∧ (withS (leased 10)).anyBound 0 = false ∧ min 800 (min 800 (8000000 / max 1 10000)) = 800 := by
  decide

theorem test_wit_LeasesAndWatchdogs_quiet : (∀ j ∈ List.range 32, (sAsk.stream j).watched = true → 10 < (sAsk.stream j).wdLeft.toNat) ∧
    (∀ j ∈ List.range 32, ((sLeased 10).stream j).watched = true → 10 < ((sLeased 10).stream j).wdLeft.toNat) ∧ ((sLeased 10).stream 0).lease.st = .active ∧
    ((sLeased 10).stream 0).lease.req = false ∧ ((sLeased 10).stream 0).lease.left.toNat ≤ 10 ∧ 10 < ((sLeased 11).stream 0).lease.left.toNat ∧
    (let x := { leased 0 with lease := { (leased 0).lease with st := .expired, lapsed := some 10 } }
     ((withS x).stream 0).lease.lapsed ≠ none ∧ ((withS x).stream 0).active = true) := by
  decide

/-- A partition that drains takes no record. -/
theorem test_wit_RecordFetch_drain : (sRoom.part 0).draining = true ∧ ((sQueue .idle 1).part 0).draining = false := by decide

theorem test_wit_OverCurrentKills : (0 ∈ (withT team0 task0).contexts ∧ ∃ tk ∈ (withT team0 task0).ctxTeams 0, tk / 32 = 0) ∧
    (∀ p, some 0 = some p → p < 20) ∧ ¬∃ c, c ∈ sA.contexts :=
  ⟨⟨by decide, 0, by decide, rfl⟩, fun _ h => by cases h; decide, fun ⟨_, h⟩ => List.not_mem_nil h⟩

theorem test_wit_ThermalLevels : (sA.cluster 39).dwell ≤ 1 ∧ ¬({ sA.cluster 0 with dwell := 100 } : Cluster).dwell ≤ 1 ∧ (sA.cluster 39).level = .l0 ∧
    (∀ l ∈ [Thermal.l0, .l1, .l2], l ≠ .trip) ∧ (459 : Int) < 460 ∧ (460 : Int) ≤ 460 := by
  decide

/-- A core whose last sample found one slot bound, or both, of streams 0 and 1. -/
def sWorn (u : List (Nat × Nat × Nat)) : State := { sA with ms := { mem0 with cores := [(0, { Core.reset with used := u })] } }

theorem test_wit_WearAccounting : (sA.ms.core 0).wear + 1 < 200000000 * 2 ^ 20 * 100 ∧ (sA.ms.core 0).wearState ≠ .retired ∧
    200000000 * 2 ^ 20 * 100 ≤ (sA.ms.core 0).wear + 200000000 * 2 ^ 20 * 100 ∧ (sA.ms.core 0).used = [] ∧
    ((sWorn [(1, 0, 0)]).ms.core 0).used = [(1, 0, 0)] ∧ ((sWorn [(0, 0, 0), (1, 1, 0)]).ms.core 0).used = [(2 * 0, 0, 0), (2 * 0 + 1, 1, 0)] ∧
    ((sWorn [(1, 0, 0)]).stream 0).serial = 0 ∧ ((sWorn [(1, 0, 0)]).stream 1).serial = 0 := by
  decide

theorem test_wit_PowerPolicies : (sOp.part 0).pairs.contains 0 = true ∧ (sOp.part 0).pairs.contains 1 = false ∧ sOp.pairNext = [] ∧
    (let asked := fun (w q : Nat) => if q = 0 then w else look (sOp.pairWatts q) sOp.pairNext q
     ((List.range 20).map (asked 540)).foldl (· + ·) 0 ≤ 3200 ∧ ¬((List.range 20).map (asked 541)).foldl (· + ·) 0 ≤ 3200) ∧
    floorsUnder sOp 0 540 = true ∧ floorsUnder (withT { team0 with bind := { bind0 with cls := 0 } } task0) 0 0 = false := by
  decide +kernel

theorem test_wit_StorageErrors : (sA.team 0).present = true ∧ 49151 < 49152 ∧ 3145727 < 3145728 ∧
    (usable (sA.ms.core (coreOf 0)).lmap (sA.team 0).bind.prot)[63]? = some 63 ∧ 63 ∉ usable (sA.ms.core (coreOf 0)).lmap true := by
  decide +kernel

/-- The last row of what lives and the first above it; a second copy's lane; a row of an odd number of lanes at 64 bits; a lane that is retired. -/
theorem test_wit_StorageErrors_lanes : (let t := { team0 with ctl := { team0.ctl with gl := 8 } }; let n := t.liveBytes
      t.ctl.width = 32 ∧ 4 * (0 * 64 + 7) < n ∧ n ≤ 4 * (0 * 64 + 8)) ∧
    ((sMirror.team 0).bind.prot = true ∧ 32 ≤ 40 ∧ (usable (sMirror.ms.core 0).lmap true)[8]? = some (40 - 32)) ∧
    (let m : Word := 1#64 <<< 5
     (usable m false)[62]? = some 63 ∧ 5 ∉ usable m false ∧ (usable m false).length = 63 ∧ 2 * (63 / 2) ≤ 62) := by
  decide +kernel

theorem test_wit_Checkpoints : sA.ms.space? 2 = none ∧ sA.ms.space? 1 = some space1 ∧ rising sA.ms.mem = true ∧ space1.dmap + 2 ^ 38 ≤ 2 ^ 44 ∧
    ([] : List Host.Cell).flatMap (fun c => (List.range 8).filter (fun i => c.2.getLsbD i)) = [] := by
  decide

theorem test_wit_Checkpoints_signed : sOp.byOperator signed0 = true ∧ sS.byOperator signed0 = false ∧ space1.dmap ≤ 0x100000 ∧ 0x100000 < space1.dmap + 2 ^ 38 := by
  decide +kernel

/-- A bus access of a word of BAR0 or of a register page, in range and out of it. -/
theorem test_wit_OutsideAccess : Memory.wf sA.ms.mem ∧ 824633720824 + 8 ≤ 824633720832 ∧ 824633720832 < 824633720825 + 8 ∧
    (sA.link 15).up = false ∧ (({ sA with links := [(15, { up := true })] } : State).link 15).up = true ∧
    (∀ i, i < 8 → sA.ms.isPop (0x10040 + i) = true ∧ isHostOrPeer (0x10040 + i) = false) ∧ sA.ms.isPop (2 ^ 44) = false ∧
    (∀ i ∈ List.range 8, sA.ms.poisoned (0x10040 + i) = false) ∧ ({ mem0 with memPoison := [0x401] } : MemSys).poisoned 0x10040 = true := by
  decide +kernel

/-- The host's own memory, backed to its last byte and not above it; a word of BAR0 that is no freeze, whichever word that is. -/
theorem test_wit_OutsideAccess_own : 2 ^ 30 - 8 + 8 ≤ 2 ^ 44 ∧ sA.ms.isPop (2 * 2 ^ 44 + (2 ^ 30 - 8)) = true ∧ sA.ms.isPop (2 * 2 ^ 44 + (2 ^ 30 - 8) + (8 - 1)) = true ∧
    sA.ms.isPop (2 * 2 ^ 44 + 2 ^ 30 + 7) = false ∧ 2 ^ 44 < 2 ^ 44 - 7 + 8 ∧ 131071 < 131072 ∧ ¬131072 < 131072 ∧
    (Config.bar0At 0 ≠ .freeze ∨ Config.bar0At 0 = .freeze) :=
  ⟨by decide, by decide +kernel, by decide +kernel, by decide +kernel, by decide, by decide, by decide, (Decidable.em _).symm⟩

theorem test_wit_OutsideAccess_pages : (sS.part 0).slotAt (0x1038 / 4096) = some 1 ∧ (sS.part 0).slotAt (0x2000 / 4096) = none ∧ 0x1038 % 8 = 0 ∧
    0x1F000 / 4096 = 31 ∧ 32 ≤ 0x20000 / 4096 ∧ 2 ^ 20 < (2 ^ 20 - 7) + 8 ∧ 3 ∉ [0, 2, 4] ∧ sS.power = .ready := by
  decide

theorem test_wit_LinksAndDevices : (sA.link 15).up = false ∧ (({ sA with links := [(15, { up := true })] } : State).link 15).up = true ∧
    sA.maps 31 = false ∧ 0 ∉ sA.cxl ∧ 7 ∈ ({ sA with cxl := [7] } : State).cxl ∧ sA.maps 1 = false := by
  decide +kernel

/-- The table maps a 64 KiB page of a peer's region 31, and one of the far tier. -/
def memPeer (r : Nat) : MemSys := { memWalk with mem := storeLE memWalk.mem 0x84000 8 (r * 2 ^ 44 + 5) }

def sSavedUnacked (r : Nat) : State :=
  { sSaved team0 with saved := [{ savedOf team0 with unacked := [{ unack0 false with pa := r * 2 ^ 44 + 0x40 }] }] }

/-- A frozen module, and a saved context with a write on its way over the link. -/
theorem test_wit_LinksAndDevices_unacked : ({ sA with power := .frozen } : State).power = .frozen ∧ sA.power ≠ .frozen ∧
    (∃ z ∈ (sSavedUnacked 31).saved, ∃ u ∈ z.unacked, u.pa / 2 ^ 44 = 16 + 15) ∧ (sA.part 0).pairs ≠ [] ∧ (sA.part 1).pairs = [] := by
  decide +kernel

theorem test_wit_LinksAndDevices_mapped : ({ sA with ms := memPeer 31 } : State).maps 31 = true ∧ ({ sA with ms := memPeer 1 } : State).maps 1 = true := by
  decide +kernel

/-- What bring-up finds: one link and one dead core; firmware in slot A, signed with the key whose digest is fused. -/
def report0 : BootReport := { supplyOk := true, deadCores := [319], links := [15], cxl := [], physMap := [(0, 4096)] }
def firmware0 : FwImage := { bytes := sample, key := key0, sig := sig0, ver := 1 }
def sOff : State :=
  { State.reset with
    fwA := some firmware0, stored := [req0]
    rootDigest := 0x794113F29EDD796B85DFAADE5D707BE345371383E7BAC485D62EDBCBD377BA1FDDF0A1954BF9AD189792AD0D87299E03 }

theorem test_wit_BringUpAndFreeze_sound : sha384 (keyBytes firmware0.key) = sOff.rootDigest ∧ verifies firmware0.key firmware0.bytes firmware0.sig = true ∧
    sOff.fwFuses ≤ firmware0.ver ∧ sOff.fwA = some firmware0 ∧ sOff.power = .off ∧ report0.supplyOk = true := by
  decide +kernel

/-- What the map names: main memory past its end, the far tier with a port and without, a peer's region, and one no table of the spec names. -/
theorem test_wit_BringUpAndFreeze_map : (0, 4096) ∈ report0.physMap ∧ min 4096 (824633720832 - 0 % 2 ^ 44) = 4096 ∧ 0 < 4096 ∧ 0 / 2 ^ 44 < 16 ∧
    min 4096 (824633720832 - (824633720832 - 1) % 2 ^ 44) = 1 ∧ (∃ p ∈ ({ report0 with cxl := [7] } : BootReport).cxl, p < 8) ∧
    (¬∃ p ∈ ({ report0 with cxl := [8] } : BootReport).cxl, p < 8) ∧ 31 * 2 ^ 44 / 2 ^ 44 - 16 ∈ report0.links ∧ 30 * 2 ^ 44 / 2 ^ 44 - 16 ∉ report0.links ∧
    reqFormed ([] : List PartReq) = false ∧ sOff.stored[0]? = some req0 ∧ 319 ∈ report0.deadCores :=
  ⟨by decide, by decide, by decide, by decide, by decide, ⟨7, by decide, by decide⟩, by decide, by decide, by decide, by decide, rfl, by decide⟩

theorem test_wit_BringUpAndFreeze : State.reset.power = .off ∧ (¬∃ f, State.reset.fwA = some f ∧ State.reset.fwFuses ≤ f.ver) ∧ State.reset.fwB = none ∧
    sA.power = .ready ∧ ({ sA with power := .frozen } : State).power = .frozen ∧ sA.rates = [] ∧ ({ sA with rates := [(0, 2)] } : State).rates = [(0, 2)] :=
  ⟨rfl, fun ⟨_, h, _⟩ => (nomatch h), rfl, rfl, rfl, rfl, rfl⟩

/-! ### Steps, encodings, what every step keeps -/

/-- `addi s1, s0, 5` (R86, R90: OP 0x02, sd 1, sa 0, imm 5), its P bit clear, where the team's PC is, its line cached. -/
def word0 : BitVec 32 := 0x01040005
def sStep : State :=
  { sA with
    agenda := [.bundle 0]
    ms := { mem0 with code := storeLE [] 0x40000 4 word0.toNat, cores := [(0, { Core.reset with icache := [0x1000] })] } }

theorem test_wit_RunsSyl :
    RunsSyl sStep (({ sStep with agenda := [] } : State).setTeam 0 (sStep.team 0)) 0 [] word0 (.addi 1 0 5) :=
  ⟨rfl, rfl, by decide, rfl, by decide, by decide, ok_eq (by decide +kernel) (by decide +kernel), by decide, rfl, .inr (.inr rfl), (fun h => nomatch h),
    by decide +kernel, by decide +kernel, by decide +kernel⟩

/-- Syllables where the team's PC is, in an object in scheduled or in serial form. -/
def sCode (sched : Bool) (t : Team) (ws : List (BitVec 32)) : State :=
  { with0 t with
    agenda := [.bundle 0]
    parts := [(0, { partS with apps := [{ app0 with objs := [{ loaded0 with sched := sched }] }] })]
    ms := { mem0 with
      code := (ws.zipIdx).foldl (fun m x => storeLE m (0x40000 + 4 * x.2) 4 x.1.toNat) []
      cores := [(0, { Core.reset with icache := [0x1000] })] } }

/-- What fetches a list of syllables, step by step. -/
def fetchAll (tk : Nat) : State → Word → List (BitVec 32) → Option State
  | s, _, [] => some s
  | s, a, w :: ws =>
    match fetchSyl s tk a with
    | (s', .ok v) => if v = w then fetchAll tk s' (a + 4#64) ws else none
    | _ => none

def sylsAt (a : Word) : List (BitVec 32) → List Syl
  | [] => []
  | w :: ws => { at' := a, w := w } :: sylsAt (a + 4#64) ws

theorem fetches_of {tk : Nat} : ∀ (ws : List (BitVec 32)) {s t : State} {a : Word}, fetchAll tk s a ws = some t → Fetches tk s a (sylsAt a ws) t
  | [], _, _, _, h => by
    cases h
    exact .done ..
  | w :: ws, s, t, a, h => by
    unfold fetchAll at h
    split at h
    · next s' v hf =>
      split at h
      · next hv =>
        subst hv
        exact .more hf (fetches_of ws h)
      · cases h
    · cases h

theorem atBundle {s : State} (a : s.agenda = [.bundle 0]) (p : s.power = .ready) (r : (s.team 0).status = .running) (q : (s.team 0).q = Queues.empty)
    (d : (s.team 0).deferred = none) : AtBundle s 0 [] :=
  ⟨a, p, by decide, r, fun e he => (by rw [q] at he; cases he), fun _ => d⟩

/-- `addi s1, s0, 5` with its P bit, then `vadd v1, v2, v3`. -/
def pair0 : List (BitVec 32) := [0x81040005, 0x20044300]
def vadd1 : Instr := .vadd { d := 1, a := 2, b := 3, x := false, y := false, m := 0, s := false }
def runs0 : List (Syl × Instr) := [({ at' := 0x40000, w := 0x81040005 }, .addi 1 0 5), ({ at' := 0x40004, w := 0x20044300 }, vadd1)]
def sPair : State := sCode true team0 pair0

theorem fetches_pair {ws : List (BitVec 32)} {t : Team} {sched : Bool}
    (h : (fetchAll 0 ((sCode sched t ws).atFetch 0 []) 0x40000#64 ws) = some ((sCode sched t ws).atFetch 0 [])) :
    Fetches 0 ((sCode sched t ws).atFetch 0 []) 0x40000#64 (sylsAt 0x40000#64 ws) ((sCode sched t ws).atFetch 0 []) := fetches_of ws h

theorem test_wit_RunsBundle : RunsBundle sPair (sPair.atFetch 0 []) 0 [] (sylsAt 0x40000#64 pair0) runs0 :=
  { toAtBundle := atBundle rfl rfl (by decide +kernel) (by decide +kernel) (by decide +kernel)
    fetch := fetches_pair (by decide +kernel)
    form := ⟨[{ at' := 0x40000, w := 0x81040005 }], { at' := 0x40004, w := 0x20044300 }, rfl, ⟨by decide, by decide, .inl (by decide +kernel)⟩, by decide, by decide⟩
    breaks := .inr (.inr (by unfold bkpNames; decide +kernel))
    matrix := by decide +kernel
    syls := rfl
    legal := List.forall_mem_cons.mpr ⟨⟨rfl, by decide +kernel, by decide +kernel⟩,
      List.forall_mem_cons.mpr ⟨⟨rfl, by decide +kernel, by decide +kernel⟩, fun _ h => absurd h List.not_mem_nil⟩⟩
    free := by decide +kernel
    fresh := by decide +kernel
    single := by decide +kernel }

/-- A bundle of one: a `wfe`, which is held, and a misaligned `ld`, which traps. -/
theorem test_wit_RunsBundle_ends : ∃ u v, exec .wfe ({ (sPair.atFetch 0 []).atSyl 0 [] 0 with cur := { ((sPair.atFetch 0 []).atSyl 0 [] 0).cur with word := 0 } } : State) = .next u ∧
    u.cur.st = .held ∧ exec (.ld 1 3 0 3 false 0) ((sPair.atFetch 0 []).atSyl 0 [] 0) = .next v ∧ v.cur.st = .stopped :=
  ⟨_, _, rfl, rfl, rfl, by decide +kernel⟩

/-- What the checks of a bundle meet: an unmapped address, a named syllable, a second syllable of the same class, a P bit in serial form, a
result that would be the fifth in flight, a word that is no syllable. -/
def fourFlights : Team :=
  { team0 with flights := [1, 2, 3, 4].map (fun r => { reg := BitVec.ofNat 5 r, val := 0, load := none, left := 9 }) }

theorem test_wit_BundleChecks_fetch : (∃ s2 i, fetchSyl ((sCode true { team0 with pc := 0x50000 } []).atFetch 0 []) 0 (0x50000#64 + 0#64) = (s2, .error (some i))) ∧
    opens true [] :=
  ⟨⟨_, _, rfl⟩, List.Pairwise.nil, by decide, .inl rfl⟩

theorem test_wit_BundleChecks_break : let t := { team0 with ctl := { team0.ctl with bkp := [(3, 0x40005)] } }
    t.level = .a ∧ t.afterTret = false ∧ wholeBundle true (sylsAt 0x40000#64 pair0) ∧
      (∀ y ∈ [{ at' := 0x40000, w := 0x81040005 : Syl }], ¬bkpNames t.ctl y) ∧ bkpNames t.ctl { at' := 0x40004, w := 0x20044300 } := by
  refine ⟨rfl, rfl, test_wit_RunsBundle.form, ?_, ?_⟩
  · unfold bkpNames
    decide
  · exact ⟨(3, 0x40005), by decide, by decide, by decide⟩

theorem test_wit_BundleChecks_form : brokenBundle true (sylsAt 0x40000#64 [0x81040005, 0x01040005]) { at' := 0x40004, w := 0x01040005 } ∧
    brokenBundle false (sylsAt 0x40000#64 [0x81040005]) { at' := 0x40000, w := 0x81040005 } ∧
    noBreak team0 (sylsAt 0x40000#64 [0x81040005, 0x01040005]) :=
  ⟨⟨[{ at' := 0x40000, w := 0x81040005 }], rfl, ⟨by decide, by decide, .inl rfl⟩, .inl ⟨_, rfl, by decide⟩⟩,
    ⟨[], rfl, ⟨by decide, by decide, .inr rfl⟩, .inr ⟨rfl, by decide⟩⟩, .inr (.inr (by unfold bkpNames; decide))⟩

theorem test_wit_BundleChecks_fifth : decodeSyl 0x0C186A02#32 = .ok (.ld 6 3 2 2 false 2) ∧
    fifthResult (({ sCode true fourFlights [0x0C186A02] with agenda := [.bundle 0] } : State).atFetch 0 [] |>.team 0) (.ld 6 3 2 2 false 2) = true ∧
    AtBundle (sCode true fourFlights [0x0C186A02]) 0 [] ∧ wholeBundle true (sylsAt 0x40000#64 [0x0C186A02]) :=
  ⟨rfl, by decide +kernel, atBundle rfl rfl (by decide +kernel) (by decide +kernel) (by decide +kernel),
    [], _, rfl, ⟨by decide, by decide, .inl rfl⟩, by decide, by decide⟩

theorem test_wit_BundleChecks_illegal : (∃ n, decodeSyl 0x1FFFFFFF#32 = .error n) ∧ wholeBundle false (sylsAt 0x40000#64 [0x1FFFFFFF]) ∧
    (∀ y ∈ sylsAt 0x40000#64 [0x1FFFFFFF], y.cls ≠ 2) :=
  ⟨⟨_, rfl⟩, ⟨[], _, rfl, ⟨by decide, by decide, .inr rfl⟩, by decide, by decide⟩, by decide⟩

/-- A `tadd t3, t1, t2` where the slot's SPC is (R96). -/
def sTop : State :=
  { sS with agenda := [.top 0], ms := { mem0 with mem := storeLE [] 0x10000 8 0x0231200000000000 } }

theorem test_wit_RunsTop : RunsTop sTop { sTop with agenda := [] } { sTop with agenda := [] } 0 [] 0x0231200000000000#64 [] (.tadd 3 1 2) :=
  ⟨rfl, rfl, by decide, by decide +kernel, by decide, ok_eq (by decide +kernel) (by decide +kernel), by decide, rfl, rfl⟩

theorem test_wit_Step : (({ sJob job0 with agenda := [.nmu 3 5] } : State).agenda = [.nmu 3 5]) ∧ ({ sJob job0 with agenda := [.nmu 3 5] } : State).job? 3 = some job0 ∧
    nmInstr job0.opcode job0.cmd = some (.nmScale cmd0) ∧ ({ sA with agenda := [.ev .powerEpoch] } : State).power = .ready ∧
    State.reset.agenda = [] ∧ State.reset.power ≠ .ready ∧ ({ sA with turns := 2 * 640 + 1 } : State).turns = 2 * 640 + 1 ∧
    ((slotDue ({ sA with turns := 2 * 640 + 1 } : State) (640 % 640))[640 / 640 % (slotDue ({ sA with turns := 2 * 640 + 1 } : State) (640 % 640)).length]?).isSome = true ∧
    sA.turns = 0 ∧ slotDue ({ sA with turns := 3 } : State) (1 % 640) = [] := by
  decide +kernel

theorem test_step_runs : ∃ t, step sStep = .next t ∧ (t.team 0).reg 1#5 = 5#64 ∧ (t.team 0).pc = 0x40004#64 := by
  refine ⟨_, rfl, ?_⟩
  decide +kernel

theorem test_wit_EncodingRoundTrip : (Instr.addi 1 0 5).wf = true ∧ encodeSyl false (.addi 1 0 5) = some word0 ∧ (Instr.tadd 3 1 2).wf = true ∧
    encodeTop (.tadd 3 1 2) = some (0x0231200000000000#64 :: []) ∧ (Instr.nmScale cmd0).wf = true ∧ (encodeNm (.nmScale cmd0)).isSome = true := by
  decide +kernel

theorem step_event {s : State} {i : Instr} (ha : s.agenda = [.ev i]) (hp : s.power = .ready) : step s = exec i { s with agenda := [] } := by
  simp [step, nextTurn, ha, Due.run, runTurn, hp, Turn.allowed]

theorem test_wit_FusesOnlyBlow : ∃ t, step ({ sOp with agenda := [.ev (.fuseAdvance ⟨3, signed0⟩)] } : State) = .next t ∧ t.svFuses = 3 := by
  have h : ({ sOp with agenda := [] } : State).byOperator signed0 = true := test_wit_OperatorRequests.1
  refine ⟨{ sOp with svFuses := 3, agenda := [] }, ?_, rfl⟩
  rw [step_event rfl rfl, exec, execFuseAdvance, if_pos ⟨h, by decide, by decide⟩]

theorem test_wit_FrozenModule : ∃ t, step ({ sA with power := .frozen, agenda := [.ev (.freezeResume false)] } : State) = .next t := ⟨_, rfl⟩

theorem teamFine (t : Team) (h : bankOk t.regs = true) (g : bankOk t.hregs = true) (v : t.vec = VecState.start) (u : t.under = []) (o : t.overs = [])
    (e : t.entry = none) : t.inOrder :=
  ⟨⟨h, g⟩, by rw [v]; exact ⟨rfl, rfl, rfl⟩, fun c hc => (by rw [u] at hc; cases hc), fun x hx => (by rw [o] at hx; cases hx),
    fun c hc => (by rw [e] at hc; cases hc)⟩

theorem test_wit_StateStaysInOrder : sStep.InOrder ∧ ∃ t, step sStep = .next t := by
  refine ⟨⟨by decide +kernel, rfl, rfl, rfl, fun _ => rfl, fun tk => ?_, fun _ => ⟨rfl, fun _ h => absurd h List.not_mem_nil⟩, fun _ h => absurd h List.not_mem_nil⟩,
    _, rfl⟩
  cases tk with
  | zero => exact teamFine team0 (by decide) (by decide) rfl rfl rfl rfl
  | succ n =>
    have h : sStep.team (n + 1) = Team.reset := by
      simp [State.team, look, find?, sStep, sA, with0]
    rw [h]
    exact teamFine _ rfl rfl rfl rfl rfl rfl

/-! ### Every constructor's word (R86 to R99)

Syllables: the fixed bits of their row with register operands and fields at values of their own; T-ops and near-memory commands: the
words of R96, R97 and R99. -/

def words1 : List (Nat × Nat × Instr) :=
  [(32, 0x00146600, .add 5 3 6),
   (32, 0x00146601, .sub 5 3 6),
   (32, 0x00146602, .and 5 3 6),
   (32, 0x00146603, .or 5 3 6),
   (32, 0x00146604, .xor 5 3 6),
   (32, 0x00146605, .sll 5 3 6),
   (32, 0x00146606, .srl 5 3 6),
   (32, 0x00146607, .sra 5 3 6),
   (32, 0x00146608, .slt 5 3 6),
   (32, 0x00146609, .sltu 5 3 6),
   (32, 0x0014660A, .min 5 3 6),
   (32, 0x0014660B, .max 5 3 6),
   (32, 0x0014660C, .minu 5 3 6),
   (32, 0x0014660D, .maxu 5 3 6),
   (32, 0x0014600E, .clz 5 3),
   (32, 0x0014600F, .ctz 5 3),
   (32, 0x00146010, .popc 5 3),
   (32, 0x00146011, .sextB 5 3),
   (32, 0x00146012, .sextH 5 3),
   (32, 0x00146013, .sextW 5 3),
   (32, 0x00146014, .zextB 5 3),
   (32, 0x00146015, .zextH 5 3),
   (32, 0x00146016, .zextW 5 3),
   (32, 0x00146617, .andn 5 3 6),
   (32, 0x00146618, .orn 5 3 6),
   (32, 0x00146619, .rol 5 3 6),
   (32, 0x0014661A, .ror 5 3 6),
   (32, 0x00946600, .mul 5 3 6),
   (32, 0x00946601, .mulh 5 3 6),
   (32, 0x00946602, .mulhu 5 3 6)]

theorem test_decode1 : words1.all (fun x => decide (decodeTableWord x.1 x.2.1 = some x.2.2)) = true := by decide +kernel

def words2 : List (Nat × Nat × Instr) :=
  [(32, 0x00946603, .mulhsu 5 3 6),
   (32, 0x00946604, .div 5 3 6),
   (32, 0x00946605, .divu 5 3 6),
   (32, 0x00946606, .rem 5 3 6),
   (32, 0x00946607, .remu 5 3 6),
   (32, 0x01147FFD, .addi 5 3 (-3)),
   (32, 0x01947FFD, .andi 5 3 (-3)),
   (32, 0x02147FFD, .ori 5 3 (-3)),
   (32, 0x02947FFD, .xori 5 3 (-3)),
   (32, 0x03147FFD, .slti 5 3 (-3)),
   (32, 0x03947FFD, .sltiu 5 3 (-3)),
   (32, 0x04146025, .slli 5 3 37),
   (32, 0x04146065, .srli 5 3 37),
   (32, 0x041460A5, .srai 5 3 37),
   (32, 0x0496EE90, .lhi 5 (-70000)),
   (32, 0x0517FFFE, .lpc 5 (-2)),
   (32, 0x080CDFFE, .beq 3 6 (-2)),
   (32, 0x088CDFFE, .bne 3 6 (-2)),
   (32, 0x090CDFFE, .blt 3 6 (-2)),
   (32, 0x098CDFFE, .bge 3 6 (-2)),
   (32, 0x0A0CDFFE, .bltu 3 6 (-2)),
   (32, 0x0A8CDFFE, .bgeu 3 6 (-2)),
   (32, 0x0B17FFFE, .jal 5 (-2)),
   (32, 0x0B947FFD, .jalr 5 3 (-3)),
   (32, 0x0C146AD5, .ld 5 3 2 2 true 85),
   (32, 0x0C946A55, .st 5 3 2 2 85),
   (32, 0x0D1472D5, .ldAcq 5 3 2 2 true 85),
   (32, 0x0D947255, .stRel 5 3 2 2 85),
   (32, 0x0E14660E, .amoAdd 5 3 6 true true),
   (32, 0x0E14661E, .amoAnd 5 3 6 true true)]

theorem test_decode2 : words2.all (fun x => decide (decodeTableWord x.1 x.2.1 = some x.2.2)) = true := by decide +kernel

def words3 : List (Nat × Nat × Instr) :=
  [(32, 0x0E14662E, .amoOr 5 3 6 true true),
   (32, 0x0E14663E, .amoXor 5 3 6 true true),
   (32, 0x0E14664E, .amoMin 5 3 6 true true),
   (32, 0x0E14665E, .amoMax 5 3 6 true true),
   (32, 0x0E14666E, .amoMinu 5 3 6 true true),
   (32, 0x0E14667E, .amoMaxu 5 3 6 true true),
   (32, 0x0E14668E, .amoSwap 5 3 6 true true),
   (32, 0x0E14669E, .amoCas 5 3 6 true true),
   (32, 0x0E800002, .fence 2),
   (32, 0x10146600, .kbind 5 3 6),
   (32, 0x10806602, .kacq 3 6 2),
   (32, 0x11006602, .krel 3 6 2),
   (32, 0x11946602, .ktry 5 3 6 2),
   (32, 0x12000000, .gbarArr),
   (32, 0x12000401, .gbarWait 4),
   (32, 0x14146000, .setgl 5 3),
   (32, 0x14146601, .setglH 5 3 6),
   (32, 0x14806000, .stb 3),
   (32, 0x14806601, .stbW 3 6),
   (32, 0x1503FFFE, .ste (-2)),
   (32, 0x15946009, .addgl 5 3 9),
   (32, 0x1814020A, .crr 5 261),
   (32, 0x1880620A, .crw 3 261),
   (32, 0x1914620A, .crs 5 3 261),
   (32, 0x1994620A, .crc 5 3 261),
   (32, 0x1C000803, .trapSys 2051),
   (32, 0x1C4007FE, .trapBrk 2046),
   (32, 0x1C800000, .tret),
   (32, 0x1D000000, .texit),
   (32, 0x1D800000, .wfe)]

theorem test_decode3 : words3.all (fun x => decide (decodeTableWord x.1 x.2.1 = some x.2.2)) = true := by decide +kernel

def words4 : List (Nat × Nat × Instr) :=
  [(32, 0x1F800000, .nop),
   (32, 0x201466D4, .vadd { d := 5, a := 3, b := 6, x := true, y := true, m := 5, s := false }),
   (32, 0x209466D4, .vsub { d := 5, a := 3, b := 6, x := true, y := true, m := 5, s := false }),
   (32, 0x211466D4, .vmul { d := 5, a := 3, b := 6, x := true, y := true, m := 5, s := false }),
   (32, 0x219466D4, .vmulh { d := 5, a := 3, b := 6, x := true, y := true, m := 5, s := false }),
   (32, 0x219466D6, .vmulhU { d := 5, a := 3, b := 6, x := true, y := true, m := 5, s := false }),
   (32, 0x221466D4, .vmin { d := 5, a := 3, b := 6, x := true, y := true, m := 5, s := false }),
   (32, 0x221466D6, .vminU { d := 5, a := 3, b := 6, x := true, y := true, m := 5, s := false }),
   (32, 0x229466D4, .vmax { d := 5, a := 3, b := 6, x := true, y := true, m := 5, s := false }),
   (32, 0x229466D6, .vmaxU { d := 5, a := 3, b := 6, x := true, y := true, m := 5, s := false }),
   (32, 0x231466D4, .vand { d := 5, a := 3, b := 6, x := true, y := true, m := 5, s := false }),
   (32, 0x239466D4, .vor { d := 5, a := 3, b := 6, x := true, y := true, m := 5, s := false }),
   (32, 0x241466D4, .vxor { d := 5, a := 3, b := 6, x := true, y := true, m := 5, s := false }),
   (32, 0x249466D4, .vsll { d := 5, a := 3, b := 6, x := true, y := true, m := 5, s := false }),
   (32, 0x251466D4, .vsrl { d := 5, a := 3, b := 6, x := true, y := true, m := 5, s := false }),
   (32, 0x259466D4, .vsra { d := 5, a := 3, b := 6, x := true, y := true, m := 5, s := false }),
   (32, 0x261466D4, .vsadd { d := 5, a := 3, b := 6, x := true, y := true, m := 5, s := false }),
   (32, 0x261466D6, .vsaddU { d := 5, a := 3, b := 6, x := true, y := true, m := 5, s := false }),
   (32, 0x269466D4, .vssub { d := 5, a := 3, b := 6, x := true, y := true, m := 5, s := false }),
   (32, 0x269466D6, .vssubU { d := 5, a := 3, b := 6, x := true, y := true, m := 5, s := false }),
   (32, 0x271466D4, .vcmpuLtu { d := 5, a := 3, b := 6, x := true, y := true, m := 5, s := false }),
   (32, 0x271466D6, .vcmpuGeu { d := 5, a := 3, b := 6, x := true, y := true, m := 5, s := false }),
   (32, 0x279466D4, .vmerge { d := 5, a := 3, b := 6, x := true, y := true, m := 5, s := false }),
   (32, 0x281466D4, .vfadd { d := 5, a := 3, b := 6, x := true, y := true, m := 5, s := false }),
   (32, 0x289466D4, .vfsub { d := 5, a := 3, b := 6, x := true, y := true, m := 5, s := false }),
   (32, 0x291466D4, .vfmul { d := 5, a := 3, b := 6, x := true, y := true, m := 5, s := false }),
   (32, 0x299466D4, .vfma { d := 5, a := 3, b := 6, x := true, y := true, m := 5 }),
   (32, 0x299466D5, .vfmaFms { d := 5, a := 3, b := 6, x := true, y := true, m := 5 }),
   (32, 0x299466D6, .vfmaFnma { d := 5, a := 3, b := 6, x := true, y := true, m := 5 }),
   (32, 0x299466D7, .vfmaFnms { d := 5, a := 3, b := 6, x := true, y := true, m := 5 })]

theorem test_decode4 : words4.all (fun x => decide (decodeTableWord x.1 x.2.1 = some x.2.2)) = true := by decide +kernel

def words5 : List (Nat × Nat × Instr) :=
  [(32, 0x2A1466D4, .vfdiv { d := 5, a := 3, b := 6, x := true, y := true, m := 5, s := false }),
   (32, 0x2A946094, .vfsqrt { d := 5, a := 3, x := true, m := 5 }),
   (32, 0x2B146094, .vfrcp { d := 5, a := 3, x := true, m := 5 }),
   (32, 0x2B946094, .vfrsq { d := 5, a := 3, x := true, m := 5 }),
   (32, 0x2C1466D4, .vfmin { d := 5, a := 3, b := 6, x := true, y := true, m := 5, s := false }),
   (32, 0x2C9466D4, .vfmax { d := 5, a := 3, b := 6, x := true, y := true, m := 5, s := false }),
   (32, 0x2D146094, .vfexp2 { d := 5, a := 3, x := true, m := 5 }),
   (32, 0x2D946094, .vflog2 { d := 5, a := 3, x := true, m := 5 }),
   (32, 0x2E146894, .vfcvt { d := 5, a := 3, b := 8, x := true, m := 5 }),
   (32, 0x2E946094, .vfclass { d := 5, a := 3, x := true, m := 5 }),
   (32, 0x2F1466D4, .vcmpEq { d := 5, a := 3, b := 6, x := true, y := true, m := 5 }),
   (32, 0x2F1466D5, .vcmpNe { d := 5, a := 3, b := 6, x := true, y := true, m := 5 }),
   (32, 0x2F1466D6, .vcmpLt { d := 5, a := 3, b := 6, x := true, y := true, m := 5 }),
   (32, 0x2F1466D7, .vcmpGe { d := 5, a := 3, b := 6, x := true, y := true, m := 5 }),
   (32, 0x2F9466D4, .vfcmpEq { d := 5, a := 3, b := 6, x := true, y := true, m := 5 }),
   (32, 0x2F9466D5, .vfcmpLt { d := 5, a := 3, b := 6, x := true, y := true, m := 5 }),
   (32, 0x2F9466D6, .vfcmpLe { d := 5, a := 3, b := 6, x := true, y := true, m := 5 }),
   (32, 0x2F9466D7, .vfcmpUnord { d := 5, a := 3, b := 6, x := true, y := true, m := 5 }),
   (32, 0x30146614, .kand { d := 5, a := 3, b := 6, m := 5 }),
   (32, 0x30146615, .kor { d := 5, a := 3, b := 6, m := 5 }),
   (32, 0x30146616, .kxor { d := 5, a := 3, b := 6, m := 5 }),
   (32, 0x30146017, .kinv 5 3 5),
   (32, 0x30946000, .kcount 5 3),
   (32, 0x31146000, .kany 5 3),
   (32, 0x31946000, .kfirst 5 3),
   (32, 0x32140000, .ppinit 5),
   (32, 0x32140001, .ppinitNorm 5),
   (32, 0x329466D4, .ppmul { d := 5, a := 3, b := 6, x := true, y := true, m := 5 }),
   (32, 0x32946095, .ppmulPb { d := 5, a := 3, x := true, m := 5 }),
   (32, 0x33146600, .ppdiv 5 3 6)]

theorem test_decode5 : words5.all (fun x => decide (decodeTableWord x.1 x.2.1 = some x.2.2)) = true := by decide +kernel

def words6 : List (Nat × Nat × Instr) :=
  [(32, 0x33946014, .ppmvToVector 5 3 5),
   (32, 0x33946095, .ppmvToPoly { d := 5, a := 3, x := true, m := 5 }),
   (32, 0x34146694, .vslideUp { d := 5, a := 3, b := 6, x := true, m := 5 }),
   (32, 0x34146695, .vslideDown { d := 5, a := 3, b := 6, x := true, m := 5 }),
   (32, 0x349466D4, .vgathR { d := 5, a := 3, b := 6, x := true, y := true, m := 5 }),
   (32, 0x351466D4, .vscatR { d := 5, a := 3, b := 6, x := true, y := true, m := 5 }),
   (32, 0x35946094, .vcompress { d := 5, a := 3, x := true, m := 5 }),
   (32, 0x36146094, .vexpand { d := 5, a := 3, x := true, m := 5 }),
   (32, 0x36940614, .vbcast 5 6 5),
   (32, 0x37146680, .vext 5 3 6 true),
   (32, 0x37946614, .vins { d := 5, a := 3, b := 6, m := 5 }),
   (32, 0x38140014, .vid 5 5),
   (32, 0x38946094, .vmv { d := 5, a := 3, x := true, m := 5 }),
   (32, 0x39146094, .vredSum { d := 5, a := 3, x := true, m := 5 }),
   (32, 0x39146095, .vredFsum { d := 5, a := 3, x := true, m := 5 }),
   (32, 0x39146096, .vredMax { d := 5, a := 3, x := true, m := 5 }),
   (32, 0x39146097, .vredMin { d := 5, a := 3, x := true, m := 5 }),
   (32, 0x39946094, .vfoldSum { d := 5, a := 3, x := true, m := 5 }),
   (32, 0x39946095, .vfoldFsum { d := 5, a := 3, x := true, m := 5 }),
   (32, 0x39946096, .vfoldMax { d := 5, a := 3, x := true, m := 5 }),
   (32, 0x39946097, .vfoldMin { d := 5, a := 3, x := true, m := 5 }),
   (32, 0x3A146094, .vscanSum { d := 5, a := 3, x := true, m := 5 }),
   (32, 0x3A146095, .vscanFsum { d := 5, a := 3, x := true, m := 5 }),
   (32, 0x3A146096, .vscanMax { d := 5, a := 3, x := true, m := 5 }),
   (32, 0x3A146097, .vscanMin { d := 5, a := 3, x := true, m := 5 }),
   (32, 0x3A946625, .vamoAdd { d := 5, a := 3, b := 6, c := 2, m := 5 }),
   (32, 0x3A946665, .vamoMin { d := 5, a := 3, b := 6, c := 2, m := 5 }),
   (32, 0x3A9466A5, .vamoMax { d := 5, a := 3, b := 6, c := 2, m := 5 }),
   (32, 0x3A9466E5, .vamoSwap { d := 5, a := 3, b := 6, c := 2, m := 5 }),
   (32, 0x3B146080, .vtocb 5 3 true)]

theorem test_decode6 : words6.all (fun x => decide (decodeTableWord x.1 x.2.1 = some x.2.2)) = true := by decide +kernel

def words7 : List (Nat × Nat × Instr) :=
  [(32, 0x3B887400, .vrep 2 3 20),
   (32, 0x3C1466AD, .vld { d := 5, a := 3, b := 6, o := true, c := 2, v := true, m := 5 }),
   (32, 0x3C9466A5, .vst { d := 5, a := 3, b := 6, y := true, c := 2, n := false, m := 5 }),
   (32, 0x3D1466AD, .vldx { d := 5, a := 3, b := 6, o := true, c := 2, v := true, m := 5 }),
   (32, 0x3D9466A5, .vstx { d := 5, a := 3, b := 6, y := true, c := 2, n := false, m := 5 }),
   (32, 0x3E1466AD, .tensorLoad { d := 5, a := 3, b := 6, o := true, c := 2, v := true, m := 5 }),
   (32, 0x3E9466A5, .tensorStore { d := 5, a := 3, b := 6, y := true, c := 2, n := false, m := 5 }),
   (32, 0x3F14668D, .vgl 5 3 6 true true 5),
   (32, 0x3F946685, .vsc 5 3 6 true 5),
   (32, 0x4028664B, .mma { t := 10, a := 3, b := 6, f := 4, u := true, v := false, s := true, c := true }),
   (32, 0x40A8664B, .mmaG { t := 10, a := 3, b := 6, f := 4, u := true, v := false, s := true, c := true }),
   (32, 0x41280000, .mzero 10),
   (32, 0x41A86000, .mld 10 3),
   (32, 0x42286000, .mst 10 3),
   (32, 0x42A8A001, .mdrainF32 10 5 true),
   (32, 0x42A8A011, .mdrainBf16 10 5 true),
   (32, 0x42A8A921, .mdrainI8 10 5 9 true),
   (32, 0x43286042, .maddRow 10 3 true true),
   (32, 0x43286046, .maddCol 10 3 true true),
   (32, 0x43A86652, .msum 10 3 6 true false true),
   (32, 0x44000000, .mwait),
   (32, 0x6014676B, .cpy { d := 5, a := 3, l := 7, y := 1, e := 2, g := 11 }),
   (32, 0x6094676B, .cpyt { d := 5, a := 3, l := 7, y := 1, e := 2, g := 11 }),
   (32, 0x6114676B, .cfill { d := 5, a := 3, l := 7, y := 1, e := 2, g := 11 }),
   (32, 0x6194676B, .cgath { d := 5, a := 3, l := 7, y := 1, e := 2, g := 11 }),
   (32, 0x6214606B, .cnm 5 3 1 2 11),
   (32, 0x6214616B, .cnmAll 5 3 1 2 11),
   (32, 0x6280000B, .cwait 11),
   (32, 0x6300672B, .cpf 3 7 2 11),
   (32, 0x6380000B, .cfence 11)]

theorem test_decode7 : words7.all (fun x => decide (decodeTableWord x.1 x.2.1 = some x.2.2)) = true := by decide +kernel

def wordsT1 : List (Nat × Nat × Instr) :=
  [(64, 0x01300FFFFFFFFFFB, .tli 3 (-5)),
   (64, 0x0231200000000000, .tadd 3 1 2),
   (64, 0x03310FFFFFFFFFF9, .taddi 3 1 (-7)),
   (64, 0x0431200000000000, .tsub 3 1 2),
   (64, 0x0531200000000000, .tmul 3 1 2),
   (64, 0x0631200000000000, .tand 3 1 2),
   (64, 0x0731200000000000, .tor 3 1 2),
   (64, 0x0831200000000000, .tshl 3 1 2),
   (64, 0x0931200000000000, .tshr 3 1 2),
   (64, 0x10310FFFFFFFFFF8, .tld 3 1 (-8)),
   (64, 0x1101200000000010, .tst 1 2 16),
   (64, 0x18012FFFFFFFFFFD, .tbeq 1 2 (-3)),
   (64, 0x19012FFFFFFFFFFD, .tbne 1 2 (-3)),
   (64, 0x1A012FFFFFFFFFFD, .tblt 1 2 (-3)),
   (64, 0x1B012FFFFFFFFFFD, .tbge 1 2 (-3)),
   (64, 0x1C000FFFFFFFFFFC, .tj (-4))]

theorem test_decodeT1 : wordsT1.all (fun x => decide (decodeTableWord x.1 x.2.1 = some x.2.2)) = true := by decide +kernel

def wordsT2 : List (Nat × Nat × Instr) :=
  [(64, 0x1D90000000000004, .tjal 9 4),
   (64, 0x1E09000000000000, .tjr 9),
   (64, 0x20000C8511000000, .tbuf 200 20 8 2),
   (64, 0x21050C8000000000, .tbind 200 5),
   (64, 0x22000C8000000000, .tfree 200),
   (64, 0x31000C8640000000, .tcopy 200 100),
   (64, 0x3205000000000000, .tnm 5),
   (64, 0x3205000000000001, .tnmAll 5),
   (64, 0x38300C8000000048, .tread 3 200 0x48),
   (64, 0x3C01200000000000, .tsig 1 2),
   (64, 0x3D01200000000000, .twait 1 2),
   (64, 0x3E00000000000000, .tfence),
   (64, 0xF000000000000102, .tsys 0x102),
   (64, 0xFF00000000000000, .thalt)]

theorem test_decodeT2 : wordsT2.all (fun x => decide (decodeTableWord x.1 x.2.1 = some x.2.2)) = true := by decide +kernel

def wordsN : List (Nat × Nat × Instr) :=
  [(512, 0x00000000000000000000000000000000000000000000001100000000000000000000000000000000000000000000200000000000000010000000000600052801, .nmFill { w := 8, g := 9, rm := 1, count := 6, dst := 0x1000, src := 0x2000, aux1 := 0x0, aux2 := 0x0, k0 := 17, k1 := 0, k2 := 0, k3 := 0, k4 := 0 }),
   (512, 0x00000000000000000000000000000000000000000000000000000000000000000000000000000000000000000000200000000000000010000000000600052802, .nmCopy { w := 8, g := 9, rm := 1, count := 6, dst := 0x1000, src := 0x2000, aux1 := 0x0, aux2 := 0x0, k0 := 0, k1 := 0, k2 := 0, k3 := 0, k4 := 0 }),
   (512, 0x00000000000000000000000000000000000000000000001100000000000000000000000000000000000000000000200000000000000010000000000600052803, .nmScale { w := 8, g := 9, rm := 1, count := 6, dst := 0x1000, src := 0x2000, aux1 := 0x0, aux2 := 0x0, k0 := 17, k1 := 0, k2 := 0, k3 := 0, k4 := 0 }),
   (512, 0x00000000000000000000000000000000000000000000001100000000000000000000000000000000000000000000200000000000000010000000000600052804, .nmAxpy { w := 8, g := 9, rm := 1, count := 6, dst := 0x1000, src := 0x2000, aux1 := 0x0, aux2 := 0x0, k0 := 17, k1 := 0, k2 := 0, k3 := 0, k4 := 0 }),
   (512, 0x00000000000000000000000000000000000000120000001100000000000000000000000000000000000000000000200000000000000010000000000600052805, .nmSgdwd { w := 8, g := 9, rm := 1, count := 6, dst := 0x1000, src := 0x2000, aux1 := 0x0, aux2 := 0x0, k0 := 17, k1 := 18, k2 := 0, k3 := 0, k4 := 0 }),
   (512, 0x00000000000000000000000000000000000000120000001100000000000000000000000000003000000000000000200000000000000010000000000600052806, .nmMomentum { w := 8, g := 9, rm := 1, count := 6, dst := 0x1000, src := 0x2000, aux1 := 0x3000, aux2 := 0x0, k0 := 17, k1 := 18, k2 := 0, k3 := 0, k4 := 0 }),
   (512, 0x00000000000000150000001400000013000000120000001100000000000040000000000000003000000000000000200000000000000010000000000600052807, .nmAdamw { w := 8, g := 9, rm := 1, count := 6, dst := 0x1000, src := 0x2000, aux1 := 0x3000, aux2 := 0x4000, k0 := 17, k1 := 18, k2 := 19, k3 := 20, k4 := 21 }),
   (512, 0x00000000000000000000000000000000000000000000000000000000000000000000000000003000000000000000200000000000000010000000000600052808, .nmSumsq { w := 8, g := 9, rm := 1, count := 6, dst := 0x1000, src := 0x2000, aux1 := 0x3000, aux2 := 0x0, k0 := 0, k1 := 0, k2 := 0, k3 := 0, k4 := 0 }),
   (512, 0x00000000000000000000000000000000000000000000001100000000000000000000000000000000000000000000200000000000000010000000000600052809, .nmCast { w := 8, g := 9, rm := 1, count := 6, dst := 0x1000, src := 0x2000, aux1 := 0x0, aux2 := 0x0, k0 := 17, k1 := 0, k2 := 0, k3 := 0, k4 := 0 })]

theorem test_decodeN : wordsN.all (fun x => decide (decodeTableWord x.1 x.2.1 = some x.2.2)) = true := by decide +kernel

/-- A launch with an operand word of each kind (R97). -/
theorem test_decodeLaunch : decodeTop 0x3004067C00000ABC#64 [0x1000000000000005#64, 0x2000000000000006#64, 0x3700000000000000#64, 0x4FFFFFFFFFFFFFF7#64, 0x5800000000001234#64, 0x6900000000000000#64] =
    .ok (.tlaunch { a := 4, gsz := 7, lm := 48, gc := 0, ker := 0xABC } [.inp 5, .out 6, .sreg 7, .simm (-9), .raw 8 0x1234, .after 9]) := by
  rfl

/-! ### Ill-formed terms, one for each check of `Instr.wf`, and their neighbours that pass -/

def nm0 : NmCmd :=
  { w := 8, g := 8, rm := 0, count := 1, dst := 0, src := 0, aux1 := 0, aux2 := 0, k0 := 0, k1 := 0, k2 := 0, k3 := 0, k4 := 0 }

theorem test_wf_scalar : ([.ld 1 2 5 0 false 0, .ld 1 2 0 3 true 0, .st 1 2 3 0 0, .st 1 2 4 0 0, .ldAcq 1 2 0 3 true 0] : List Instr).all (fun i => !i.wf) = true ∧
    ([.ld 1 2 4 2 true 0, .ld 1 2 0 3 false 0, .st 1 2 5 0 0] : List Instr).all Instr.wf = true := by
  decide

theorem test_wf_vector : ([.vadd { d := 1, a := 2, b := 3, x := false, y := true, m := 0, s := true },
      .vcmpuLtu { d := 0, a := 2, b := 3, x := false, y := false, m := 0, s := false }, .vcmpEq { d := 16, a := 2, b := 3, x := false, y := false, m := 0 },
      .vfcvt { d := 1, a := 2, b := 0, x := false, m := 0 }, .vfcvt { d := 1, a := 2, b := 13, x := false, m := 0 }, .kand { d := 1, a := 16, b := 2, m := 0 },
      .kinv 0 1 0, .kcount 1 16, .kany 1 31, .kfirst 1 16, .ppinit 8, .ppdiv 8 1 2, .ppmvToVector 1 8 0, .vtocb 8 1 false,
      .vslideUp { d := 1, a := 1, b := 2, x := false, m := 0 }, .vgathR { d := 1, a := 2, b := 1, x := false, y := false, m := 0 },
      .vcompress { d := 1, a := 1, x := false, m := 0 }] : List Instr).all (fun i => !i.wf) = true ∧
    ([.vfcvt { d := 1, a := 2, b := 14, x := false, m := 0 }, .kand { d := 15, a := 0, b := 15, m := 0 }, .ppinit 7,
      .vslideUp { d := 1, a := 2, b := 1, x := false, m := 0 }] : List Instr).all Instr.wf = true := by
  decide

theorem test_wf_vmem : ([.vld { d := 1, a := 2, b := 3, o := false, c := 5, v := false, m := 0 }, .vst { d := 1, a := 2, b := 3, y := false, c := 1, n := true, m := 0 },
      .vamoAdd { d := 1, a := 2, b := 3, c := 3, m := 0 }, .vsc 1 2 3 false 0, .tensorLoad { d := 1, a := 2, b := 1, o := false, c := 0, v := false, m := 0 }] :
      List Instr).all (fun i => !i.wf) = true ∧
    ([.vst { d := 1, a := 2, b := 3, y := false, c := 0, n := true, m := 0 }, .vsc 1 2 3 false 1] : List Instr).all Instr.wf = true := by
  decide

theorem test_wf_matrix : ([.mma { t := 1, a := 2, b := 3, f := 9, u := false, v := false, s := false, c := false },
      .mma { t := 1, a := 2, b := 3, f := 5, u := true, v := false, s := false, c := false }, .mma { t := 1, a := 2, b := 3, f := 0, u := false, v := false, s := true, c := false },
      .maddRow 1 2 false true, .msum 1 2 3 true true false] : List Instr).all (fun i => !i.wf) = true ∧
    ([.mma { t := 1, a := 2, b := 3, f := 5, u := false, v := false, s := true, c := false }, .maddRow 1 2 true true] : List Instr).all Instr.wf = true := by
  decide

theorem test_wf_stream : ([.tbuf 0 5 8 0, .tbuf 0 41 8 0, .tbuf 0 6 13 0, .tbuf 0 6 8 3, .tbuf 0 25 8 2, .tread 1 0 4,
      .tlaunch { a := 0, gsz := 0, lm := 0, gc := 1, ker := 0 } [], .tlaunch { a := 0, gsz := 0, lm := 49, gc := 1, ker := 0 } [],
      .tlaunch { a := 0, gsz := 0, lm := 1, gc := 0, ker := 0 } [], .tlaunch { a := 1, gsz := 0, lm := 1, gc := 1, ker := 0 } [],
      .tlaunch { a := 0, gsz := 0, lm := 1, gc := 1, ker := 0 } [.after 1, .after 2],
      .tlaunch { a := 0, gsz := 0, lm := 1, gc := 1, ker := 0 } (List.replicate 9 (.inp 1))] : List Instr).all (fun i => !i.wf) = true ∧
    ([.tbuf 0 40 14 1, .tbuf 0 24 12 2, .tread 1 0 8, .tlaunch { a := 0, gsz := 7, lm := 48, gc := 16383, ker := 0 } [.after 1]] : List Instr).all Instr.wf = true := by
  decide

theorem test_wf_nm : ([.nmFill { nm0 with k1 := 1 }, .nmCopy { nm0 with k0 := 1 }, .nmScale { nm0 with aux1 := 1 }, .nmAxpy { nm0 with k4 := 1 },
      .nmSgdwd { nm0 with k2 := 1 }, .nmMomentum { nm0 with aux2 := 1 }, .nmSumsq { nm0 with k0 := 1 }, .nmCast { nm0 with aux2 := 1 }] : List Instr).all (fun i => !i.wf) = true ∧
    ([.nmAdamw { nm0 with k4 := 1, aux2 := 1 }, .nmSumsq { nm0 with aux1 := 1 }, .nmCast { nm0 with k0 := 1 }] : List Instr).all Instr.wf = true := by
  decide

/-- Words the maps do not list, or with a field set that must be zero (R95, R98, R100). -/
theorem test_refused : (([(32, 0x00146601 + 0x1A), (32, 0x0014610E), (32, 0x1F800001), (64, 0x0A00000000000000), (64, 0x1C10000000000000), (64, 0x3000010080010002),
      (512, 0x00), (512, 0x0A), (512, 0x200001)] : List (Nat × Nat)).all (fun x => (decodeTableWord x.1 x.2).isNone)) = true := by
  decide +kernel

/-! ### One instruction each, expected values worked out from the rules -/

/-- The scalar result of an instruction on the small state. -/
def gives (i : Instr) (d : Reg) : Option Word :=
  match exec i sA with
  | .next t => some (t.curTeam.reg d)
  | _ => none

/-- R132: −2^63 − 1 wraps to 2^63 − 1; −1 is below 5 as a signed number and above it as an unsigned one. -/
theorem test_alu : gives (.add 11 4 5) 11 = some 0x7FFFFFFFFFFFFFFF ∧ gives (.slt 11 5 2) 11 = some 1 ∧ gives (.sltu 11 5 2) 11 = some 0 ∧
    gives (.sra 11 4 2) 11 = some 0xFC00000000000000 ∧ gives (.clz 11 2) 11 = some 61 ∧ gives (.popc 11 5) 11 = some 64 ∧ gives (.sextB 11 5) 11 = some 0xFFFFFFFFFFFFFFFF := by
  decide +kernel

/-- R133: the borderline quotients. −2^63 times 5 has the high half −3 as a signed product, 2 as an unsigned one. -/
theorem test_mul : gives (.div 11 4 5) 11 = some 0x8000000000000000 ∧ gives (.rem 11 4 5) 11 = some 0 ∧ gives (.div 11 2 0) 11 = some 0xFFFFFFFFFFFFFFFF ∧
    gives (.remu 11 2 0) 11 = some 5 ∧ gives (.mulh 11 4 2) 11 = some 0xFFFFFFFFFFFFFFFD ∧ gives (.mulhu 11 4 2) 11 = some 2 := by
  decide +kernel

/-- R123: a write to s0 is discarded. -/
theorem test_s0 : gives (.add 0 1 2) 0 = some 0 ∧ gives (.addi 11 2 (-6)) 11 = some 0xFFFFFFFFFFFFFFFF ∧ gives (.lhi 11 1) 11 = some 8192 ∧
    gives (.lpc 11 (-1)) 11 = some 0x3FFFC := by
  decide +kernel

/-- R153, R155: an illegal control register traps at A-level with the word in TVAL. -/
theorem test_trap : ∃ t, exec (.crr 1 0x200) sA = .next t ∧ t.curTeam.level = .h ∧ t.curTeam.pc = 0x5000#64 ∧ t.curTeam.ctl.tcause = 1#8 ∧
    t.curTeam.ctl.tval = 1#64 ∧ t.curTeam.ctl.tpc = 0x40000#64 ∧ t.curTeam.reg 29#5 = 7#64 := by
  refine ⟨_, rfl, ?_⟩
  decide +kernel

/-- R145: a grant of 5 under a capacity of 256; GL reads in CR 0x010 (R127). -/
theorem test_setgl : gives (.setgl 11 2) 11 = some 5 ∧ gives (.setgl 11 1) 11 = some 256 := by decide +kernel

/-- R141: amo.add in local memory leaves the sum of old and source. -/
theorem test_amo : ∃ t, exec (.amoAdd 11 6 2 true true) sA = .next t ∧ t.ms.lmRead 0 32 8 = 5 ∧ t.curTeam.reg 11#5 = 0#64 := by
  refine ⟨_, rfl, ?_⟩
  decide +kernel

/-- R223, R209: 2 + 3 in the enabled elements below GL, the element at GL untouched. -/
def filled : VecState := { VecState.start with v := [(2, BitVec.ofNat 65536 (2 + 2 * 2 ^ 96 + 9 * 2 ^ 128)), (3, BitVec.ofNat 65536 (3 + 3 * 2 ^ 96 + 9 * 2 ^ 128))] }

theorem test_vadd : ∃ t, exec (.viqIssue 0 0) { sV 8 0 (.int .add vadd0) with teams := [(0, { (sV 8 0 (.int .add vadd0)).team 0 with vec := filled })] } = .next t ∧
    elem 32 ((t.team 0).vec.reg 1) 0 = 5 ∧ elem 32 ((t.team 0).vec.reg 1) 1 = 0 ∧ elem 32 ((t.team 0).vec.reg 1) 3 = 5 ∧ elem 32 ((t.team 0).vec.reg 1) 4 = 0 := by
  refine ⟨_, rfl, ?_⟩
  decide +kernel

/-- R330: taddi adds a sign-extended immediate. -/
theorem test_taddi : ∃ t, exec (.taddi 9 1 (-64)) sS = .next t ∧ t.treg 9#4 = 0x10000#64 := by
  refine ⟨_, rfl, ?_⟩
  decide +kernel

/-- R319: 1.0 times what the source holds, here 2.0 as f32. -/
theorem test_nmScale : ∃ t, exec (.nmScale one0) { sJob (oneJob 3) with ms := { mem0 with mem := storeLE [] 0x12000 4 0x40000000 } } = .next t ∧
    t.ms.homeRead 0x11000 4 = 0x40000000 ∧ (t.job? 3).map NmJob.count = some 1 := by
  refine ⟨_, rfl, ?_⟩
  decide +kernel

end Sys2Proof.Tests
end

section
/-! SUPPORT. Integer arithmetic on words, and what the functions of R132 and R133 compute in terms of the numbers that words stand
for. -/

namespace Sys2Proof.Machine

/-! ### Sums, differences and products as numbers -/

theorem add_eq_ofNat {w : Nat} (x y : BitVec w) : x + y = BitVec.ofNat w (x.toNat + y.toNat) := by
  simp [BitVec.ofNat_add]

theorem mul_eq_ofNat {w : Nat} (x y : BitVec w) : x * y = BitVec.ofNat w (x.toNat * y.toNat) := by
  simp [BitVec.ofNat_mul]

theorem sub_eq_ofInt {w : Nat} (x y : BitVec w) : x - y = BitVec.ofInt w (x.toInt - y.toInt) :=
  BitVec.eq_of_toInt_eq (by simp [BitVec.toInt_sub])

/-! ### Shifts and rotations as numbers -/

theorem shiftLeft_eq_ofNat {w : Nat} (x : BitVec w) (n : Nat) : x <<< n = BitVec.ofNat w (x.toNat * 2 ^ n) :=
  BitVec.eq_of_toNat_eq (by simp [Nat.shiftLeft_eq])

theorem ushiftRight_eq_ofNat {w : Nat} (x : BitVec w) (n : Nat) : x >>> n = BitVec.ofNat w (x.toNat / 2 ^ n) := by
  have hlt : x.toNat / 2 ^ n < 2 ^ w := Nat.lt_of_le_of_lt (Nat.div_le_self _ _) x.isLt
  exact BitVec.eq_of_toNat_eq (by simp [Nat.shiftRight_eq_div_pow, Nat.mod_eq_of_lt hlt])

theorem sshiftRight_eq_ofInt {w : Nat} (x : BitVec w) (n : Nat) :
    x.sshiftRight n = BitVec.ofInt w (x.toInt / (2 ^ n : Nat)) := by
  rw [BitVec.sshiftRight, Int.shiftRight_eq_div_pow]

/-- The two halves of a rotation share no bit, so joining them adds them. -/
theorem shiftLeft_or_ushiftRight_eq_ofNat {w m n : Nat} (x : BitVec w) (h : m + n = w) :
    x <<< m ||| x >>> n = BitVec.ofNat w (x.toNat * 2 ^ m + x.toNat / 2 ^ n) := by
  have disjoint : x <<< m &&& x >>> n = 0#w := by
    ext i hi
    by_cases hm : i < m
    · simp [hm]
    · simp [BitVec.getLsbD_of_ge x (n + i) (by omega)]
  rw [← BitVec.add_eq_or_of_and_eq_zero _ _ disjoint, shiftLeft_eq_ofNat, ushiftRight_eq_ofNat, BitVec.ofNat_add]

theorem rotateLeft_eq_ofNat {w n : Nat} (x : BitVec w) (h : n < w) :
    x.rotateLeft n = BitVec.ofNat w (x.toNat * 2 ^ n + x.toNat / 2 ^ (w - n)) := by
  rw [BitVec.rotateLeft_def, Nat.mod_eq_of_lt h, shiftLeft_or_ushiftRight_eq_ofNat x (by omega)]

theorem rotateRight_eq_ofNat {w n : Nat} (x : BitVec w) (h : n < w) :
    x.rotateRight n = BitVec.ofNat w (x.toNat / 2 ^ n + x.toNat * 2 ^ (w - n)) := by
  rw [BitVec.rotateRight_def, Nat.mod_eq_of_lt h, BitVec.or_comm, shiftLeft_or_ushiftRight_eq_ofNat x (by omega),
    Nat.add_comm]

theorem sh_lt (y : Word) : sh y < 64 := Nat.mod_lt _ (by decide)

/-! ### Comparisons, minimum and maximum as numbers -/

theorem ofBool64_slt (x y : Word) : ofBool64 (x.slt y) = if x.toInt < y.toInt then 1#64 else 0#64 := by
  simp only [ofBool64, BitVec.slt_iff_toInt_lt]

theorem ofBool64_ult (x y : Word) : ofBool64 (x.ult y) = if x.toNat < y.toNat then 1#64 else 0#64 := by
  simp only [ofBool64, BitVec.ult_iff_lt, BitVec.lt_def]

theorem lesser_slt_eq_ofInt {w : Nat} (x y : BitVec w) :
    (if y.slt x then y else x) = BitVec.ofInt w (min x.toInt y.toInt) := by
  by_cases h : y.toInt < x.toInt
  · rw [if_pos (BitVec.slt_iff_toInt_lt.mpr h), Int.min_eq_right (Int.le_of_lt h), BitVec.ofInt_toInt]
  · rw [if_neg (mt BitVec.slt_iff_toInt_lt.mp h), Int.min_eq_left (Int.not_lt.mp h), BitVec.ofInt_toInt]

theorem greater_slt_eq_ofInt {w : Nat} (x y : BitVec w) :
    (if x.slt y then y else x) = BitVec.ofInt w (max x.toInt y.toInt) := by
  by_cases h : x.toInt < y.toInt
  · rw [if_pos (BitVec.slt_iff_toInt_lt.mpr h), Int.max_eq_right (Int.le_of_lt h), BitVec.ofInt_toInt]
  · rw [if_neg (mt BitVec.slt_iff_toInt_lt.mp h), Int.max_eq_left (Int.not_lt.mp h), BitVec.ofInt_toInt]

theorem lesser_ult_eq_ofNat {w : Nat} (x y : BitVec w) :
    (if y.ult x then y else x) = BitVec.ofNat w (min x.toNat y.toNat) := by
  by_cases h : y.toNat < x.toNat
  · rw [if_pos (BitVec.ult_iff_lt.mpr h), Nat.min_eq_right (Nat.le_of_lt h), BitVec.ofNat_toNat, BitVec.setWidth_eq]
  · rw [if_neg (mt BitVec.ult_iff_lt.mp h), Nat.min_eq_left (Nat.not_lt.mp h), BitVec.ofNat_toNat, BitVec.setWidth_eq]

theorem greater_ult_eq_ofNat {w : Nat} (x y : BitVec w) :
    (if x.ult y then y else x) = BitVec.ofNat w (max x.toNat y.toNat) := by
  by_cases h : x.toNat < y.toNat
  · rw [if_pos (BitVec.ult_iff_lt.mpr h), Nat.max_eq_right (Nat.le_of_lt h), BitVec.ofNat_toNat, BitVec.setWidth_eq]
  · rw [if_neg (mt BitVec.ult_iff_lt.mp h), Nat.max_eq_left (Nat.not_lt.mp h), BitVec.ofNat_toNat, BitVec.setWidth_eq]

/-! ### The unary functions of R132 -/

/-- The highest one of a word that is not zero stands at its binary logarithm, with clz64 zeros above it. -/
theorem clz64_spec (x : Word) : clz64 x ≤ 64 ∧ (∀ i, i < clz64 x → x.getMsbD i = false) ∧
    (clz64 x < 64 → x.getMsbD (clz64 x) = true) := by
  by_cases hx : x = 0#64
  · simp [clz64, hx]
  · have hne : x.toNat ≠ 0 := fun h => hx (BitVec.eq_of_toNat_eq h)
    have hlog : Nat.log2 x.toNat < 64 := (Nat.log2_lt hne).mpr x.isLt
    have hclz : clz64 x = 63 - Nat.log2 x.toNat := if_neg hx
    have htop : x.getLsbD (Nat.log2 x.toNat) = true := Nat.testBit_log2 hne
    refine ⟨by omega, fun i hi => ?_, fun _ => ?_⟩
    · have hzero : x.getLsbD (63 - i) = false := Nat.testBit_lt_two_pow ((Nat.log2_lt hne).mp (by omega))
      simp [BitVec.getMsbD_eq_getLsbD, hzero]
    · have hidx : 64 - 1 - clz64 x = Nat.log2 x.toNat := by omega
      rw [BitVec.getMsbD_eq_getLsbD, hidx, htop, Bool.and_true, decide_eq_true_eq]
      omega

/-- ctz64 is the least index of a one, or 64 where there is none. -/
theorem ctz64_spec (x : Word) : ctz64 x ≤ 64 ∧ (∀ i, i < ctz64 x → x.getLsbD i = false) ∧
    (ctz64 x < 64 → x.getLsbD (ctz64 x) = true) := by
  unfold ctz64
  cases hf : (List.range 64).find? (fun i => x.getLsbD i) with
  | none =>
    rw [List.find?_range_eq_none] at hf
    exact ⟨Nat.le_refl 64, by simpa using hf, fun h => absurd h (Nat.lt_irrefl 64)⟩
  | some n =>
    obtain ⟨hone, hn, hlow⟩ := List.find?_range_eq_some.mp hf
    exact ⟨Nat.le_of_lt (List.mem_range.mp hn), by simpa using hlow, fun _ => hone⟩

theorem popc64_eq_countP (x : Word) : popc64 x = (List.range 64).countP (fun i => x.getLsbD i) :=
  List.countP_eq_length_filter.symm

theorem sextLow_eq_ofInt {n : Nat} (h : n ≤ 64) (x : Word) : sextLow n x = BitVec.ofInt 64 (x.extractLsb' 0 n).toInt := by
  rw [sextLow, BitVec.setWidth_eq_extractLsb' h, BitVec.signExtend]

theorem zextLow_eq_ofNat (n : Nat) (x : Word) : zextLow n x = BitVec.ofNat 64 (x.toNat % 2 ^ n) := by
  rw [zextLow, ← BitVec.toNat_setWidth, BitVec.ofNat_toNat]

/-! ### Products and quotients of R133 -/

theorem mulHigh_natCast (n : Nat) : mulHigh n = BitVec.ofNat 64 (n / 2 ^ 64) := by
  rw [mulHigh, ← Int.natCast_ediv, BitVec.ofInt_natCast]

@[simp] theorem divS_zero (x : Word) : divS x 0#64 = BitVec.ofInt 64 (-1) := rfl
@[simp] theorem divU_zero (x : Word) : divU x 0#64 = BitVec.allOnes 64 := rfl
@[simp] theorem remS_zero (x : Word) : remS x 0#64 = x := rfl
@[simp] theorem remU_zero (x : Word) : remU x 0#64 = x := rfl

theorem divS_intMin_neg_one : divS (BitVec.intMin 64) (BitVec.ofInt 64 (-1)) = BitVec.intMin 64 := by decide
theorem remS_intMin_neg_one : remS (BitVec.intMin 64) (BitVec.ofInt 64 (-1)) = 0#64 := by decide

/-- Truncated division (R133): the remainder is below the divisor in magnitude and has the sign of the dividend. -/
theorem tdiv_tmod_spec (a : Int) {b : Int} (hb : b ≠ 0) :
    a = a.tdiv b * b + a.tmod b ∧ (a.tmod b).natAbs < b.natAbs ∧ (0 ≤ a → 0 ≤ a.tmod b) ∧ (a ≤ 0 → a.tmod b ≤ 0) := by
  refine ⟨(Int.tdiv_mul_add_tmod a b).symm, ?_, Int.tmod_nonneg b, fun ha => ?_⟩
  · rw [Int.natAbs_tmod]
    exact Nat.mod_lt _ (Int.natAbs_pos.mpr hb)
  · have hneg : 0 ≤ (-a).tmod b := Int.tmod_nonneg b (Int.neg_nonneg_of_nonpos ha)
    rw [Int.neg_tmod] at hneg
    omega

/-- The signed quotient and remainder of words, by a divisor other than zero. -/
theorem divS_remS_spec (x : Word) {y : Word} (hy : y ≠ 0#64) :
    ∃ q r : Int, divS x y = BitVec.ofInt 64 q ∧ remS x y = BitVec.ofInt 64 r ∧
      x.toInt = q * y.toInt + r ∧ r.natAbs < y.toInt.natAbs ∧ (0 ≤ x.toInt → 0 ≤ r) ∧ (x.toInt ≤ 0 → r ≤ 0) :=
  have hb : y.toInt ≠ 0 := fun h => hy (BitVec.eq_of_toInt_eq h)
  ⟨_, _, if_neg hy, if_neg hy, tdiv_tmod_spec x.toInt hb⟩

/-- The unsigned quotient and remainder of words, by a divisor other than zero. -/
theorem divU_remU_spec (x : Word) {y : Word} (hy : y ≠ 0#64) :
    ∃ q r : Nat, divU x y = BitVec.ofNat 64 q ∧ remU x y = BitVec.ofNat 64 r ∧ x.toNat = q * y.toNat + r ∧ r < y.toNat :=
  have hb : 0 < y.toNat := Nat.pos_of_ne_zero fun h => hy (BitVec.eq_of_toNat_eq h)
  ⟨_, _, if_neg hy, if_neg hy, (Nat.div_add_mod' x.toNat y.toNat).symm, Nat.mod_lt _ hb⟩

/-! ### Decoding the S class (R90, R95) -/

theorem decodeFields_of_scalar {f : Fields} (h : f.cls = 0#2) : decodeFields f = decodeS f := by
  simp [decodeFields, h]

/-- R90: with sb other than 0, no unary function of the ALU group is read. -/
theorem decodeS_unary_refused {f : Fields} (hop : f.op = 0#6) (hlo : 14 ≤ f.lo.toNat) (hhi : f.lo.toNat ≤ 22)
    (hb : f.b ≠ 0#5) : decodeS f = .error .fieldNotAllowed := by
  have hfn : ∀ k : BitVec 8, k.toNat < 14 ∨ 22 < k.toNat → f.lo ≠ k := by
    rintro k hk rfl
    omega
  simp [decodeS, hop, hb, hfn]

end Sys2Proof.Machine
end

section
/-! SETTLED. The ALU and MUL groups (R132, R133): each function's meaning is one write of its result (`gives_write`), and the result
is the number the rule names. -/

namespace Sys2Proof.Machine

/-- Settles O1: every function of the ALU group writes its result at latency 1, and the decoder reads each from its fn. -/
theorem aluGroup : Obligations.AluGroup := by
  unfold Obligations.AluGroup
  refine ⟨fun s d a b h => ?binary, fun s d a h => ?unary, fun d a b => ?reads, fun f hcls hop hlo hhi hb => ?refused⟩
  case binary =>
    exact ⟨
      gives_write h rfl (add_eq_ofNat _ _),
      gives_write h rfl (sub_eq_ofInt _ _),
      gives_write h rfl rfl,
      gives_write h rfl rfl,
      gives_write h rfl rfl,
      gives_write h rfl (shiftLeft_eq_ofNat _ _),
      gives_write h rfl (ushiftRight_eq_ofNat _ _),
      gives_write h rfl (sshiftRight_eq_ofInt _ _),
      gives_write h rfl (ofBool64_slt _ _),
      gives_write h rfl (ofBool64_ult _ _),
      gives_write h rfl (lesser_slt_eq_ofInt _ _),
      gives_write h rfl (greater_slt_eq_ofInt _ _),
      gives_write h rfl (lesser_ult_eq_ofNat _ _),
      gives_write h rfl (greater_ult_eq_ofNat _ _),
      gives_write h rfl rfl,
      gives_write h rfl rfl,
      gives_write h rfl (rotateLeft_eq_ofNat _ (sh_lt _)),
      gives_write h rfl (rotateRight_eq_ofNat _ (sh_lt _))⟩
  case unary =>
    exact ⟨
      ⟨_, gives_write h rfl rfl, clz64_spec _⟩,
      ⟨_, gives_write h rfl rfl, ctz64_spec _⟩,
      gives_write h rfl (congrArg _ (popc64_eq_countP _)),
      gives_write h rfl (sextLow_eq_ofInt (by decide) _),
      gives_write h rfl (sextLow_eq_ofInt (by decide) _),
      gives_write h rfl (sextLow_eq_ofInt (by decide) _),
      gives_write h rfl (zextLow_eq_ofNat 8 _),
      gives_write h rfl (zextLow_eq_ofNat 16 _),
      gives_write h rfl (zextLow_eq_ofNat 32 _)⟩
  case reads => simp [decodeFields_of_scalar, decodeS]
  case refused => exact ⟨_, (decodeFields_of_scalar hcls).trans (decodeS_unary_refused hop hlo hhi hb)⟩

/-- Settles O2: products at latency 3, quotients and remainders at latency 12, the borderline results among them. -/
theorem mulGroup : Obligations.MulGroup := by
  unfold Obligations.MulGroup
  refine ⟨fun s d a b h => ⟨?mul, ?mulh, ?mulhu, ?mulhsu, fun hy => ?byZero, fun hx hy => ?overflow, fun hy => ?signed,
    fun hy => ?unsigned⟩, fun d a b => ?reads⟩
  case mul => exact gives_write h rfl (mul_eq_ofNat _ _)
  case mulh => exact gives_write h rfl rfl
  case mulhu => exact gives_write h rfl (mulHigh_natCast _)
  case mulhsu => exact gives_write h rfl rfl
  case byZero =>
    exact ⟨gives_write h rfl (by rw [hy, divS_zero]), gives_write h rfl (by rw [hy, divU_zero]),
      gives_write h rfl (by rw [hy, remS_zero]), gives_write h rfl (by rw [hy, remU_zero])⟩
  case overflow =>
    exact ⟨gives_write h rfl (by rw [hx, hy, divS_intMin_neg_one]), gives_write h rfl (by rw [hx, hy, remS_intMin_neg_one])⟩
  case signed =>
    obtain ⟨q, r, hq, hr, hspec⟩ := divS_remS_spec (s.rd a) hy
    exact ⟨q, r, gives_write h rfl hq, gives_write h rfl hr, hspec⟩
  case unsigned =>
    obtain ⟨q, r, hq, hr, hspec⟩ := divU_remU_spec (s.rd a) hy
    exact ⟨q, r, gives_write h rfl hq, gives_write h rfl hr, hspec⟩
  case reads => simp [decodeFields_of_scalar, decodeS]

end Sys2Proof.Machine
end
